-- ==== Sys2Proof/Word.lean ====
section
/-! DEFINITION. The word types and their plainest arithmetic: a byte, a register word, and Nat bit fields. -/
namespace Sys2Proof

abbrev Byte := BitVec 8
abbrev Word := BitVec 64

end Sys2Proof
end

