-- ==== Sys2Proof/Config.lean ====
section
/-! DEFINITION. What the spec leaves free: constants with no body, which no proof can look into. Each is applied to the
operands it depends on, or to the counter `Chip.free`, which the model keeps for that purpose only (log entry 1). -/
namespace Sys2Proof

/-- A value the spec leaves open, fresh for each value of the counter; the user narrows it to the field's width. -/
opaque Config.freeNat : Nat → Nat

/-- What a byte of memory holds whose contents the spec calls undefined (R5, R22, R128), by loss epoch and address. -/
opaque Config.freeByte : Nat → Nat → Byte

/-- What a register of the rill unit holds after a reset that leaves it undefined (R128): epoch, cluster, index. -/
opaque Config.freeReg : Nat → Nat → Nat → Nat

/-- The result bits of a special function or activation within its error bound (R53 codes 3-6, R133): function number
and FP32 operand bits. -/
opaque Config.special : Nat → Nat → Nat

/-- One custom temper program (R145), whose micro-operations the spec does not encode: 256 × image interface version + slot, then the
lane's inputs; the results are the new master and moments, as W40 values' bits. -/
opaque Config.customTemper : Nat → List Nat → List Nat

/-- The cycle count that an unbroken Whole-mode kernel reads (R7, R213), by all that the spec lets it depend on. -/
opaque Config.wholeCycle : List Nat → Nat

/-- The 64-bit values the hub's entropy source gives, one after another (R123). -/
opaque Config.entropy : Nat → Nat

/-- The vendor ID of Varporen Microsystems, whose number the spec does not give (R419). -/
opaque Config.vendorId : Nat

/-- The interface version that ID controls carry (R279). -/
opaque Config.linkVersion : Nat

/-- ML-DSA-44 verification (R438, R443, R444, R452): public key, message, signature. -/
opaque Config.verify : List Byte → List Byte → List Byte → Bool

/-- ML-DSA-44 signing by hub h's identity key (R450): the hub, the message and a randomiser; 2,420 bytes. -/
opaque Config.sign : Nat → List Byte → Nat → List Byte

/-- The public key of hub h, as its physical unclonable function gives it (R447). -/
opaque Config.hubKey : Nat → List Byte

/-- Whether hub h's public key matches its certificate in the identity area (R447, R448). -/
opaque Config.certOk : Nat → List Byte → Bool

/-- The certificate chain held in the identity area, whose layout the spec does not give (R448). -/
opaque Config.certChain : List Byte → List Byte

/-- The public keys in the boot ROM (R438, R444, R452): 0 and 1 image signing, 2 factory policy, 3 Vendor debug. -/
opaque Config.romKey : Nat → List Byte

/-- The boot ROM's digest and version, and the stepping codes of the dies of a kind: 1 hub, 2 fountain, 3 forge (R439, R449). -/
opaque Config.romDigest : List Byte
opaque Config.romVersion : Nat
opaque Config.stepping : Nat → List Nat

/-- Header fields of a policy part, whose layout the spec does not give (R443): 0 IFACE, 1 VERSION, 2 length in bytes; and the
values it holds: of a register's field by register offset and lowest bit; and by number 0 Open, 1 Boost, 2 Compatibility,
3 Guarded, 4 the PF BAR4 reset size as a power of two, 5 GOOD_S, 6 + b whether basin b's tenant shares power, 12 the subsystem
IDs, 13 TotalVFs. -/
opaque Config.policyHdr : List Byte → Nat → Nat
opaque Config.policyField : List Byte → Nat → Nat → Nat
opaque Config.policyMode : List Byte → Nat → Nat

/-- Fields of an owner record, whose layout the spec does not give (R444): 0 policy floor, 1-3 SVN floors by image kind,
4 revocation bits, 5 its version; and the owner's public key. -/
opaque Config.ownerField : List Byte → Nat → Nat
opaque Config.ownerKey : List Byte → List Byte

/-- Whether a new owner record (second) is signed by the key of the record in force (first), whose layout the spec does not give (R444). -/
opaque Config.ownerSigned : List Byte → List Byte → Bool

/-- The custom slots that a microcode image body fills (R145, R146). -/
opaque Config.ucodeSlots : List Byte → Nat

/-- The code that IDCODE shifts out (R452), which the spec does not give. -/
opaque Config.idcode : Nat

/-- The parity symbols of a Reed-Solomon codeword over 10-bit symbols, whose generator the spec does not give (R274, R275): the
codeword's length and its payload symbols. -/
opaque Config.rsParity : Nat → List Nat → List Nat

end Sys2Proof
end

