-- ==== Sys2Proof/Machine/Bits.lean ====
section
/-! DEFINITION. Bit fields of natural numbers, byte order, sign extension and wrapping counters: the helpers every
meaning shares. -/
namespace Sys2Proof.Machine

/-- Bits [lo + len - 1 : lo] of `w`. -/
def bits (w lo len : Nat) : Nat := (w >>> lo) % 2 ^ len

/-- Bit `i` of `w`. -/
def bit (w i : Nat) : Bool := (w >>> i) % 2 == 1

/-- `w` with bits [lo + len - 1 : lo] replaced by the low `len` bits of `v`. -/
def setBits (w lo len v : Nat) : Nat :=
  w % 2 ^ lo + (v % 2 ^ len) * 2 ^ lo + (w >>> (lo + len)) * 2 ^ (lo + len)

/-- The signed value of the low `n` bits of `w`. -/
def sext (n w : Nat) : Int := if 2 * (w % 2 ^ n) < 2 ^ n then (w % 2 ^ n : Nat) else (w % 2 ^ n : Nat) - (2 ^ n : Nat)

/-- The two's-complement image of `i` in `n` bits. -/
def wrapInt (n : Nat) (i : Int) : Nat := (i % (2 ^ n : Nat)).toNat

/-- The little-endian number that a list of bytes spells, the first byte least significant (R35, R164). -/
def leNat : List Byte → Nat
  | [] => 0
  | b :: t => b.toNat + 256 * leNat t

/-- The `n` little-endian bytes of a number. -/
def leBytes : Nat → Nat → List Byte
  | 0, _ => []
  | n + 1, v => BitVec.ofNat 8 v :: leBytes n (v / 256)

/-- Addition in a field of `n` bits that wraps. -/
def addMod (n a b : Nat) : Nat := (a + b) % 2 ^ n

/-- Subtraction in a field of `n` bits that wraps. -/
def subMod (n a b : Nat) : Nat := (a + 2 ^ n - b % 2 ^ n) % 2 ^ n

/-- The smaller of a value and a ceiling. -/
def satTo (top v : Nat) : Nat := if v ≤ top then v else top

/-- The position of the most significant set bit of `n`, plus one (0 for 0). -/
def bitLen (n : Nat) : Nat := if n = 0 then 0 else Nat.log2 n + 1

/-- ceil(a / b). -/
def ceilDiv (a b : Nat) : Nat := (a + b - 1) / b

/-- The number that the Boolean stands for in a one-bit field. -/
def b2n (b : Bool) : Nat := if b then 1 else 0

end Sys2Proof.Machine
end

