-- ==== Sys2Proof/Machine/Fp.lean ====
section
/-! DEFINITION. Number formats, rounding and conversion (03 R66-R88). A value is kept exactly, as a sign, a magnitude and
a power of two; every result is formed exactly and rounded once. -/
namespace Sys2Proof.Machine

/-- The fifteen formats of R66. -/
inductive Fmt where
  | fp64 | fp32 | w40 | bf16 | fp16 | e5m2 | e4m3 | e3m2 | e2m3 | e2m1 | e8m0 | int32 | int16 | int8 | int4
  deriving DecidableEq, Repr

/-- An exact value: a NaN, an infinity, or (-1)^neg * m * 2^e (m = 0 is the zero of that sign). -/
inductive Val where
  | nan
  | inf (neg : Bool)
  | fin (neg : Bool) (m : Nat) (e : Int)
  deriving DecidableEq, Repr

/-- Width in bits (R66). -/
def Fmt.width : Fmt → Nat
  | .fp64 => 64 | .fp32 => 32 | .w40 => 40 | .bf16 => 16 | .fp16 => 16 | .e5m2 => 8 | .e4m3 => 8 | .e3m2 => 6
  | .e2m3 => 6 | .e2m1 => 4 | .e8m0 => 8 | .int32 => 32 | .int16 => 16 | .int8 => 8 | .int4 => 4

/-- Exponent field width, fraction field width and bias (R66). -/
def Fmt.shape : Fmt → Nat × Nat × Nat
  | .fp64 => (11, 52, 1023) | .fp32 => (8, 23, 127) | .w40 => (8, 31, 127) | .bf16 => (8, 7, 127)
  | .fp16 => (5, 10, 15) | .e5m2 => (5, 2, 15) | .e4m3 => (4, 3, 7) | .e3m2 => (3, 2, 3) | .e2m3 => (2, 3, 1)
  | .e2m1 => (2, 1, 1) | .e8m0 => (8, 0, 127) | _ => (0, 0, 0)

def Fmt.isInt : Fmt → Bool
  | .int32 | .int16 | .int8 | .int4 => true
  | _ => false

/-- The formats that have infinities (R66). -/
def Fmt.hasInf : Fmt → Bool
  | .fp64 | .fp32 | .w40 | .bf16 | .fp16 | .e5m2 => true
  | _ => false

/-- The formats without NaN, written in MX layout only (R81). -/
def Fmt.mxOnly : Fmt → Bool
  | .e3m2 | .e2m3 | .e2m1 => true
  | _ => false

def Fmt.fbits (f : Fmt) : Nat := f.shape.2.1
def Fmt.bias (f : Fmt) : Nat := f.shape.2.2

/-- Exponent of the least significant fraction bit of a subnormal. -/
def Fmt.qmin (f : Fmt) : Int := 1 - (f.bias : Int) - (f.fbits : Int)

/-- The canonical NaN (R68). -/
def Fmt.canonNaN : Fmt → Nat
  | .fp64 => 0x7FF8000000000000 | .fp32 => 0x7FC00000 | .w40 => 0x7FC0000000 | .bf16 => 0x7FC0 | .fp16 => 0x7E00
  | .e5m2 => 0x7E | .e4m3 => 0x7F | .e8m0 => 0xFF | _ => 0

/-- The exact value of a code (R67, R68, R70, R71); `signed` is the signedness flag of an integer. -/
def decodeVal (f : Fmt) (signed : Bool) (c : Nat) : Val :=
  if f.isInt then
    let i : Int := if signed then sext f.width c else ((c % 2 ^ f.width : Nat) : Int)
    .fin (decide (i < 0)) i.natAbs 0
  else if f = .e8m0 then
    if c % 256 = 255 then .nan else .fin false 1 ((c % 256 : Nat) - 127 : Int)
  else
    let (eb, fb, _) := f.shape
    let neg := bit c (f.width - 1)
    let e := bits c fb eb
    let m := bits c 0 fb
    if f.hasInf && e == 2 ^ eb - 1 then (if m = 0 then .inf neg else .nan)
    else if f = .e4m3 && e == 15 && m == 7 then .nan
    else if e = 0 then .fin neg m f.qmin
    else .fin neg (2 ^ fb + m) (f.qmin + (e : Int) - 1)

/-- Rounding: to nearest even, or stochastic with the 16-bit draw given (R82, R83). -/
inductive Rnd where
  | nearest
  | stoch (r : Nat)
  deriving DecidableEq, Repr

/-- `m` shifted right by `d` and rounded to an integer (R82, R83). -/
def roundShift (rnd : Rnd) (m d : Nat) : Nat :=
  if d = 0 then m else
    let k := m >>> d
    let rem := m % 2 ^ d
    match rnd with
    | .nearest =>
      if 2 * rem > 2 ^ d ∨ (2 * rem = 2 ^ d ∧ k % 2 = 1) then k + 1 else k
    | .stoch r =>
      let dd := if d ≥ 16 then rem >>> (d - 16) else rem * 2 ^ (16 - d)
      if dd > r then k + 1 else k

/-- The magnitude m * 2^e rounded to a multiple n * 2^q of the target's step, the exponent unbounded above: (n, q). -/
def roundMag (rnd : Rnd) (fb : Nat) (qmin : Int) (m : Nat) (e : Int) : Nat × Int :=
  let q := max (e + (bitLen m : Int) - 1 - (fb : Int)) qmin
  if q ≤ e then (m * 2 ^ (e - q).toNat, q) else (roundShift rnd m (q - e).toNat, q)

/-- m1 * 2^e1 < m2 * 2^e2. -/
def magLt (m1 : Nat) (e1 : Int) (m2 : Nat) (e2 : Int) : Bool :=
  let e := min e1 e2
  decide (m1 * 2 ^ (e1 - e).toNat < m2 * 2 ^ (e2 - e).toNat)

/-- The largest finite magnitude of a float format (R66). -/
def Fmt.maxFin (f : Fmt) : Nat × Int :=
  let (eb, fb, _) := f.shape
  if f = .e4m3 then (14, f.qmin + 14)
  else if f.hasInf then (2 ^ (fb + 1) - 1, f.qmin + (2 ^ eb : Nat) - 3)
  else (2 ^ (fb + 1) - 1, f.qmin + (2 ^ eb : Nat) - 2)

/-- The code of a magnitude n * 2^q that the float format holds exactly. -/
def encodeMag (f : Fmt) (neg : Bool) (n : Nat) (q : Int) : Nat :=
  let (_, fb, _) := f.shape
  let s := b2n neg * 2 ^ (f.width - 1)
  if n = 0 then s else
    let top := q + (bitLen n : Int) - 1
    let ef := top - f.qmin - (fb : Int) + 1
    if ef < 1 then s + n * 2 ^ (q - f.qmin).toNat
    else
      let fr := if (bitLen n) ≤ fb + 1 then n * 2 ^ (fb + 1 - bitLen n) else n >>> (bitLen n - fb - 1)
      s + ef.toNat * 2 ^ fb + fr % 2 ^ fb

/-- The code of infinity. -/
def Fmt.infCode (f : Fmt) (neg : Bool) : Nat :=
  b2n neg * 2 ^ (f.width - 1) + (2 ^ f.shape.1 - 1) * 2 ^ f.fbits

/-- An arithmetic result in a format that has infinities: rounded to nearest even, beyond the range an infinity
(R75, R82), every NaN canonical (R68). -/
def roundArith (f : Fmt) (v : Val) : Nat :=
  match v with
  | .nan => f.canonNaN
  | .inf neg => f.infCode neg
  | .fin neg m e =>
    if m = 0 then b2n neg * 2 ^ (f.width - 1) else
      let (n, q) := roundMag .nearest f.fbits f.qmin m e
      let (mm, me) := f.maxFin
      if magLt mm me n q then f.infCode neg else encodeMag f neg n q

/-- Negation. -/
def Val.neg : Val → Val
  | .nan => .nan
  | .inf s => .inf (!s)
  | .fin s m e => .fin (!s) m e

def Val.isNaN : Val → Bool
  | .nan => true
  | _ => false

def Val.isFin : Val → Bool
  | .fin _ _ _ => true
  | _ => false

def Val.isZero : Val → Bool
  | .fin _ 0 _ => true
  | _ => false

def Val.isNeg : Val → Bool
  | .nan => false
  | .inf s => s
  | .fin s _ _ => s

/-- The exact product. -/
def Val.mul (a b : Val) : Val :=
  match a, b with
  | .nan, _ => .nan
  | _, .nan => .nan
  | .inf s, .inf t => .inf (s != t)
  | .inf s, .fin t m _ => if m = 0 then .nan else .inf (s != t)
  | .fin s m _, .inf t => if m = 0 then .nan else .inf (s != t)
  | .fin s m e, .fin t n d => .fin (s != t) (m * n) (e + d)

/-- The signed integer m * 2^(e - b). -/
def signedMag (s : Bool) (m : Nat) (e b : Int) : Int :=
  let k : Int := ((m * 2 ^ (e - b).toNat : Nat) : Int)
  if s then -k else k

/-- The exact sum; an exact zero is +0 unless both addends are negative zeros. -/
def Val.add (a b : Val) : Val :=
  match a, b with
  | .nan, _ => .nan
  | _, .nan => .nan
  | .inf s, .inf t => if s = t then .inf s else .nan
  | .inf s, .fin _ _ _ => .inf s
  | .fin _ _ _, .inf t => .inf t
  | .fin s m e, .fin t n d =>
    let lo := min e d
    let i := signedMag s m e lo + signedMag t n d lo
    if i = 0 then .fin (s && t && m == 0 && n == 0) 0 lo else .fin (decide (i < 0)) i.natAbs lo

def Val.sub (a b : Val) : Val := a.add b.neg

/-- a * b + c, exact. -/
def Val.fma (a b c : Val) : Val := (a.mul b).add c

/-- a < b on values that are no NaN (−0 = +0). -/
def Val.lt (a b : Val) : Bool :=
  match a, b with
  | .nan, _ => false
  | _, .nan => false
  | .inf s, .inf t => s && !t
  | .inf s, .fin _ _ _ => s
  | .fin _ _ _, .inf t => !t
  | .fin s m e, .fin t n d => let lo := min e d; decide (signedMag s m e lo < signedMag t n d lo)

/-- a = b on values that are no NaN (−0 = +0). -/
def Val.eq (a b : Val) : Bool := !a.isNaN && !b.isNaN && !a.lt b && !b.lt a

/-- Magnitude. -/
def Val.abs : Val → Val
  | .nan => .nan
  | .inf _ => .inf false
  | .fin _ m e => .fin false m e

/-- The value times 2^k, exactly. -/
def Val.scale (k : Int) : Val → Val
  | .fin s m e => .fin s m (e + k)
  | v => v

/-- The quotient with a sticky last bit, precise enough to be rounded once to any format of R66. -/
def Val.div (a b : Val) : Val :=
  match a, b with
  | .nan, _ => .nan
  | _, .nan => .nan
  | .inf _, .inf _ => .nan
  | .inf s, .fin t _ _ => .inf (s != t)
  | .fin s _ _, .inf t => .fin (s != t) 0 0
  | .fin s m e, .fin t n d =>
    if n = 0 then (if m = 0 then .nan else .inf (s != t))
    else
      let k := 66 + bitLen n
      let q := (m * 2 ^ k) / n
      let r := (m * 2 ^ k) % n
      .fin (s != t) (2 * q + (if r = 0 then 0 else 1)) (e - d - k - 1)

/-- The greatest r below 2^k more than r0 with r * r ≤ n, bit by bit. -/
def isqrtAux (n : Nat) : Nat → Nat → Nat
  | 0, r => r
  | k + 1, r => if (r + 2 ^ k) * (r + 2 ^ k) ≤ n then isqrtAux n k (r + 2 ^ k) else isqrtAux n k r

/-- floor(sqrt n). -/
def isqrt (n : Nat) : Nat := isqrtAux n (bitLen n / 2 + 1) 0

/-- The square root with a sticky last bit; of a negative number a NaN, of a zero that zero. -/
def Val.sqrt (a : Val) : Val :=
  match a with
  | .nan => .nan
  | .inf s => if s then .nan else .inf false
  | .fin s m e =>
    if m = 0 then .fin s 0 0
    else if s then .nan
    else
      let m1 : Nat := if e % 2 = 0 then m else 2 * m
      let e1 : Int := if e % 2 = 0 then e else e - 1
      let k : Nat := 66
      let n := m1 * 2 ^ (2 * k)
      let r := isqrt n
      .fin false (2 * r + (if r * r = n then 0 else 1)) (e1 / 2 - k - 1)

/-- Overflow mode of a tag (R86). -/
inductive Ovf where
  | saturate | strict
  deriving DecidableEq, Repr

/-- What one conversion gives: the code, the counts of R84-R88, whether the element fires the first-NaN trap (R92), and
whether the result is a NaN or an infinity (R91). -/
structure Conv where
  code : Nat
  clamp : Bool := false
  flush : Bool := false
  nonfinite : Bool := false
  trap : Bool := false
  nanRes : Bool := false
  infRes : Bool := false
  deriving DecidableEq, Repr

/-- The integer limits of a format and signedness (R66). -/
def Fmt.intMax (f : Fmt) (signed : Bool) : Int := if signed then 2 ^ (f.width - 1) - 1 else 2 ^ f.width - 1
def Fmt.intMin (f : Fmt) (signed : Bool) : Int := if signed then - 2 ^ (f.width - 1) else 0

/-- A finite value rounded to an integer (R87). -/
def roundInt (rnd : Rnd) (s : Bool) (m : Nat) (e : Int) : Int :=
  let n := if e ≥ 0 then m * 2 ^ e.toNat else roundShift rnd m (-e).toNat
  if s then -(n : Int) else n

/-- Explicit conversion to E8M0 (R70), of a value held in FP32. -/
def toE8M0 (v : Val) : Nat :=
  match v with
  | .nan => 0xFF
  | .inf _ => 0xFF
  | .fin _ m e =>
    if m = 0 then 0 else
      let l := e + (bitLen m : Int) - 1 + 127
      if l < 0 then 0 else if l > 254 then 254 else l.toNat

/-- Conversion of a value to a format, element by element (R84-R88). Under Stochastic rounding a value beyond the largest, or below the
least, integer of the target is beyond range whatever the draw (R85). -/
def convert (f : Fmt) (signed : Bool) (ovf : Ovf) (rnd : Rnd) (v : Val) : Conv :=
  match v with
  | .nan => { code := if f.isInt then 0 else f.canonNaN, nonfinite := true, trap := !f.isInt, nanRes := !f.isInt }
  | .inf s =>
    if f.isInt then
      { code := wrapInt f.width (if s then f.intMin signed else f.intMax signed), clamp := true }
    else if f.hasInf then { code := f.infCode s, nonfinite := true, infRes := true }
    else { code := f.canonNaN, nonfinite := true, nanRes := true }
  | .fin s m e =>
    if f = .e8m0 then { code := toE8M0 v }
    else if f.isInt then
      let i := roundInt rnd s m e
      let past : Bool := match rnd with
        | .nearest => false
        | .stoch _ => if s then signed && magLt (f.intMin signed).natAbs 0 m e else magLt (f.intMax signed).natAbs 0 m e
      if i > f.intMax signed ∨ (past ∧ !s) then { code := wrapInt f.width (f.intMax signed), clamp := true }
      else if i < f.intMin signed ∨ past then { code := wrapInt f.width (f.intMin signed), clamp := true }
      else { code := wrapInt f.width i, flush := decide (i = 0) && decide (m ≠ 0) }
    else if m = 0 then { code := encodeMag f s 0 0 }
    else
      let (n, q) := roundMag rnd f.fbits f.qmin m e
      let (mm, me) := f.maxFin
      let beyond : Bool := match rnd with
        | .nearest => magLt mm me n q
        | .stoch _ => magLt mm me m e
      if beyond then
        match ovf with
        | .saturate => { code := encodeMag f s mm me, clamp := true }
        | .strict =>
          if f.hasInf then { code := f.infCode s, nonfinite := true, infRes := true }
          else { code := f.canonNaN, nonfinite := true, trap := true, nanRes := true }
      else { code := encodeMag f s n q, flush := n == 0 }

/-- ceil(log2 (m * 2^e / MAXFIN)) for m > 0 (R80). -/
def mxExp (f : Fmt) (m : Nat) (e : Int) : Int :=
  let (mm, me) := f.maxFin
  let c := (bitLen m : Int) + e - ((bitLen mm : Int) + me)
  if magLt mm (me + c) m e then c + 1 else c

/-- The largest finite magnitude of a list of values. -/
def amaxOf (xs : List Val) : Val :=
  xs.foldl (fun a v => if v.isFin && a.lt v.abs then v.abs else a) (.fin false 0 0)

/-- The scale code of one MX block of values, and whether it counts as a zero block (R80). -/
def mxScale (f : Fmt) (xs : List Val) : Nat × Bool :=
  if xs.any (fun v => !v.isFin) then (0xFF, false)
  else match amaxOf xs with
    | .fin _ m e =>
      if m = 0 then (127, true) else
        let k := mxExp f m e + 127
        (if k < 0 then 0 else if k > 254 then 254 else k.toNat, false)
    | _ => (0xFF, false)

/-- One element of an MX block written under scale code `sc` (R80, R92). Two choices: an FP64 source whose scale would pass 254 and
so overflows the element format is saturated and counts in CLAMPS (DESIGN CHOICE, log entry 143: R80 says that none overflows), and an
infinity, which the block writes as +0 under scale 0xFF, is of kind infinity (DESIGN CHOICE, log entry 144, on R91). -/
def mxElem (f : Fmt) (rnd : Rnd) (sc : Nat) (v : Val) : Conv :=
  if sc = 0xFF then
    match v with
    | .nan => { code := 0, nonfinite := true, trap := true, nanRes := true }
    | .inf _ => { code := 0, nonfinite := true, infRes := true }
    | .fin _ _ _ => { code := 0 }
  else convert f false .saturate rnd (v.scale (127 - (sc : Int)))

/-- The bits of FP32 arithmetic, used throughout. -/
def fp32 (c : Nat) : Val := decodeVal .fp32 false c
def toFp32 (v : Val) : Nat := roundArith .fp32 v

end Sys2Proof.Machine
end

