-- ==== Sys2Proof/Machine/Map.lean ====
section
/-! DEFINITION. Sparse data by key: a list of (key, value) pairs with strictly rising keys, in which a key whose value is
the default of that key is not listed, so that equal contents are equal lists. -/
namespace Sys2Proof.Machine

/-- A sparse map. -/
abbrev Map (V : Type) := List (Nat × V)

/-- The listed value of a key. -/
def Map.find {V : Type} : Map V → Nat → Option V
  | [], _ => none
  | (a, v) :: t, k => if a = k then some v else Map.find t k

/-- The value of a key, the default if it is not listed. -/
def Map.get {V : Type} (d : V) (m : Map V) (k : Nat) : V := (m.find k).getD d

/-- The map with a key listed, in its place in the order. -/
def Map.set {V : Type} : Map V → Nat → V → Map V
  | [], k, v => [(k, v)]
  | (a, w) :: t, k, v =>
    if k < a then (k, v) :: (a, w) :: t else if k = a then (k, v) :: t else (a, w) :: Map.set t k v

/-- The map with a key not listed. -/
def Map.erase {V : Type} : Map V → Nat → Map V
  | [], _ => []
  | (a, w) :: t, k => if a = k then Map.erase t k else (a, w) :: Map.erase t k

/-- The map after a key takes a value: listed unless the value is the key's default `d`. -/
def Map.put {V : Type} [DecidableEq V] (d : V) (m : Map V) (k : Nat) (v : V) : Map V :=
  if v = d then m.erase k else m.set k v

/-- Strictly rising keys. -/
def Map.sorted {V : Type} : Map V → Bool
  | [] => true
  | [_] => true
  | (a, _) :: (b, w) :: t => decide (a < b) && Map.sorted ((b, w) :: t)

end Sys2Proof.Machine
end

