-- ==== Sys2Proof/Machine/Types.lean ====
section
/-! DEFINITION. The parts of the state that belong to memory, clusters, kernels, queues and engines: plain data. -/
namespace Sys2Proof.Machine

/-- Who makes an access or gives a command (R10, R35, R421, R433). -/
inductive Agent where
  | pf
  | vf (n : Nat)
  | sideband
  | hub
  | prog (basin : Nat) (side : Bool)
  deriving DecidableEq, Repr

/-- A range of bytes whose contents the spec calls undefined since loss number `epoch`. -/
structure Hole where
  base : Nat
  len : Nat
  epoch : Nat
  deriving DecidableEq, Repr

/-- Memory: the listed bytes, in the canonical form of `Mem.wf`, and the undefined ranges, newest first. -/
structure Mem where
  cells : List Host.Cell := []
  holes : List Hole := []
  deriving DecidableEq, Repr

/-- One hardware loop level (R135, R212): offsets of its first and last bundle, and the count left. -/
structure Loop where
  start : Nat
  stop : Nat
  count : Nat
  deriving DecidableEq, Repr

/-- What a fence, release or MSYNC waits for (R185, R186, R235): the numbers of array loads, passes and drains of each set
issued so far, and the identities of outstanding operations, engine commands and scalar loads. -/
structure Marks where
  loads : Nat := 0
  passes : Nat := 0
  drains0 : Nat := 0
  drains1 : Nat := 0
  ops : List Nat := []
  deriving DecidableEq, Repr

/-- What holds the next bundle of a sequencer (R206). -/
inductive Hold where
  | none
  | lwait (latch thr : Nat)
  | fence (cScope : Bool) (m : Marks)
  | msync (mask : Nat) (m : Marks)
  deriving DecidableEq, Repr

/-- A scalar load whose data has not returned (R211), with the offset of its bundle. -/
structure PendLoad where
  id : Nat
  rd : Nat
  addr : Nat
  size : Nat
  signed : Bool
  pc : Nat := 0
  deriving DecidableEq, Repr

/-- A scalar sequencer (R134, R204), with the bundles it has issued in the kernel; its STATE and PC are in CLS_SEQ_STS (R208). -/
structure Seqr where
  s : Map Nat := []
  loops : List Loop := []
  buf : List (Nat × Nat) := []
  fenced : Bool := false
  hold : Hold := .none
  loads : List PendLoad := []
  issues : Nat := 0
  deriving DecidableEq, Repr

/-- A bound address generator (R49, R222): its descriptor, the rows and the elements of the current row consumed. -/
structure Ag where
  desc : Nat
  row : Nat := 0
  elem : Nat := 0
  deriving DecidableEq, Repr

/-- The operand format of an array command: format, signedness, and block scales (R78) with the scale tensor's address. -/
structure OpFmt where
  fmt : Fmt
  signed : Bool
  mx : Bool
  scales : Nat
  deriving DecidableEq, Repr

/-- A weight tile: its shape, its format, its first stream row, the bytes of its cell rows (one number per row) and its block
scales by K block. -/
structure Tile where
  row0 : Nat
  crows : Nat
  ncol : Nat
  fmt : OpFmt
  rows : List Nat
  scale : List (List Nat)
  undef : Bool
  deriving DecidableEq, Repr

/-- A drain as it was issued (R224): its set, fields and tag; the extents of its tile; the AG2 descriptor and first row; the
AG3 descriptor and first row, where one is bound; the clip bounds and tile indices read at issue; and the bundle and step. -/
structure DrainCmd where
  set : Nat
  tag : Nat
  raw : Bool
  act : Nat
  lsh : Nat
  clo : Bool
  chi : Bool
  bias : Bool
  rsc : Nat
  csc : Nat
  rows : Nat
  ncol : Nat
  desc : Nat
  row : Nat
  vec : Option (Nat × Nat)
  clip : Nat
  rt : Nat
  bundle : Nat
  step : Nat
  deriving DecidableEq, Repr

/-- A queued array command (R225) with the stream rows it claimed at issue (log entry 20); `undef`: a load whose rows have been
written since its issue (R238); `bundle`: the address of the bundle that issued it. -/
inductive ACmd where
  | load (crows ncol : Nat) (fmt : OpFmt) (desc row : Nat) (undef : Bool) (bundle : Nat)
  | pass (rows set : Nat) (fmt : OpFmt) (desc row : Nat) (swap : Bool) (cls bundle : Nat)
  | drain (d : DrainCmd)
  deriving DecidableEq, Repr

/-- One accumulator (R75, R76): its bits, whether it has received a group, and whether it is held at a limit. -/
structure Acc where
  v : Nat := 0
  any : Bool := false
  held : Bool := false
  deriving DecidableEq, Repr

/-- State of an accumulator set (R226). -/
inductive SetSt where
  | empty | filling | draining
  deriving DecidableEq, Repr

/-- An accumulator set: rows of accumulators; whether the product is of integers and signed. -/
structure AccSet where
  st : SetSt := .empty
  isInt : Bool := false
  signed : Bool := true
  rows : List (List Acc) := []
  stop : Bool := false
  deriving DecidableEq, Repr

/-- A pass whose rows have entered and whose sums have not reached the accumulators (R43). -/
structure Flight where
  set : Nat
  desc : Nat
  tile : Tile
  fmt : OpFmt
  cls : Nat
  kvalid : Nat
  data : List (List Nat)
  scale : List (List Nat)
  deriving DecidableEq, Repr

/-- A drain that has started (R52): its command and the vectors AG3 delivered. -/
structure Drain where
  cmd : DrainCmd
  cscv : List Nat
  biasv : List Nat
  rscv : List Nat
  deriving DecidableEq, Repr

/-- The array of a cluster (R41, R42, R225, R226). -/
structure Arr where
  q : List ACmd := []
  loading : Option (Tile × Nat × Nat) := none
  shadow : Option Tile := none
  active : Option Tile := none
  set0 : AccSet := {}
  set1 : AccSet := {}
  flights : List Flight := []
  drains : List Drain := []
  issued : Marks := {}
  done : Marks := {}
  sums : Nat := 0
  last : Option (OpFmt × Nat × Nat) := none
  fresh : Bool := false
  fill0 : Option (Nat × Nat) := none
  fill1 : Option (Nat × Nat) := none
  int0 : Bool := false
  int1 : Bool := false
  lastSet : Nat := 0
  deriving DecidableEq, Repr

/-- What no agent can read of a tag copy (R98, R99, R174): whether its record waits to be reset, the fold flag, and the
NONFINITE value of the last harvest. -/
structure TagHid where
  dirty : Bool := true
  fold : Bool := false
  nfRef : Nat := 0
  deriving DecidableEq, Repr

/-- How a group of generators was last seeded (R123): Free from entropy value number e, or Reproducible. -/
inductive Seed where
  | free (e : Nat)
  | repro (seed step kid : Nat)
  deriving DecidableEq, Repr

/-- A bank of generators: how it was seeded, and the present state of those that have advanced since (R122). -/
structure GenBank where
  seed : Seed := .free 0
  st : Map Nat := []
  deriving DecidableEq, Repr

/-- A cluster, kept under its physical die (R204). `rill` and `burn` are the generator banks of its rill lanes and burnish
columns; `woken`: no pass has entered since it woke (R48); `testing`: the cistern bank under test (R262). -/
structure Cluster where
  seq0 : Seqr := {}
  seq1 : Seqr := {}
  v : Map Nat := []
  p : Map Nat := []
  rillEpoch : Nat := 0
  a : Map Nat := []
  ag : Map Ag := []
  arr : Arr := {}
  rill : GenBank := {}
  burn : GenBank := {}
  tags : Map TagHid := []
  pllOn : Bool := true
  pllStart : Bool := false
  gated : Bool := false
  woken : Bool := false
  testing : Option Nat := none
  deriving DecidableEq, Repr

/-- A running kernel (R165, R166, R213): `side` is its queue's class, `stamp` its step stamp, `slots` the amax-history
slots as they stood at launch (R100), `batch` the batch it serves (R167), `broken` a Whole-mode kernel held by the slope clamp
or the droop hold (R46). -/
structure Kern where
  id : Nat
  basin : Nat
  queue : Nat
  pkt : Nat
  kid : Nat
  stamp : Nat
  side : Bool
  cmask : Nat
  clusters : List Nat
  whole : Bool
  vown : Nat
  mown : Nat
  tagbase : Nat
  budget : Nat
  slots : Mem
  batch : Option (Nat × Nat)
  broken : Bool := false
  deriving DecidableEq, Repr

/-- Who issued an operation: a sequencer, a queue packet, or a ladle command. -/
inductive Src where
  | seq (kc k : Nat)
  | pkt (basin queue idx : Nat)
  | ladle (die : Nat) (cmd : Nat) (row : Nat)
  | hub
  deriving DecidableEq, Repr

/-- Kinds of outstanding operation (R230, R232, R233). -/
inductive OpKind where
  | put | get | aadd | rput | mcast | spout | engine
  deriving DecidableEq, Repr

/-- A flow (R324): source basin, destination coordinate and basin, runnel. -/
structure Flow where
  basin : Nat
  coord : Nat
  dbasin : Nat
  run : Nat
  deriving DecidableEq, Repr

/-- An outstanding operation (R230): the sequence numbers or acknowledgements it still waits for, the transaction identity
of a GET or MCAST, the local address of a GET or a spout copy, the length, the latch its completion signals, and the offset of the
bundle that issued it. -/
structure Op where
  id : Nat
  src : Src
  kind : OpKind
  flow : Flow
  seqs : List Nat := []
  acks : Nat := 0
  xid : Nat := 0
  loc : Nat := 0
  dst : Nat := 0
  len : Nat := 0
  hdr : Nat := 0
  sig : Option Nat := none
  counted : Bool := false
  refused : Bool := false
  agSrc : Option (Nat × Ag) := none
  agDst : Option (Nat × Ag) := none
  parts : List (Nat × List Byte) := []
  pc : Nat := 0
  deriving DecidableEq, Repr

/-- An unacknowledged sequenced packet, kept for a resend (R327). -/
structure Unacked where
  flow : Flow
  seq : Nat
  hdr : Nat
  payload : List Byte
  deriving DecidableEq, Repr

/-- A latch operation issued and not yet applied (R178, R186): the basin latch, SET or ADD, the operand, and what it
waits for. -/
structure LatchOp where
  id : Nat
  latch : Nat
  isSet : Bool
  val : Nat
  src : Src
  marks : Marks
  supp : Bool := false
  deriving DecidableEq, Repr

/-- A started packet that has not retired (R169, R170): its index, its words, and whether it completed. -/
structure Started where
  idx : Nat
  pkt : Nat
  done : Bool := false
  deriving DecidableEq, Repr

/-- What a replay still has to do for a queue (R191, R192): the HEAD at the fault, the packets that had completed, for
each started packet how many operations to suppress, and for a TEMPER packet part done its first chunk not posted. -/
structure Replay where
  upto : Nat
  doneAt : List Nat
  supp : Map Nat
  chunks : Map Nat := []
  deriving DecidableEq, Repr

/-- Hidden state of a command queue: its started packets, the packet that halted it, the released batches that wait to
start in it (R167: packet, batching queue, batch), its replay, and the completion and operation history since the last
pour point (R191, R192); `bsupp`: for each released batch that starts again, the operations to suppress. -/
structure Queue where
  win : List Started := []
  haltPkt : Option Nat := none
  ins : List (Nat × Nat × Nat) := []
  replay : Option Replay := none
  hist : Map Nat := []
  histDone : List Nat := []
  bsupp : Map Nat := []
  deriving DecidableEq, Repr

/-- A batch (R60): its number, the first ring slot, the requests (rows, latch and source), the close cause once it closes,
whether it is in flight, and the core cycles since its first row. -/
structure Batch where
  num : Nat
  slot : Nat
  reqs : List (Nat × Nat × Nat)
  closed : Option Nat
  inFlight : Bool := false
  age : Nat := 0
  deriving DecidableEq, Repr

/-- Hidden state of a batching queue (R59-R62, R167). -/
structure BatchQ where
  tmpl : Option Nat := none
  batches : List Batch := []
  next : Nat := 0
  head : Nat := 0
  deriving DecidableEq, Repr

/-- A barrier context (R180): the rounds of the present generation received, the rounds held for the next generation,
whether this member has arrived, and the packet that waits. -/
structure BarCtx where
  got : List Nat := []
  early : List Nat := []
  arrived : Bool := false
  waiter : Option (Nat × Nat) := none
  deriving DecidableEq, Repr

/-- A step resolved at a basin (R111, R141): its number, whether it committed, T just after it, and its exponent. -/
structure Resolved where
  step : Nat
  committed : Bool
  t : Nat
  e : Int
  deriving DecidableEq, Repr

/-- A committed pour record (R190): its number, STEP, and the index after the POUR of each queue of the set. -/
structure PourRec where
  p : Nat
  step : Nat
  idx : Map Nat
  deriving DecidableEq, Repr

/-- A remap of a lane at the transmitter (R294, R295): the spare wavelength, the old one, frame F, abrupt or fade, whether
the acceptance has come, the spares already refused, and whether an abrupt one has switched and still waits for its acceptance. -/
structure Remap where
  lane : Nat
  wave : Nat
  old : Nat
  f : Nat
  abrupt : Bool
  acked : Bool := false
  tried : List Nat := []
  switched : Bool := false
  deriving DecidableEq, Repr

/-- A packet that a link transmitter holds or has sent: its pool (2 × runnel + dateline lane), header and payload, the party for which
its runnel is shared (R34: basins 0-5, 6 transit), whether it was reversed in the dimension in
which it leaves (R330), and whether it ends in the inverted CRC-32 (R320). -/
structure LinkPkt where
  pool : Nat
  hdr : Nat
  payload : List Byte
  party : Nat := 0
  rev : Bool := false
  stomp : Bool := false
  deriving DecidableEq, Repr

/-- What the checks of a received packet give (R309, R320). -/
inductive RxCheck where
  | good
  | failed
  | stomped
  deriving DecidableEq, Repr

/-- A packet that ends in a received frame (R318-R320): its pool and bytes, the first and last data unit of the frame that it touches,
and what its checks give. -/
structure RxEnd where
  pool : Nat
  bytes : Nat
  lo : Nat
  hi : Nat
  check : RxCheck
  deriving DecidableEq, Repr

/-- Hidden state of an optical port. Fountain side: the frame number, control words to send, the remap of each direction,
what the far end's ID said, consecutive bad codewords by lane, the CAL in force here and the one asked of the far end, the laser in training, half width, start-up
calibration, the BER codes that the far end reports by lane, the lanes kept at half width in each direction, whether an ID is due, the
lanes reported down until their REMAP comes, the remaps that wait, and when a DARK came with the cause a loss of light took from it.
Link side (R316-R318): pool sizes in force, packets waiting, the replay buffer with the number of its first packet, credits used and the
far end's counts, and the receiver's next number, freed credits and replay request; the last replay request, the packets that a
redundant replay brings again, whether a packet goes on into the next frame and has touched a bad data unit, the party last served by
runnel and the runnel last served (R34, R356), and the bytes of started packets that no frame has taken yet. -/
structure PortX where
  frame : Nat := 0
  ctl : List (Nat × Nat) := []
  tx : Option Remap := none
  rx : Option (Nat × Nat × Nat) := none
  peerFec : Bool := false
  peerStart : Bool := false
  bad : Map Nat := []
  cal : Option (Nat × Nat) := none
  calTo : Option Nat := none
  training : Option Nat := none
  half : Bool := false
  startup : Bool := false
  pools : Nat := 0x02403A04
  wait : List LinkPkt := []
  replay : List LinkPkt := []
  first : Nat := 0
  used : Map Nat := []
  freed : Map Nat := []
  cBytes : Nat := 0
  bBytes : Nat := 0
  restart : Bool := false
  rxNum : Nat := 0
  rxFreed : Map Nat := []
  request : Option Nat := none
  peerBer : Map Nat := []
  lanes : List Nat := []
  rxLanes : List Nat := []
  idDue : Bool := false
  downs : List Nat := []
  due : List Nat := []
  darkAt : Option Nat := none
  losCause : Option Nat := none
  lastReq : Nat := 0
  skip : Nat := 0
  rxTail : Option Bool := none
  rr : Map Nat := []
  rrRun : Nat := 0
  stream : List Byte := []
  deriving DecidableEq, Repr

/-- Who reads or writes at a stack controller (R248, R254): an S-slot load or store, a stream or rill access of a sequencer's kernel, a
temper unit, a ladle FIFO, a spout copy by its operation, a fabric packet by its runnel, the host, or the hub's quench record. -/
inductive Reader where
  | kernel (kc k : Nat)
  | stream (kc k : Nat)
  | temper (n : Nat)
  | ladle (n : Nat) (upd : Bool)
  | spout (op : Nat)
  | fabric (run : Nat)
  | host (ag : Agent)
  | record
  deriving DecidableEq, Repr

/-- A request to a stack controller (R245, R249): its address, length, data of a write, the symbols in error in the granule it meets,
whether the other data granules and the parity granule of the group row are correctable, the time a read takes, and who asks. -/
structure HbmReq where
  a : Nat
  n : Nat
  data : Option (List Byte)
  syms : Nat
  others : Bool
  par : Bool
  ns : Nat
  who : Reader
  deriving DecidableEq, Repr

/-- What the patrol scrub reads (R258): the granule of an address, the parity granule of an address's group row, or granule `g` of the
unused spare. -/
inductive ScrubAt where
  | data (a : Nat)
  | parity (a : Nat)
  | spare (g : Nat)
  deriving DecidableEq, Repr

/-- An array event of a cluster, and the cycles for which its streams waited for a bank (R260). -/
structure ArrayEvent where
  kc : Fin 104
  confl : Nat
  deriving DecidableEq, Repr

/-- What the controller finds of the rest of a granule's group row (R245, R246): whether the other 14 data granules
are correctable, and whether the parity granule is. -/
structure RowMates where
  others : Bool
  par : Bool
  deriving DecidableEq, Repr

/-- A stack, and what its patrol scrub reads there (R258). -/
structure ScrubRef where
  k : Fin 12
  place : ScrubAt
  deriving DecidableEq, Repr

/-- How a packet comes to a router: whether it has made a hole-turn, and whether its trailer proved wrong after it had begun to go out
(R320, R347). -/
structure HopIn where
  turned : Bool
  bad : Bool
  deriving DecidableEq, Repr

/-- What an acquisition receives of the far end's wavelengths: its transmit map, and the Parked wavelengths that its receiver now takes
(R273, R300). -/
structure FarWaves where
  map : List Nat
  parkedOk : List Nat
  deriving DecidableEq, Repr

/-- What an acquisition finds of the far end: whether it is in this part's link mode, and the peer that the shape expects (R340, R356). -/
structure FarEnd where
  inMode : Bool
  expected : Bool
  deriving DecidableEq, Repr

/-- The control word of a frame from its fields (R277): FRAME, the control's type and argument, LINK, the BER report with its lane, and
the CRC. -/
def frameWord (frame : BitVec 16) (ctl : BitVec 48) (link : BitVec 64) (ber crc : BitVec 16) : Nat :=
  frame.toNat + 2 ^ 16 * ctl.toNat + 2 ^ 64 * link.toNat + 2 ^ 128 * ber.toNat + 2 ^ 144 * crc.toNat

/-- A packet on the package's own mesh (R14): the end points it comes from and goes to, its header and payload. End points: die n as n,
stack k as 40 + k, the queue unit of basin b as 60 + b, and 100 + a coordinate for the way out to that package (log entry 157). -/
structure MeshPkt where
  src : Nat
  dst : Nat
  hdr : Nat
  payload : List Byte
  deriving DecidableEq, Repr

/-- A spare chosen for a fault (R21): the slow tick of the loss, the basin and slot, the failed die and the spare. -/
structure Pick where
  tick : Nat
  basin : Nat
  slot : Nat
  lost : Nat
  spare : Nat
  deriving DecidableEq, Repr

/-- A spare-die command that runs (R30, R31): its target, the spare it brings in (31 none), its action, whether it retires
the target, and what the retest gave. -/
structure SpareCmd where
  target : Nat
  spare : Nat
  action : Nat
  chosen : Bool
  retest : Option Bool := none
  deriving DecidableEq, Repr

/-- Hidden power and thermal state of a die (R397-R407): the power and thermal terms, whether the slope clamp and the droop
hold act, samples since the clamp engaged, the slow ticks of the last droop event and of the last frequency rise, and the
sensors that read 120 °C or more in the last sample. -/
structure DieP where
  pterm : Nat := 64
  tterm : Nat := 64
  clamp : Bool := false
  droop : Bool := false
  clampN : Nat := 0
  droopAt : Option Nat := none
  boostAt : Option Nat := none
  hot : List Nat := []
  deriving DecidableEq, Repr

/-- Hidden state of the risk score: consecutive updates below each threshold (R375), each sensor's low mark, high mark and
whether an excursion is open, by 64 × die + sensor, and the slow ticks at which excursions were counted (R463). -/
structure RiskX where
  belowW : Nat := 0
  belowS : Nat := 0
  marks : Map (Nat × Nat × Bool) := []
  cycles : List Nat := []
  deriving DecidableEq, Repr

/-- Supplies, straps and control pins (R472-R478): standby and both primary rails in range, PWRGD, whether the part runs on
primary power, whether PWRGD must fall before it can again, THERMTRIP_N asserted, the sampled straps, and the slow ticks at
which REFCLK failed and at which the running power-fail sequence began. -/
structure Pwr where
  vsb : Bool := false
  rails : Bool := false
  pwrgd : Bool := false
  on : Bool := false
  needFall : Bool := false
  thermtrip : Bool := false
  feed : Nat := 0xFF
  inst : Nat := 0xF
  refLost : Option Nat := none
  failAt : Option Nat := none
  deriving DecidableEq, Repr

/-- Configuration space of the endpoint (R418-R423, R431): PF BAR4 size as a power of two, its reset size, the subsystem IDs and TotalVFs
that the active set gives (R443), VF Enable, the functions with Memory Space Enable, Bus Master Enable and ATS enabled. -/
structure Pcie where
  bar4 : Nat := 36
  bar4Rst : Nat := 36
  subsys : Nat := 0
  totalVfs : Nat := 64
  vfEn : Bool := false
  mse : List Nat := []
  bme : List Nat := []
  ats : List Nat := []
  deriving DecidableEq, Repr

/-- A copy that runs (R425): the index of its descriptor, and the translated pages that its requests use, where ATS is enabled. -/
structure CopyRun where
  head : Nat
  pages : List (Nat × Nat) := []
  deriving DecidableEq, Repr

/-- A host page that a channel's translation cache holds (R427): function, PASID where one is carried, page, and the
translated page. -/
structure AtcEnt where
  func : Nat
  pasid : Option Nat
  page : Nat
  dest : Nat
  deriving DecidableEq, Repr

/-- What a configuration access changes, or reads: the IDs of a function (R418, R419, R422, R423, R429). Functions: 0 the PF, n + 1 VF n. -/
inductive CfgWr where
  | readIds (func : Nat)
  | bar4Size (log2 : Nat)
  | vfEnable (on : Bool)
  | memEnable (func : Nat) (on : Bool)
  | busMaster (func : Nat) (on : Bool)
  | ats (func : Nat) (on : Bool)
  | msixMask (func vector : Nat) (on : Bool)
  deriving DecidableEq, Repr

/-- A last-gasp message (R379): package, cause, and for each basin STEP and the newest committed KEEP and replica steps. -/
structure Gasp where
  coord : Nat
  cause : Nat
  steps : List (Nat × Option Nat × Option Nat)
  deriving DecidableEq, Repr

/-- One engine command (R136): descriptor, completion record, latch and amount, step stamp, kernel identity, class, issuer;
whether its step was older than the last resolved one when it was accepted (R111); the first chunk not posted (R191);
where its working tags lie: the cluster and the offset of tag 0 (log entry 31); and for the trap record (R95, R96) the queue that
launched its kernel or holds its packet, the bundle that issued it, the basin's step then, and its kernel's number. -/
structure ECmd where
  id : Nat
  desc : Nat
  comp : Nat
  sig : Option (Nat × Nat)
  stamp : Nat
  kid : Nat := 0
  side : Bool
  src : Src
  late : Bool := false
  skipTo : Nat := 0
  tkc : Nat := 0
  tbase : Nat := 0
  queue : Nat := 0
  bundle : Nat := 0
  bstep : Nat := 0
  kern : Nat := 0
  deriving DecidableEq, Repr

/-- Hidden state of a basin; `left` holds the engine commands of a failed die with their first chunks not posted, until the basin
resumes (R191). -/
structure Basin where
  queues : Map Queue := []
  bqs : Map BatchQ := []
  bars : Map BarCtx := []
  lops : List LatchOp := []
  distOpen : Bool := false
  seenSealed : Bool := false
  seenNext : Bool := false
  tainted : List Nat := []
  sentGrad : Bool := false
  resolved : List Resolved := []
  lossN : Nat := 0
  lossRestart : Bool := true
  sendTab : Map Nat := []
  recvTab : Map Nat := []
  nf : Map Nat := []
  nfGrow : Map Nat := []
  spikeGrow : Nat := 0
  quenched : Bool := false
  stopped : Bool := false
  outOfService : Bool := false
  frozen : Bool := false
  progress : Bool := false
  recov : Option (Nat × Nat × Nat) := none
  rstamp : Nat := 0
  debtOver : Bool := false
  left : List (ECmd × Nat) := []
  tickN : Nat := 0
  slackN : Nat := 0
  deriving DecidableEq, Repr

/-- A tag copy as an instruction sees it: its cistern offset and its descriptor's fields (R174). -/
structure Tag where
  off : Nat
  idx : Nat
  fmt : Fmt
  signed : Bool
  stoch : Bool
  ovf : Ovf
  mx : Bool
  slot : Nat
  base : Nat
  scales : Nat
  deriving DecidableEq, Repr

/-- Counts of one instruction's conversions (R84-R88), the magnitude folded, the first non-finite position and kind, and
the first NaN that fires the trap. -/
structure Tally where
  clamps : Nat := 0
  flushes : Nat := 0
  zeroBlocks : Nat := 0
  nonfinite : Nat := 0
  elements : Nat := 0
  amax : Val := .fin false 0 0
  first : Option (Nat × Bool) := none
  trap : Option Nat := none
  deriving DecidableEq, Repr

/-- A running temper command: the die whose FIFO it came from, its descriptor, its parameters as W40 codes (R140), exponent,
row indices, working tags with what their conversions have counted, chunks posted, elements done and left unchanged
(R140-R143). -/
structure TRun where
  cmd : ECmd
  own : Nat
  d : Nat
  prm : List Nat
  e : Int
  idx : List Nat
  works : List (Tag × Tally)
  chunk : Nat := 0
  done : Nat := 0
  nfg : Nat := 0
  deriving DecidableEq, Repr

/-- A temper unit (R136, R143): its FIFO, the running command, the dies whose FIFOs it covers, the commands it resumes, whose
turn it is, and its lane generators. -/
structure TemperU where
  q : List ECmd := []
  run : Option TRun := none
  covers : List Nat := []
  resume : List TRun := []
  turn : Nat := 0
  gen : GenBank := {}
  deriving DecidableEq, Repr

/-- The state of one distinct row of a running ladle command (R152, R153). -/
inductive RowSt where
  | wait (op : Nat)
  | got (data : List Byte)
  | bad
  | failed
  deriving DecidableEq, Repr

/-- A running ladle command (R150-R155); `lim` is OUTSTANDING as it stood at the start (R158). -/
structure LRun where
  cmd : ECmd
  d : Nat
  tbl : Nat
  e : Int
  rows : Map RowSt
  fault : Bool := false
  lim : Nat := 1024
  deriving DecidableEq, Repr

/-- A ladle (R136): its two FIFOs and the command each runs. -/
structure LadleU where
  g : List ECmd := []
  u : List ECmd := []
  runG : Option LRun := none
  runU : Option LRun := none
  deriving DecidableEq, Repr

/-! ### The hubs' security state (14 R436-R457) -/

/-- A verified image (R438): its slot, header and body. -/
structure Img where
  slot : Nat
  hdr : List Byte
  body : List Byte
  deriving DecidableEq, Repr

/-- The combination in force (R439, R440): the policy part's bytes and the slot that holds it, and the images of kinds 1 to 3. -/
structure Combo where
  policy : List Byte
  imgs : List Img
  deriving DecidableEq, Repr

/-- A known-good entry (R441): digest and VERSION of a policy part, and the VERSION of each image. -/
structure Good where
  digest : List Byte
  polVer : Nat
  vers : List Nat
  deriving DecidableEq, Repr

/-- A mailbox command that runs (R454): opcode, tag, how it will end, and its response; none where the spec does not give the
response's contents. -/
structure MRun where
  op : Nat
  tag : Nat
  result : Nat
  untested : Bool := false
  resp : Option (List Byte) := some []
  refused : Bool := false
  behind : Bool := false
  deriving DecidableEq, Repr

/-- Level-1 debug operations (R452): cistern bytes of cluster 4 × die + cluster, halting a sequencer (or letting it go), stepping
a halted one, and a vector register. -/
inductive DbgOp where
  | cistern (kc off len : Nat)
  | halt (kc k : Nat) (on : Bool)
  | step (kc k : Nat)
  | rill (kc reg : Nat)
  deriving DecidableEq, Repr

/-- A sideband message (R433): a required MCTP control command, a PLDM sensor, a mailbox command with its request bytes, a
register read or write, a read or write of the hub region (R263), or a read of a quench region (R241). -/
inductive Mctp where
  | control (code : Nat)
  | sensor (id : Nat)
  | command (op : Nat) (req : List Byte)
  | regRead (off : Nat)
  | regWrite (off v : Nat)
  | hubRead (off len : Nat)
  | hubWrite (off : Nat) (data : List Byte)
  | recordRead (a len : Nat)
  deriving DecidableEq, Repr

/-- Operations on the test access port (R452). -/
inductive TapOp where
  | bypass (bits : Nat)
  | idcode
  | boundary (pins : Nat)
  | fullScan
  deriving DecidableEq, Repr

/-- One path to the executor (R456): the command that runs, and the path's staging area for a policy part. -/
structure MPath where
  run : Option MRun := none
  stage : Mem := {}
  deriving DecidableEq, Repr

/-- The hubs' security unit and non-volatile store: the NOR (R436), whether each hub's key store is full (R447), the
measurement registers and log (R449, R457), the debug level and challenge (R452), the last hallmark, the combination in
force, the known-good list, the two command paths, and the slow tick of Ready with whether a failover came since (R441). -/
structure Sec where
  nor : Mem := { holes := [⟨0, 0x8000000, 0⟩] }
  keyA : Bool := false
  keyB : Bool := false
  ms : List (List Byte) := List.replicate 8 (List.replicate 32 0)
  mlog : List (Nat × List Byte × Nat) := []
  level : Nat := 0
  keysCleared : Bool := false
  unlocks : Nat := 0
  challenge : Option (List Byte) := none
  entropy : Nat := 0
  hallmark : List Byte := []
  combo : Option Combo := none
  good : List Good := []
  pf : MPath := {}
  sb : MPath := {}
  readyAt : Option Nat := none
  unclean : Bool := false
  deriving DecidableEq, Repr

end Sys2Proof.Machine
end

