-- ==== Sys2Proof/Syntax.lean ====
section
/-! DEFINITION. The commands of the block: one constructor per row of the opcode table, in its order. -/
namespace Sys2Proof

/-- A command: what comes to the part from outside, or an event within it that the spec gives an effect. Operands that the spec
takes from the world outside the part (what is measured, what arrives) are operands here. -/
inductive Instr where
  | standbyPowerOn (feed : BitVec 8) (inst : BitVec 4)
  | standbyPowerLoss
  | powerGood (feed : BitVec 8) (inst : BitVec 4)
  | bootReady (ms : Nat) (bad : List Nat)
  | powerFail (kind : Fin 3)
  | lastGaspReceive (g : Machine.Gasp)
  | perstAssert
  | pfFlr
  | vfFlr (n : Fin 64)
  | pcieLinkUp (rate : Fin 8) (width : Fin 9) (flit : Bool)
  | pcieLinkDown
  | referenceLoss
  | referenceLossTimeout
  | referenceReturn
  | hostBarAccess (ag : Machine.Agent) (bar : Nat) (off : Nat) (len : Nat) (data : Option (List Byte))
  | registerWrite (ag : Machine.Agent) (off : Nat) (v : Word)
  | doorbell (ag : Machine.Agent) (b : Fin 6) (q : Fin 64) (tail : BitVec 16)
  | copyDoorbell (ag : Machine.Agent) (ch : Fin 16) (tail : BitVec 16)
  | copyDescriptorStart (ch : Fin 16) (pages : List (Nat × Option Nat))
  | copyDescriptorComplete (ch : Fin 16) (data : List Byte) (bad : Bool)
  | copyResume (ag : Machine.Agent) (ch : Fin 16)
  | vfBind (ag : Machine.Agent) (n : Fin 64) (isMask : Bool) (v : Word)
  | notifyArm (ag : Machine.Agent) (j : Fin 256) (v : Word)
  | mctpMessage (m : Machine.Mctp)
  | statusCmd (ag : Machine.Agent)
  | logRead (ag : Machine.Agent) (off : Nat) (len : Nat)
  | certs (ag : Machine.Agent)
  | hallmark (ag : Machine.Agent) (nonce : List Byte)
  | imageStage (ag : Machine.Agent) (kind : Nat) (off : Nat) (data : List Byte)
  | imageCommit (ag : Machine.Agent) (kind : Nat)
  | liveUpdate (ag : Machine.Agent) (starts : Bool)
  | cfgStage (ag : Machine.Agent) (off : Nat) (data : List Byte)
  | cfgCommit (ag : Machine.Agent)
  | cfgRevert (ag : Machine.Agent)
  | cfgRestore (ag : Machine.Agent) (k : Nat)
  | ownerSet (ag : Machine.Agent) (record : List Byte)
  | resetCmd (ag : Machine.Agent)
  | debugChallenge (ag : Machine.Agent)
  | debugUnlock (ag : Machine.Agent) (level : Nat) (token : List Byte)
  | debugLock (ag : Machine.Agent)
  | debugAccess (ag : Machine.Agent) (d : Machine.DbgOp)
  | knownGoodTimer
  | partRecordCommit
  | primaryHeartbeatLoss (reported : Bool)
  | switchHub (ag : Machine.Agent)
  | forgeHeartbeatLoss (n : Fin 26)
  | forgeDieError (n : Fin 26)
  | substitutionComplete (b : Fin 6)
  | assayRetest (n : Fin 26) (good : Bool)
  | spareBackgroundTest (n : Fin 26) (good : Bool)
  | routerFailure (n : Fin 32)
  | spareSubstitute (ag : Machine.Agent) (target : Fin 32) (spare : Fin 32)
  | spareReturn (ag : Machine.Agent) (target : Fin 32)
  | spareRetire (ag : Machine.Agent) (target : Fin 32)
  | spareCmdComplete
  | bundleIssue (kc : Fin 104) (sq : Fin 2)
  | loadDataReturn (kc : Fin 104) (sq : Fin 2) (ld : Nat)
  | tileLoadStart (e : Machine.ArrayEvent) (staged : Bool)
  | tileLoadComplete (kc : Fin 104)
  | stagedStartEnd (kc : Fin 104)
  | passStart (e : Machine.ArrayEvent) (waited : Nat)
  | passSumsComplete (kc : Fin 104) (bad : Option Nat)
  | arrayLineTestDone (kc : Fin 104) (found : Option (Bool × Nat))
  | plannedLineMapping (kc : Fin 104) (col : Bool) (line : Nat)
  | drainStart (e : Machine.ArrayEvent)
  | drainComplete (kc : Fin 104)
  | lwaitRelease (kc : Fin 104) (sq : Fin 2)
  | latchOpApply (b : Fin 6) (id : Nat)
  | fenceComplete (kc : Fin 104) (sq : Fin 2)
  | msyncRelease (kc : Fin 104) (sq : Fin 2)
  | spoutCopyComplete (id : Nat)
  | nop (b : Fin 6) (q : Fin 64)
  | launch (b : Fin 6) (q : Fin 64)
  | spoutPacket (b : Fin 6) (q : Fin 64)
  | temper (b : Fin 6) (q : Fin 64) (slot : Fin 5)
  | ladle (b : Fin 6) (q : Fin 64) (slot : Fin 5)
  | batchBind (b : Fin 6) (q : Fin 64)
  | batchAppend (b : Fin 6) (q : Fin 64)
  | batchFlush (b : Fin 6) (q : Fin 64)
  | sealStep (b : Fin 6) (q : Fin 64)
  | agree (b : Fin 6) (q : Fin 64)
  | barrier (b : Fin 6) (q : Fin 64)
  | pour (b : Fin 6) (q : Fin 64)
  | pourTake (b : Fin 6)
  | kernelComplete (kc : Fin 104)
  | sideBudgetExpiry (kc : Fin 104)
  | queueRelease (ag : Machine.Agent) (b : Fin 6) (q : Fin 64)
  | queueDiscard (ag : Machine.Agent) (b : Fin 6) (q : Fin 64)
  | ctrlPacket (w : BitVec 256) (via : Option (Fin 8))
  | barrierTimeout (b : Fin 6) (x : Fin 16)
  | cancel (ag : Machine.Agent) (b : Fin 6) (x : Fin 16)
  | agreeTimeout (b : Fin 6)
  | agreeCtlRelease (ag : Machine.Agent) (b : Fin 6) (n : BitVec 32)
  | agreeCtlAbandon (ag : Machine.Agent) (b : Fin 6) (n : BitVec 32)
  | agreeCtlTaint (ag : Machine.Agent) (b : Fin 6)
  | lossIn (ag : Machine.Agent) (b : Fin 6) (loss : BitVec 32)
  | lossRestart (ag : Machine.Agent) (b : Fin 6)
  | nanTrapRearm (ag : Machine.Agent) (b : Fin 6)
  | batchDeadline (b : Fin 6) (x : Fin 8)
  | batchRelease (b : Fin 6) (x : Fin 8)
  | batchCfgFlush (ag : Machine.Agent) (b : Fin 6) (x : Fin 8)
  | batchDisable (ag : Machine.Agent) (b : Fin 6) (x : Fin 8)
  | temperCmdStart (n : Fin 26)
  | temperChunkPosted (n : Fin 26)
  | temperCmdComplete (n : Fin 26)
  | temperFault (n : Fin 26)
  | ladleCmdStart (n : Fin 26) (upd : Bool)
  | ladleRowTimeout (op : Nat)
  | ladleCmdComplete (n : Fin 26) (upd : Bool)
  | hbmReadRequest (a : Nat) (n : Nat) (syms : Nat) (mates : Machine.RowMates) (ns : Nat) (who : Machine.Reader)
  | hbmWriteRequest (a : Nat) (data : List Byte) (syms : Nat) (mates : Machine.RowMates) (who : Machine.Reader)
  | bankRefresh (k : Fin 12) (p : Fin 65) (bank : Fin 256) (waiting : Bool)
  | scrubRead (at' : Machine.ScrubRef) (syms : Nat) (mates : Machine.RowMates) (last : Bool)
  | pseudoChannelLoss (k : Fin 12) (p : Fin 65) (channel : Bool)
  | requestHoldRelease (k : Fin 12)
  | rebuildComplete (k : Fin 12)
  | hbmSpareCopy (ag : Machine.Agent) (k : Fin 12) (p : Fin 64)
  | plannedCopyComplete (k : Fin 12)
  | cisternScrub (kc : Fin 104) (off : Nat) (errs : Nat)
  | cisternBankTestDone (kc : Fin 104) (bank : Fin 64) (row : Option Nat)
  | urgentMaxRead (ag : Machine.Agent) (k : Fin 12)
  | frameTransmit (p : Fin 8)
  | frameReceive (p : Fin 8) (frame : BitVec 16) (ctl : BitVec 48) (link : BitVec 64) (ber : BitVec 16) (crc : BitVec 16)
      (errs : List (Nat × Nat)) (unlocked : List Nat) (ends : List Machine.RxEnd) (tail : Option Nat)
  | remap (p : Fin 8) (lane : Fin 16) (w : Fin 18) (f : BitVec 16) (kind : Fin 2) (same : Bool)
  | remapAck (p : Fin 8) (lane : Fin 16) (w : Fin 18) (f : BitVec 16) (refuse : Bool)
  | laneDown (p : Fin 8) (lane : Fin 16)
  | dark (p : Fin 8) (cause : Fin 16) (lead : BitVec 8)
  | idCtl (p : Fin 8) (coord : BitVec 18) (port : Fin 8) (fec : Bool) (spares : Fin 4) (ver : BitVec 16) (startup : Bool)
  | cal (p : Fin 8) (w : Fin 32) (action : Fin 8)
  | lossOfLight (p : Fin 8)
  | laserLightDrop (p : Fin 8) (w : Fin 18)
  | lightDetected (p : Fin 8)
  | acquisitionComplete (p : Fin 8) (rtt : Nat) (bers : List (Nat × Nat)) (losses : List Nat) (waves : Machine.FarWaves)
      (peer : Machine.FarEnd)
  | retrain (ag : Machine.Agent) (p : Fin 8)
  | laserEvaluation (p : Fin 8) (w : Fin 18) (fade : Nat) (fadePred : Nat) (berPred : Nat) (power : Nat) (bias : Nat)
    (headroom : Nat) (rx : List (Nat × Nat))
  | remapGo (ag : Machine.Agent) (p : Fin 8) (lane : Fin 16)
  | remapSwitch (p : Fin 8)
  | remapRetry (p : Fin 8)
  | returnGo (ag : Machine.Agent) (p : Fin 8) (w : Fin 32)
  | laserReturnDone (p : Fin 8) (w : Fin 18) (fade : Nat) (ber : Nat)
  | weirMeasure (ag : Machine.Agent) (p : Fin 8) (kind : Fin 8) (w : Fin 32) (v : Fin 32) (integ : Fin 8)
  | weirMeasureDone (p : Fin 8) (value : Nat) (enob : Nat)
  | applyMap (ag : Machine.Agent)
  | barMap (ag : Machine.Agent)
  | sluiceSwitch
  | fountainDieLoss (d : Fin 4)
  | linkPacketStart (p : Fin 8) (uOver : Bool)
  | routerForward (w : BitVec 256) (payload : List Byte) (via : Option (Fin 8)) (rev : Bool) (hop : Machine.HopIn)
  | putPacket (w : BitVec 256) (payload : List Byte) (via : Option (Fin 8))
  | getPacket (w : BitVec 256) (via : Option (Fin 8))
  | getOrdRelease (nth : Nat)
  | getRespPacket (w : BitVec 256) (payload : List Byte) (via : Option (Fin 8))
  | aaddIPacket (w : BitVec 256) (payload : List Byte) (via : Option (Fin 8))
  | aaddFPacket (w : BitVec 256) (payload : List Byte) (via : Option (Fin 8))
  | reducePutPacket (w : BitVec 256) (payload : List Byte) (via : Option (Fin 8))
  | mcastPutPacket (w : BitVec 256) (payload : List Byte) (via : Option (Fin 8))
  | ackPacket (w : BitVec 256) (via : Option (Fin 8))
  | ackTimeout (b : Fin 6) (coord : BitVec 18) (dbasin : Fin 8) (run : Fin 4)
  | detourSet (d : Fin 6)
  | holeWrite (ag : Machine.Agent) (j : Fin 4) (v : Word)
  | relocWrite (ag : Machine.Agent) (j : Fin 8) (v : Word)
  | watchdogExpiry (b : Fin 6)
  | quench (ag : Machine.Agent) (b : Fin 6)
  | quenchComplete (b : Fin 6) (good : Bool)
  | basinReturn (ag : Machine.Agent) (b : Fin 6)
  | riskUpdate (ce : Nat) (ue : Nat) (cw : Nat) (droop : Nat)
  | wearSample (j : Fin 6) (days : Nat) (low : Nat) (unit : BitVec 16) (samples : Nat) (k : Fin 12) (p : Fin 64)
  | replicaEnable (ag : Machine.Agent) (v : Word)
  | secureGo (ag : Machine.Agent) (b : Fin 6) (step : BitVec 32)
  | secureAbort (ag : Machine.Agent) (b : Fin 6)
  | copyOutStart (b : Fin 6)
  | copyOutCommit (b : Fin 6)
  | streamCommit (b : Fin 6) (good : Bool)
  | stop (ag : Machine.Agent) (b : Fin 6)
  | rewind (ag : Machine.Agent) (b : Fin 6) (step : BitVec 32)
  | send (ag : Machine.Agent) (b : Fin 6) (step : BitVec 32) (target : BitVec 18)
  | adopt (ag : Machine.Agent) (b : Fin 6) (step : BitVec 32)
  | recoverComplete (b : Fin 6) (twice : Bool) (lost : Bool)
  | clusterIdle (kc : Fin 104)
  | clusterWake (kc : Fin 104) (q : Fin 64)
  | wake (ag : Machine.Agent) (b : Fin 6)
  | pllLocked (kc : Fin 104)
  | boostStep (n : Fin 26) (less : Bool)
  | governorUpdate (terms : List (Nat × Nat)) (energy : List Nat) (hbm : List Bool) (avg : Nat) (last : Nat)
  | thermalSample (n : Fin 44) (rs : List (Nat × Int))
  | droopEvent (n : Fin 26)
  | droopRecover (n : Fin 26)
  | grantRedistribute (gs : List Nat) (shared : Nat)
  | peakRead (ag : Machine.Agent)
  | slackRead (ag : Machine.Agent)
  | nfSumRead (ag : Machine.Agent) (b : Fin 6)
  | eventCounterWrite (ag : Machine.Agent) (off : Nat) (sat : Bool)
  | volumeClear (ag : Machine.Agent) (off : Nat)
  | snapTake (ag : Machine.Agent) (off : Nat)
  | snapRelease (ag : Machine.Agent) (off : Nat)
  | snapAllTake (ag : Machine.Agent)
  | snapAllRelease (ag : Machine.Agent)
  | primaryRailsInRange
  | configurationSpaceWrite (w : Machine.CfgWr)
  | atsInvalidateRequest (func : Fin 65) (pasid : Option Nat) (page : Nat) (count : Nat)
  | mailboxCommandDone (ag : Machine.Agent)
  | calibrationCommit (p : Fin 8) (losses : List Nat)
  | testAccessPort (op : Machine.TapOp)
  deriving DecidableEq, Repr

end Sys2Proof
end

