-- ==== Sys2Proof/WellFormed.lean ====
section
/-! DEFINITION. Which commands are well formed: agents, functions, BARs, offsets, lanes and lengths in their ranges. The meanings
give a result on every command; the ranges below are those that the spec gives the operands. -/
namespace Sys2Proof

/-- VFs are numbered 0-63 and basins 0-5. -/
def wfAgent : Machine.Agent → Bool
  | .vf n => decide (n < 64)
  | .prog b _ => decide (b < 6)
  | _ => true

/-- A payload is of at most 4,096 bytes (R307). -/
def wfPayload (l : List Byte) : Bool := decide (l.length ≤ 4096)

/-- A register's window offset (R10, R35). -/
def wfOffset (off : Nat) : Bool := decide (off < 0x4000000) && off % 8 == 0

/-- BARs are 0, 2 and 4 (R421), and an access is of 1 to 64 bytes. -/
def wfBar (bar len : Nat) : Bool := (bar == 0 || bar == 2 || bar == 4) && decide (0 < len ∧ len ≤ 64)

/-- Functions are the PF and 64 VFs; BAR4 sizes are 2^28 to 2^42 bytes (R418, R421). -/
def wfCfg : Machine.CfgWr → Bool
  | .readIds f => decide (f ≤ 64)
  | .bar4Size n => decide (28 ≤ n ∧ n ≤ 42)
  | .vfEnable _ => true
  | .memEnable f _ | .busMaster f _ | .ats f _ => decide (f ≤ 64)
  | .msixMask f v _ => decide (f ≤ 64) && decide (v < (if f = 0 then 2048 else 32))

/-- A nonce is of 32 bytes (R450). -/
def wfNonce (l : List Byte) : Bool := l.length == 32

/-- Bytes of one granule of HBM (R245); a write may also be of a whole group row. -/
def wfGranule (a n : Nat) : Bool := decide (0 < n ∧ a % 64 + n ≤ 64)

/-- A frame's codewords are at most 16, and a packet that ends in it has a pool, a size and data units in their ranges (R274, R307,
R316). -/
def wfFrame (errs : List (Nat × Nat)) (ends : List Machine.RxEnd) : Bool :=
  decide (errs.length ≤ 16) && ends.all (fun e => decide (e.pool < 8 ∧ e.bytes ≤ 4132 ∧ e.lo ≤ e.hi ∧ e.hi < 80))

/-- An acquisition tells the BER of 16 data lanes, or of eight at half width, the loss of 18 wavelengths, and a lane map (R272, R283,
R296). -/
def wfAcq (bers : List (Nat × Nat)) (losses map : List Nat) : Bool :=
  (bers.length == 16 || bers.length == 8) && bers.all (fun e => decide (e.1 < 16)) && decide (bers.map Prod.fst).Nodup
    && losses.length == 18 && map.length == 16 && map.all (fun w => decide (w < 18)) && decide map.Nodup

/-- A command is well formed. -/
def Instr.wf : Instr → Bool
  | .standbyPowerOn _ _ => true
  | .standbyPowerLoss => true
  | .powerGood _ _ => true
  | .bootReady _ _ => true
  | .powerFail _ => true
  | .lastGaspReceive _ => true
  | .perstAssert => true
  | .pfFlr => true
  | .vfFlr _ => true
  | .pcieLinkUp _ _ _ => true
  | .pcieLinkDown => true
  | .referenceLoss => true
  | .referenceLossTimeout => true
  | .referenceReturn => true
  | .hostBarAccess ag bar _ len data => wfAgent ag && wfBar bar ((data.map List.length).getD len)
  | .registerWrite ag off _ => wfAgent ag && wfOffset off
  | .doorbell ag _ _ _ => wfAgent ag
  | .copyDoorbell ag _ _ => wfAgent ag
  | .copyDescriptorStart _ _ => true
  | .copyDescriptorComplete _ _ _ => true
  | .copyResume ag _ => wfAgent ag
  | .vfBind ag _ _ _ => wfAgent ag
  | .notifyArm ag _ _ => wfAgent ag
  | .mctpMessage _ => true
  | .statusCmd ag => wfAgent ag
  | .logRead ag _ _ => wfAgent ag
  | .certs ag => wfAgent ag
  | .hallmark ag nonce => wfAgent ag && wfNonce nonce
  | .imageStage ag _ _ _ => wfAgent ag
  | .imageCommit ag _ => wfAgent ag
  | .liveUpdate ag _ => wfAgent ag
  | .cfgStage ag _ _ => wfAgent ag
  | .cfgCommit ag => wfAgent ag
  | .cfgRevert ag => wfAgent ag
  | .cfgRestore ag _ => wfAgent ag
  | .ownerSet ag _ => wfAgent ag
  | .resetCmd ag => wfAgent ag
  | .debugChallenge ag => wfAgent ag
  | .debugUnlock ag _ _ => wfAgent ag
  | .debugLock ag => wfAgent ag
  | .debugAccess ag _ => wfAgent ag
  | .knownGoodTimer => true
  | .partRecordCommit => true
  | .primaryHeartbeatLoss _ => true
  | .switchHub ag => wfAgent ag
  | .forgeHeartbeatLoss _ => true
  | .forgeDieError _ => true
  | .substitutionComplete _ => true
  | .assayRetest _ _ => true
  | .spareBackgroundTest _ _ => true
  | .routerFailure _ => true
  | .spareSubstitute ag _ _ => wfAgent ag
  | .spareReturn ag _ => wfAgent ag
  | .spareRetire ag _ => wfAgent ag
  | .spareCmdComplete => true
  | .bundleIssue _ _ => true
  | .loadDataReturn _ _ _ => true
  | .tileLoadStart _ _ => true
  | .tileLoadComplete _ => true
  | .stagedStartEnd _ => true
  | .passStart _ _ => true
  | .passSumsComplete _ _ => true
  | .arrayLineTestDone _ _ => true
  | .plannedLineMapping _ _ _ => true
  | .drainStart _ => true
  | .drainComplete _ => true
  | .lwaitRelease _ _ => true
  | .latchOpApply _ _ => true
  | .fenceComplete _ _ => true
  | .msyncRelease _ _ => true
  | .spoutCopyComplete _ => true
  | .nop _ _ => true
  | .launch _ _ => true
  | .spoutPacket _ _ => true
  | .temper _ _ _ => true
  | .ladle _ _ _ => true
  | .batchBind _ _ => true
  | .batchAppend _ _ => true
  | .batchFlush _ _ => true
  | .sealStep _ _ => true
  | .agree _ _ => true
  | .barrier _ _ => true
  | .pour _ _ => true
  | .pourTake _ => true
  | .kernelComplete _ => true
  | .sideBudgetExpiry _ => true
  | .queueRelease ag _ _ => wfAgent ag
  | .queueDiscard ag _ _ => wfAgent ag
  | .ctrlPacket _ _ => true
  | .barrierTimeout _ _ => true
  | .cancel ag _ _ => wfAgent ag
  | .agreeTimeout _ => true
  | .agreeCtlRelease ag _ _ => wfAgent ag
  | .agreeCtlAbandon ag _ _ => wfAgent ag
  | .agreeCtlTaint ag _ => wfAgent ag
  | .lossIn ag _ _ => wfAgent ag
  | .lossRestart ag _ => wfAgent ag
  | .nanTrapRearm ag _ => wfAgent ag
  | .batchDeadline _ _ => true
  | .batchRelease _ _ => true
  | .batchCfgFlush ag _ _ => wfAgent ag
  | .batchDisable ag _ _ => wfAgent ag
  | .temperCmdStart _ => true
  | .temperChunkPosted _ => true
  | .temperCmdComplete _ => true
  | .temperFault _ => true
  | .ladleCmdStart _ _ => true
  | .ladleRowTimeout _ => true
  | .ladleCmdComplete _ _ => true
  | .hbmReadRequest a n _ _ _ _ => wfGranule a n
  | .hbmWriteRequest a data _ _ _ => wfGranule a data.length || (data.length == 3840 && a % 2 ^ 37 % 3840 == 0)
  | .bankRefresh _ _ _ _ => true
  | .scrubRead _ _ _ _ => true
  | .pseudoChannelLoss _ _ _ => true
  | .requestHoldRelease _ => true
  | .rebuildComplete _ => true
  | .hbmSpareCopy ag _ _ => wfAgent ag
  | .plannedCopyComplete _ => true
  | .cisternScrub _ _ _ => true
  | .cisternBankTestDone _ _ _ => true
  | .urgentMaxRead ag _ => wfAgent ag
  | .frameTransmit _ => true
  | .frameReceive _ _ _ _ _ _ errs _ ends _ => wfFrame errs ends
  | .remap _ _ _ _ _ _ => true
  | .remapAck _ _ _ _ _ => true
  | .laneDown _ _ => true
  | .dark _ _ _ => true
  | .idCtl _ _ _ _ _ _ _ => true
  | .cal _ _ _ => true
  | .lossOfLight _ => true
  | .laserLightDrop _ _ => true
  | .lightDetected _ => true
  | .acquisitionComplete _ _ bers losses waves _ => wfAcq bers losses waves.map
  | .retrain ag _ => wfAgent ag
  | .laserEvaluation _ _ _ _ _ _ _ _ _ => true
  | .remapGo ag _ _ => wfAgent ag
  | .remapSwitch _ => true
  | .remapRetry _ => true
  | .returnGo ag _ _ => wfAgent ag
  | .laserReturnDone _ _ _ _ => true
  | .weirMeasure ag _ _ _ _ _ => wfAgent ag
  | .weirMeasureDone _ _ _ => true
  | .applyMap ag => wfAgent ag
  | .barMap ag => wfAgent ag
  | .sluiceSwitch => true
  | .fountainDieLoss _ => true
  | .linkPacketStart _ _ => true
  | .routerForward _ payload _ _ _ => wfPayload payload
  | .putPacket _ payload _ => wfPayload payload
  | .getPacket _ _ => true
  | .getOrdRelease _ => true
  | .getRespPacket _ payload _ => wfPayload payload
  | .aaddIPacket _ payload _ => wfPayload payload
  | .aaddFPacket _ payload _ => wfPayload payload
  | .reducePutPacket _ payload _ => wfPayload payload
  | .mcastPutPacket _ payload _ => wfPayload payload
  | .ackPacket _ _ => true
  | .ackTimeout _ _ _ _ => true
  | .detourSet _ => true
  | .holeWrite ag _ _ => wfAgent ag
  | .relocWrite ag _ _ => wfAgent ag
  | .watchdogExpiry _ => true
  | .quench ag _ => wfAgent ag
  | .quenchComplete _ _ => true
  | .basinReturn ag _ => wfAgent ag
  | .riskUpdate _ _ _ _ => true
  | .wearSample _ _ _ _ _ _ _ => true
  | .replicaEnable ag _ => wfAgent ag
  | .secureGo ag _ _ => wfAgent ag
  | .secureAbort ag _ => wfAgent ag
  | .copyOutStart _ => true
  | .copyOutCommit _ => true
  | .streamCommit _ _ => true
  | .stop ag _ => wfAgent ag
  | .rewind ag _ _ => wfAgent ag
  | .send ag _ _ _ => wfAgent ag
  | .adopt ag _ _ => wfAgent ag
  | .recoverComplete _ _ _ => true
  | .clusterIdle _ => true
  | .clusterWake _ _ => true
  | .wake ag _ => wfAgent ag
  | .pllLocked _ => true
  | .boostStep _ _ => true
  | .governorUpdate _ _ _ _ _ => true
  | .thermalSample _ _ => true
  | .droopEvent _ => true
  | .droopRecover _ => true
  | .grantRedistribute _ _ => true
  | .peakRead ag => wfAgent ag
  | .slackRead ag => wfAgent ag
  | .nfSumRead ag _ => wfAgent ag
  | .eventCounterWrite ag off _ => wfAgent ag && wfOffset off
  | .volumeClear ag off => wfAgent ag && wfOffset off
  | .snapTake ag off => wfAgent ag && wfOffset off
  | .snapRelease ag off => wfAgent ag && wfOffset off
  | .snapAllTake ag => wfAgent ag
  | .snapAllRelease ag => wfAgent ag
  | .primaryRailsInRange => true
  | .configurationSpaceWrite w => wfCfg w
  | .atsInvalidateRequest _ _ _ _ => true
  | .mailboxCommandDone ag => wfAgent ag
  | .calibrationCommit _ losses => losses.length == 18
  | .testAccessPort _ => true

end Sys2Proof
end

