-- ==== Sys2Proof/Machine/Chomen.lean ====
section
/-! DEFINITION. The Chomen slot instructions (07 R201-R235): their fields, their decoding from slot words, and the encoder
written from the same tables. A word that decodes to none is an issue fault with CAUSE 1 (R207). -/
namespace Sys2Proof.Machine

/-- The two-operand scalar operations of R210. -/
inductive AluOp where
  | add | sub | and | or | xor | shl | shr | sra | mul | mulh | mulhu | min | max | minu | maxu | slt | sltu | seq
  deriving DecidableEq, Repr

/-- The opcode of each (07). -/
def AluOp.code : AluOp → Nat
  | .add => 0x01 | .sub => 0x02 | .and => 0x03 | .or => 0x04 | .xor => 0x05 | .shl => 0x06 | .shr => 0x07
  | .sra => 0x08 | .mul => 0x09 | .mulh => 0x0A | .mulhu => 0x0B | .min => 0x0C | .max => 0x0D | .minu => 0x0E
  | .maxu => 0x0F | .slt => 0x10 | .sltu => 0x11 | .seq => 0x12

/-- The register form of an opcode (R210). -/
def aluOf (n : Nat) : Option AluOp :=
  match n with
  | 0x01 => some .add | 0x02 => some .sub | 0x03 => some .and | 0x04 => some .or | 0x05 => some .xor
  | 0x06 => some .shl | 0x07 => some .shr | 0x08 => some .sra | 0x09 => some .mul | 0x0A => some .mulh
  | 0x0B => some .mulhu | 0x0C => some .min | 0x0D => some .max | 0x0E => some .minu | 0x0F => some .maxu
  | 0x10 => some .slt | 0x11 => some .sltu | 0x12 => some .seq
  | _ => none

/-- The immediate form of an opcode (R210). -/
def aluiOf (n : Nat) : Option AluOp :=
  match n with
  | 0x21 => some .add | 0x23 => some .and | 0x24 => some .or | 0x25 => some .xor | 0x26 => some .shl
  | 0x27 => some .shr | 0x28 => some .sra | 0x29 => some .mul
  | _ => none

/-- The opcode of the immediate form; 0 for an operation that has none. -/
def AluOp.codeI : AluOp → Nat
  | .add => 0x21 | .and => 0x23 | .or => 0x24 | .xor => 0x25 | .shl => 0x26 | .shr => 0x27 | .sra => 0x28 | .mul => 0x29
  | _ => 0

/-- The branch relations of R210. -/
inductive Rel where
  | eq | ne | lt | ge | ltu | geu
  deriving DecidableEq, Repr

/-- The opcode of each (07). -/
def Rel.code : Rel → Nat
  | .eq => 0x60 | .ne => 0x61 | .lt => 0x62 | .ge => 0x63 | .ltu => 0x64 | .geu => 0x65

/-- The relation of a branch opcode (R210). -/
def relOf (n : Nat) : Option Rel :=
  match n with
  | 0x60 => some .eq | 0x61 => some .ne | 0x62 => some .lt | 0x63 => some .ge | 0x64 => some .ltu
  | 0x65 => some .geu
  | _ => none

/-- An S-slot instruction (R209-R214). Offsets are in bundles. -/
inductive SInst where
  | empty
  | alu (op : AluOp) (rd ra rb : Nat)
  | alui (op : AluOp) (rd ra : Nat) (imm : Int)
  | movi (rd : Nat) (imm : Int)
  | orhi (rd ra : Nat) (imm : Nat)
  | load (size : Nat) (signed : Bool) (rd ra : Nat) (imm : Int)
  | store (size : Nat) (rd ra : Nat) (imm : Int)
  | br (rel : Rel) (ra rb : Nat) (ofs : Int)
  | jmp (ofs : Int)
  | call (ra : Nat) (ofs : Int)
  | jr (ra : Nat)
  | loop (ra stop : Nat)
  | loopi (stop count : Nat)
  | mfc (rd : Nat) (imm : Int)
  | trap (code : Nat)
  | halt
  deriving DecidableEq, Repr

/-- Decoding of the S slot (R202, R209, R210). -/
def decodeS (w : Nat) : Option SInst :=
  let opc := bits w 0 8
  let (rd, ra, rb) := (bits w 8 5, bits w 13 5, bits w 18 5)
  let imm := sext 46 (bits w 18 46)
  let (ba, bb, ofs) := (bits w 8 5, bits w 13 5, sext 24 (bits w 18 24))
  if opc = 0 then (if w = 0 then some .empty else none)
  else if opc ≤ 0x12 then
    match aluOf opc with
    | some op => if bits w 23 41 = 0 then some (.alu op rd ra rb) else none
    | none => none
  else if opc ≤ 0x29 then
    match aluiOf opc with
    | some op => some (.alui op rd ra imm)
    | none => none
  else if opc = 0x30 then some (.movi rd imm)
  else if opc = 0x31 then some (.orhi rd ra (bits w 18 46))
  else if 0x40 ≤ opc ∧ opc ≤ 0x43 then some (.load (2 ^ (opc - 0x40)) false rd ra imm)
  else if 0x44 ≤ opc ∧ opc ≤ 0x46 then some (.load (2 ^ (opc - 0x44)) true rd ra imm)
  else if 0x48 ≤ opc ∧ opc ≤ 0x4B then some (.store (2 ^ (opc - 0x48)) rd ra imm)
  else if 0x60 ≤ opc ∧ opc ≤ 0x68 then
    if bits w 42 22 ≠ 0 then none
    else match relOf opc with
      | some r => some (.br r ba bb ofs)
      | none => if opc = 0x66 then some (.jmp ofs) else if opc = 0x67 then some (.call ba ofs) else some (.jr ba)
  else if opc = 0x70 ∨ opc = 0x71 then
    if bits w 8 5 ≠ 0 ∨ bits w 18 24 = 0 then none
    else if opc = 0x70 then (if bits w 42 22 = 0 then some (.loop ra (bits w 18 24)) else none)
    else some (.loopi (bits w 18 24) (bits w 42 22))
  else if opc = 0x78 then some (.mfc rd imm)
  else if opc = 0x7E then some (.trap (bits w 18 16))
  else if opc = 0x7F then (if w = 0x7F then some .halt else none)
  else none

/-- The S-slot word of an instruction (R209, R210). -/
def encodeS : SInst → Nat
  | .empty => 0
  | .alu op rd ra rb => op.code + rd * 2 ^ 8 + ra * 2 ^ 13 + rb * 2 ^ 18
  | .alui op rd ra imm => op.codeI + rd * 2 ^ 8 + ra * 2 ^ 13 + wrapInt 46 imm * 2 ^ 18
  | .movi rd imm => 0x30 + rd * 2 ^ 8 + wrapInt 46 imm * 2 ^ 18
  | .orhi rd ra imm => 0x31 + rd * 2 ^ 8 + ra * 2 ^ 13 + imm * 2 ^ 18
  | .load size signed rd ra imm =>
    (if signed then 0x44 else 0x40) + Nat.log2 size + rd * 2 ^ 8 + ra * 2 ^ 13 + wrapInt 46 imm * 2 ^ 18
  | .store size rd ra imm => 0x48 + Nat.log2 size + rd * 2 ^ 8 + ra * 2 ^ 13 + wrapInt 46 imm * 2 ^ 18
  | .br rel ra rb ofs => rel.code + ra * 2 ^ 8 + rb * 2 ^ 13 + wrapInt 24 ofs * 2 ^ 18
  | .jmp ofs => 0x66 + wrapInt 24 ofs * 2 ^ 18
  | .call ra ofs => 0x67 + ra * 2 ^ 8 + wrapInt 24 ofs * 2 ^ 18
  | .jr ra => 0x68 + ra * 2 ^ 8
  | .loop ra stop => 0x70 + ra * 2 ^ 13 + stop * 2 ^ 18
  | .loopi stop count => 0x71 + stop * 2 ^ 18 + count * 2 ^ 42
  | .mfc rd imm => 0x78 + rd * 2 ^ 8 + wrapInt 46 imm * 2 ^ 18
  | .trap code => 0x7E + code * 2 ^ 18
  | .halt => 0x7F

/-- What the encoding admits of an S-slot instruction (R209). -/
def SInst.wf : SInst → Bool
  | .empty => true
  | .alu _ rd ra rb => decide (rd < 32 ∧ ra < 32 ∧ rb < 32)
  | .alui op rd ra imm => decide (op.codeI ≠ 0 ∧ rd < 32 ∧ ra < 32 ∧ -2 ^ 45 ≤ imm ∧ imm < 2 ^ 45)
  | .movi rd imm => decide (rd < 32 ∧ -2 ^ 45 ≤ imm ∧ imm < 2 ^ 45)
  | .orhi rd ra imm => decide (rd < 32 ∧ ra < 32 ∧ imm < 2 ^ 46)
  | .load size signed rd ra imm =>
    (size == 1 || size == 2 || size == 4 || (size == 8 && !signed))
      && decide (rd < 32 ∧ ra < 32 ∧ -2 ^ 45 ≤ imm ∧ imm < 2 ^ 45)
  | .store size rd ra imm =>
    (size == 1 || size == 2 || size == 4 || size == 8) && decide (rd < 32 ∧ ra < 32 ∧ -2 ^ 45 ≤ imm ∧ imm < 2 ^ 45)
  | .br _ ra rb ofs => decide (ra < 32 ∧ rb < 32 ∧ -2 ^ 23 ≤ ofs ∧ ofs < 2 ^ 23)
  | .jmp ofs => decide (-2 ^ 23 ≤ ofs ∧ ofs < 2 ^ 23)
  | .call ra ofs => decide (ra < 32 ∧ -2 ^ 23 ≤ ofs ∧ ofs < 2 ^ 23)
  | .jr ra => decide (ra < 32)
  | .loop ra stop => decide (ra < 32 ∧ 0 < stop ∧ stop < 2 ^ 24)
  | .loopi stop count => decide (0 < stop ∧ stop < 2 ^ 24 ∧ count < 2 ^ 22)
  | .mfc rd imm => decide (rd < 32 ∧ -2 ^ 45 ≤ imm ∧ imm < 2 ^ 45)
  | .trap code => decide (code < 2 ^ 16)
  | .halt => true

/-- The V-slot operations in format V.R (R217). -/
inductive VOp where
  | vadd | vsub | vmul | vfma | vfms | vfnma | vmin | vmax | vabs | vneg | vand | vor | vxor | vnot | vshl | vshr
  | vsra | vceq | vcne | vclt | vcle | vsel | vcvt | vperm | vbcast | vext | vscl | viota | vredSum | vredMax
  | vredDot | pand | por | pxor | pnot | pfirst | pcnt | vrcp | vrsq | vsqrt | vexp2 | vexp | vlog2 | vln | vsin
  | vcos | vtanh | vsig | verf | vgen | vagb
  deriving DecidableEq, Repr

/-- The opcode of each (07). -/
def VOp.code : VOp → Nat
  | .vadd => 0x01 | .vsub => 0x02 | .vmul => 0x03 | .vfma => 0x04 | .vfms => 0x05 | .vfnma => 0x06 | .vmin => 0x07
  | .vmax => 0x08 | .vabs => 0x09 | .vneg => 0x0A | .vand => 0x10 | .vor => 0x11 | .vxor => 0x12 | .vnot => 0x13
  | .vshl => 0x14 | .vshr => 0x15 | .vsra => 0x16 | .vceq => 0x18 | .vcne => 0x19 | .vclt => 0x1A | .vcle => 0x1B
  | .vsel => 0x1C | .vcvt => 0x20 | .vperm => 0x21 | .vbcast => 0x22 | .vext => 0x23 | .vscl => 0x24
  | .viota => 0x25 | .vredSum => 0x30 | .vredMax => 0x31 | .vredDot => 0x32 | .pand => 0x38 | .por => 0x39
  | .pxor => 0x3A | .pnot => 0x3B | .pfirst => 0x3C | .pcnt => 0x3D | .vrcp => 0x40 | .vrsq => 0x41
  | .vsqrt => 0x42 | .vexp2 => 0x43 | .vexp => 0x44 | .vlog2 => 0x45 | .vln => 0x46 | .vsin => 0x47 | .vcos => 0x48
  | .vtanh => 0x49 | .vsig => 0x4A | .verf => 0x4B | .vgen => 0x50 | .vagb => 0x58

/-- The operation of an opcode (R217). -/
def vopOf (n : Nat) : Option VOp :=
  match n with
  | 0x01 => some .vadd | 0x02 => some .vsub | 0x03 => some .vmul | 0x04 => some .vfma | 0x05 => some .vfms
  | 0x06 => some .vfnma | 0x07 => some .vmin | 0x08 => some .vmax | 0x09 => some .vabs | 0x0A => some .vneg
  | 0x10 => some .vand | 0x11 => some .vor | 0x12 => some .vxor | 0x13 => some .vnot | 0x14 => some .vshl
  | 0x15 => some .vshr | 0x16 => some .vsra | 0x18 => some .vceq | 0x19 => some .vcne | 0x1A => some .vclt
  | 0x1B => some .vcle | 0x1C => some .vsel | 0x20 => some .vcvt | 0x21 => some .vperm | 0x22 => some .vbcast
  | 0x23 => some .vext | 0x24 => some .vscl | 0x25 => some .viota | 0x30 => some .vredSum | 0x31 => some .vredMax
  | 0x32 => some .vredDot | 0x38 => some .pand | 0x39 => some .por | 0x3A => some .pxor | 0x3B => some .pnot
  | 0x3C => some .pfirst | 0x3D => some .pcnt | 0x40 => some .vrcp | 0x41 => some .vrsq | 0x42 => some .vsqrt
  | 0x43 => some .vexp2 | 0x44 => some .vexp | 0x45 => some .vlog2 | 0x46 => some .vln | 0x47 => some .vsin
  | 0x48 => some .vcos | 0x49 => some .vtanh | 0x4A => some .vsig | 0x4B => some .verf | 0x50 => some .vgen
  | 0x58 => some .vagb
  | _ => none

/-- The V-slot stream operations in format V.M (R217, R222). -/
inductive VmOp where
  | vld | vst | vlds
  deriving DecidableEq, Repr

/-- The opcode of each (07). -/
def VmOp.code : VmOp → Nat
  | .vld => 0x60 | .vst => 0x61 | .vlds => 0x62

/-- The stream operation of an opcode (R217). -/
def vmOf (n : Nat) : Option VmOp :=
  match n with
  | 0x60 => some .vld | 0x61 => some .vst | 0x62 => some .vlds
  | _ => none

/-- A V-slot instruction: format V.R or V.M (R215). -/
inductive VInst where
  | empty
  | r (op : VOp) (vd va vb vc pred : Nat) (pneg : Bool) (ty : Nat) (sgn sat : Bool) (acc : Nat) (bs : Bool)
  | m (op : VmOp) (vd pred : Nat) (pneg : Bool) (ty : Nat) (sgn raw : Bool) (tag : Nat)
  deriving DecidableEq, Repr

/-- Decoding of the V slot (R202, R215-R217): reserved bits, TY 9-15 and ACC 3 are refused, and the fields that VAGB and
VLDS require to be zero. -/
def decodeV (w : Nat) : Option VInst :=
  let opc := bits w 0 8
  let ty := bits w 36 4
  if opc = 0 then (if w = 0 then some .empty else none)
  else match vopOf opc with
    | some op =>
      if bits w 45 19 ≠ 0 ∨ ty > 8 ∨ bits w 42 2 = 3 then none
      else if op = .vagb ∧ (bits w 9 5 ≠ 0 ∨ bits w 18 2 ≠ 0) then none
      else some (.r op (bits w 8 6) (bits w 14 6) (bits w 20 6) (bits w 26 6) (bits w 32 3) (bit w 35) ty (bit w 40) (bit w 41)
        (bits w 42 2) (bit w 44))
    | none =>
      match vmOf opc with
      | some op =>
        if bits w 54 10 ≠ 0 ∨ bits w 14 18 ≠ 0 ∨ ty > 8 then none
        else if op = .vlds ∧ (ty ≠ 0 ∨ bit w 41 ∨ bits w 42 12 ≠ 0) then none
        else some (.m op (bits w 8 6) (bits w 32 3) (bit w 35) ty (bit w 40) (bit w 41) (bits w 42 12))
      | none => none

/-- The V-slot word of an instruction (R215). -/
def encodeV : VInst → Nat
  | .empty => 0
  | .r op vd va vb vc pred pneg ty sgn sat acc bs =>
    op.code + vd * 2 ^ 8 + va * 2 ^ 14 + vb * 2 ^ 20 + vc * 2 ^ 26 + pred * 2 ^ 32 + b2n pneg * 2 ^ 35 + ty * 2 ^ 36
      + b2n sgn * 2 ^ 40 + b2n sat * 2 ^ 41 + acc * 2 ^ 42 + b2n bs * 2 ^ 44
  | .m op vd pred pneg ty sgn raw tag =>
    op.code + vd * 2 ^ 8 + pred * 2 ^ 32 + b2n pneg * 2 ^ 35 + ty * 2 ^ 36 + b2n sgn * 2 ^ 40 + b2n raw * 2 ^ 41 + tag * 2 ^ 42

/-- What the encoding admits of a V-slot instruction (R215-R217). -/
def VInst.wf : VInst → Bool
  | .empty => true
  | .r op vd va vb vc pred _ ty _ _ acc _ =>
    decide (vd < 64 ∧ va < 64 ∧ vb < 64 ∧ vc < 64 ∧ pred < 8 ∧ ty ≤ 8 ∧ acc < 3)
      && (op != .vagb || decide (vd < 2 ∧ va < 16))
  | .m op vd pred _ ty _ raw tag =>
    decide (vd < 64 ∧ pred < 8 ∧ ty ≤ 8 ∧ tag < 4096) && (op != .vlds || (ty == 0 && !raw && tag == 0))

/-- An M-slot instruction (R224). -/
inductive MInst where
  | empty
  | agb (an k : Nat)
  | mload (crows ncol wtag : Nat)
  | mpass (rows : Nat) (rs : Bool) (rr set otag : Nat)
  | mdrain (set otag : Nat) (raw : Bool) (act lsh : Nat) (clo chi bias : Bool) (rsc csc rc rt : Nat)
  deriving DecidableEq, Repr

/-- Decoding of the M slot (R224): bits of no field are reserved; codes 3 of RSC and CSC are reserved; the activation codes
and their shift (R53), and the fields a raw drain requires to be zero (R224), are checked here. -/
def decodeM (w : Nat) : Option MInst :=
  let opc := bits w 0 8
  if opc = 0 then (if w = 0 then some .empty else none)
  else if opc = 0x01 then (if bits w 14 50 = 0 then some (.agb (bits w 8 4) (bits w 12 2)) else none)
  else if opc = 0x10 then (if bits w 36 28 = 0 then some (.mload (bits w 8 8) (bits w 16 8) (bits w 24 12)) else none)
  else if opc = 0x11 then
    if bits w 35 29 = 0 then some (.mpass (bits w 8 8) (bit w 16) (bits w 17 5) (bits w 22 1) (bits w 23 12)) else none
  else if opc = 0x12 then
    let (act, lsh) := (bits w 22 3, bits w 25 4)
    if bits w 46 18 ≠ 0 ∨ bits w 32 2 = 3 ∨ bits w 34 2 = 3 ∨ act = 7 ∨ (act = 2 ∧ lsh = 0) ∨ (act ≠ 2 ∧ lsh ≠ 0)
        ∨ (bit w 21 ∧ bits w 22 24 ≠ 0) then none
    else some (.mdrain (bits w 8 1) (bits w 9 12) (bit w 21) act lsh (bit w 29) (bit w 30) (bit w 31) (bits w 32 2)
      (bits w 34 2) (bits w 36 5) (bits w 41 5))
  else none

/-- The M-slot word of an instruction (R224). -/
def encodeM : MInst → Nat
  | .empty => 0
  | .agb an k => 0x01 + an * 2 ^ 8 + k * 2 ^ 12
  | .mload crows ncol wtag => 0x10 + crows * 2 ^ 8 + ncol * 2 ^ 16 + wtag * 2 ^ 24
  | .mpass rows rs rr set otag => 0x11 + rows * 2 ^ 8 + b2n rs * 2 ^ 16 + rr * 2 ^ 17 + set * 2 ^ 22 + otag * 2 ^ 23
  | .mdrain set otag raw act lsh clo chi bias rsc csc rc rt =>
    0x12 + set * 2 ^ 8 + otag * 2 ^ 9 + b2n raw * 2 ^ 21 + act * 2 ^ 22 + lsh * 2 ^ 25 + b2n clo * 2 ^ 29 + b2n chi * 2 ^ 30
      + b2n bias * 2 ^ 31 + rsc * 2 ^ 32 + csc * 2 ^ 34 + rc * 2 ^ 36 + rt * 2 ^ 41

/-- What the encoding admits of an M-slot instruction (R224, R53). -/
def MInst.wf : MInst → Bool
  | .empty => true
  | .agb an k => decide (an < 16 ∧ k < 4)
  | .mload crows ncol wtag => decide (crows < 256 ∧ ncol < 256 ∧ wtag < 4096)
  | .mpass rows _ rr set otag => decide (rows < 256 ∧ rr < 32 ∧ set < 2 ∧ otag < 4096)
  | .mdrain set otag raw act lsh clo chi bias rsc csc rc rt =>
    decide (set < 2 ∧ otag < 4096 ∧ act < 7 ∧ lsh < 16 ∧ rsc < 3 ∧ csc < 3 ∧ rc < 32 ∧ rt < 32)
      && (if act = 2 then lsh != 0 else lsh == 0)
      && (!raw || (act == 0 && lsh == 0 && !clo && !chi && !bias && rsc == 0 && csc == 0 && rc == 0 && rt == 0))

/-- The X-slot operations in format X.F (R227, R228). -/
inductive XfOp where
  | put | get | aaddI | aaddF | rput | mcast | spout | tissue | lissue
  deriving DecidableEq, Repr

/-- The opcode of each (07). -/
def XfOp.code : XfOp → Nat
  | .put => 0x20 | .get => 0x21 | .aaddI => 0x22 | .aaddF => 0x23 | .rput => 0x24 | .mcast => 0x25 | .spout => 0x30
  | .tissue => 0x38 | .lissue => 0x39

/-- The operation of an opcode (R228). -/
def xfOf (n : Nat) : Option XfOp :=
  match n with
  | 0x20 => some .put | 0x21 => some .get | 0x22 => some .aaddI | 0x23 => some .aaddF | 0x24 => some .rput
  | 0x25 => some .mcast | 0x30 => some .spout | 0x38 => some .tissue | 0x39 => some .lissue
  | _ => none

/-- An X-slot instruction (R227, R228). -/
inductive XInst where
  | empty
  | ald (an ra imm : Nat)
  | ast (an ra imm : Nat)
  | awr (an k ra : Nat)
  | ard (an k rd : Nat)
  | latch (isSet : Bool) (num : Nat) (lr : Bool) (rb ra : Nat)
  | lwait (num : Nat) (lr : Bool) (rb ra : Nat)
  | fence (scope : Nat)
  | msync (mask : Nat)
  | f (op : XfOp) (rl rr rc rn run rfmt max : Nat) (sigen : Bool) (siglatch : Nat) (c : Bool)
  | qpost (rd ra idx : Nat)
  | tharv (rd idx : Nat)
  deriving DecidableEq, Repr

/-- Decoding of the X slot (R227, R228, R233, R235): bits of no field of the format are reserved. -/
def decodeX (w : Nat) : Option XInst :=
  let opc := bits w 0 8
  let (an, k, rd, ra, imm) := (bits w 8 4, bits w 12 3, bits w 15 5, bits w 20 5, bits w 25 25)
  let (la, lr, lb, lv) := (bits w 8 13, bit w 21, bits w 22 5, bits w 27 5)
  if opc = 0 then (if w = 0 then some .empty else none)
  else if 0x01 ≤ opc ∧ opc ≤ 0x04 then
    if bits w 50 14 ≠ 0 then none
    else if opc = 0x01 then some (.ald an ra imm)
    else if opc = 0x02 then some (.ast an ra imm)
    else if opc = 0x03 then some (.awr an k ra)
    else some (.ard an k rd)
  else if 0x10 ≤ opc ∧ opc ≤ 0x12 then
    if bits w 32 32 ≠ 0 then none
    else if opc = 0x12 then some (.lwait la lr lb lv) else some (.latch (opc = 0x11) la lr lb lv)
  else if 0x18 ≤ opc ∧ opc ≤ 0x1A then (if w = opc then some (.fence (opc - 0x18)) else none)
  else if opc = 0x1C then (if bits w 26 38 = 0 ∧ bits w 13 13 = 0 then some (.msync (bits w 8 5)) else none)
  else if opc = 0x40 then (if bits w 30 34 = 0 then some (.qpost (bits w 8 5) (bits w 13 5) (bits w 18 12)) else none)
  else if opc = 0x48 then (if bits w 30 34 = 0 then some (.tharv (bits w 8 5) (bits w 18 12)) else none)
  else match xfOf opc with
    | some op =>
      if bits w 51 13 ≠ 0 then none
      else if (op = .tissue ∨ op = .lissue) ∧ (bits w 28 8 ≠ 0 ∨ bit w 50) then none
      else some (.f op (bits w 8 5) (bits w 13 5) (bits w 18 5) (bits w 23 5) (bits w 28 2) (bits w 30 4) (bits w 34 2)
        (bit w 36) (bits w 37 13) (bit w 50))
    | none => none

/-- The X-slot word of an instruction (R227, R228). -/
def encodeX : XInst → Nat
  | .empty => 0
  | .ald an ra imm => 0x01 + an * 2 ^ 8 + ra * 2 ^ 20 + imm * 2 ^ 25
  | .ast an ra imm => 0x02 + an * 2 ^ 8 + ra * 2 ^ 20 + imm * 2 ^ 25
  | .awr an k ra => 0x03 + an * 2 ^ 8 + k * 2 ^ 12 + ra * 2 ^ 20
  | .ard an k rd => 0x04 + an * 2 ^ 8 + k * 2 ^ 12 + rd * 2 ^ 15
  | .latch isSet num lr rb ra => 0x10 + b2n isSet + num * 2 ^ 8 + b2n lr * 2 ^ 21 + rb * 2 ^ 22 + ra * 2 ^ 27
  | .lwait num lr rb ra => 0x12 + num * 2 ^ 8 + b2n lr * 2 ^ 21 + rb * 2 ^ 22 + ra * 2 ^ 27
  | .fence scope => 0x18 + scope
  | .msync mask => 0x1C + mask * 2 ^ 8
  | .f op rl rr rc rn run rfmt max sigen siglatch c =>
    op.code + rl * 2 ^ 8 + rr * 2 ^ 13 + rc * 2 ^ 18 + rn * 2 ^ 23 + run * 2 ^ 28 + rfmt * 2 ^ 30 + max * 2 ^ 34
      + b2n sigen * 2 ^ 36 + siglatch * 2 ^ 37 + b2n c * 2 ^ 50
  | .qpost rd ra idx => 0x40 + rd * 2 ^ 8 + ra * 2 ^ 13 + idx * 2 ^ 18
  | .tharv rd idx => 0x48 + rd * 2 ^ 8 + idx * 2 ^ 18

/-- What the encoding admits of an X-slot instruction (R227). -/
def XInst.wf : XInst → Bool
  | .empty => true
  | .ald an ra imm => decide (an < 16 ∧ ra < 32 ∧ imm < 2 ^ 25)
  | .ast an ra imm => decide (an < 16 ∧ ra < 32 ∧ imm < 2 ^ 25)
  | .awr an k ra => decide (an < 16 ∧ k < 8 ∧ ra < 32)
  | .ard an k rd => decide (an < 16 ∧ k < 8 ∧ rd < 32)
  | .latch _ num _ rb ra => decide (num < 2 ^ 13 ∧ rb < 32 ∧ ra < 32)
  | .lwait num _ rb ra => decide (num < 2 ^ 13 ∧ rb < 32 ∧ ra < 32)
  | .fence scope => decide (scope < 3)
  | .msync mask => decide (mask < 32)
  | .f op rl rr rc rn run rfmt max _ siglatch c =>
    decide (rl < 32 ∧ rr < 32 ∧ rc < 32 ∧ rn < 32 ∧ run < 4 ∧ rfmt < 16 ∧ max < 4 ∧ siglatch < 2 ^ 13)
      && ((op != .tissue && op != .lissue) || (run == 0 && rfmt == 0 && max == 0 && !c))
  | .qpost rd ra idx => decide (rd < 32 ∧ ra < 32 ∧ idx < 2 ^ 12)
  | .tharv rd idx => decide (rd < 32 ∧ idx < 2 ^ 12)

/-- The four slot words of a bundle (R201). -/
def slotWord (bundle i : Nat) : Nat := bits bundle (64 * i) 64

end Sys2Proof.Machine
end

