-- ==== Sys2Proof/Machine/Crc.lean ====
section
/-! DEFINITION. The checks the spec names by polynomial: CRC-32 (R307), CRC-16 (R308) and CRC-32 over stored records, and
SHA3-256 (R437, R450). -/
namespace Sys2Proof.Machine

/-- One reflected CRC-32 bit step. -/
def crc32Step (c : Nat) : Nat := if c % 2 = 1 then (c / 2) ^^^ 0xEDB88320 else c / 2

def crc32Byte (c : Nat) (b : Byte) : Nat :=
  let x := c ^^^ b.toNat
  crc32Step (crc32Step (crc32Step (crc32Step (crc32Step (crc32Step (crc32Step (crc32Step x)))))))

/-- CRC-32, polynomial 0x04C1_1DB7, reflected, inverted at the end as in IEEE 802.3 (R307). -/
def crc32 (bs : List Byte) : Nat := (bs.foldl crc32Byte 0xFFFFFFFF) ^^^ 0xFFFFFFFF

/-- One CRC-16 bit step, most significant bit first, polynomial 0x8BB7. -/
def crc16Step (c : Nat) : Nat := if bit c 15 then ((2 * c) % 65536) ^^^ 0x8BB7 else (2 * c) % 65536

def crc16Byte (c : Nat) (b : Byte) : Nat :=
  let x := c ^^^ (b.toNat * 256)
  crc16Step (crc16Step (crc16Step (crc16Step (crc16Step (crc16Step (crc16Step (crc16Step x)))))))

/-- CRC-16, polynomial 0x8BB7 (R308), bytes in order from 0, most significant bit first (log entry 12). -/
def crc16 (bs : List Byte) : Nat := bs.foldl crc16Byte 0

/-! ### SHA3-256 (FIPS 202, which R374 names by its algorithm) -/

/-- A 64-bit lane rotated left. -/
def rotl (x k : Nat) : Nat := (x * 2 ^ k) % 2 ^ 64 + x / 2 ^ (64 - k)

/-- Lane (x, y) of a state of 25 lanes. -/
def lane (a : List Nat) (x y : Nat) : Nat := a.getD (x % 5 + 5 * (y % 5)) 0

/-- A state built lane by lane. -/
def lanes (f : Nat → Nat → Nat) : List Nat := (List.range 25).map (fun i => f (i % 5) (i / 5))

/-- The rotation of each lane. -/
def keccakRot : List Nat := [0, 1, 62, 28, 27, 36, 44, 6, 55, 20, 3, 10, 43, 25, 39, 41, 45, 15, 21, 8, 18, 2, 61, 56, 14]

/-- The round constants. -/
def keccakRc : List Nat :=
  [0x1, 0x8082, 0x800000000000808A, 0x8000000080008000, 0x808B, 0x80000001, 0x8000000080008081, 0x8000000000008009, 0x8A,
   0x88, 0x80008009, 0x8000000A, 0x8000808B, 0x800000000000008B, 0x8000000000008089, 0x8000000000008003, 0x8000000000008002,
   0x8000000000000080, 0x800A, 0x800000008000000A, 0x8000000080008081, 0x8000000000008080, 0x80000001, 0x8000000080008008]

/-- One round. -/
def keccakRound (a : List Nat) (rc : Nat) : List Nat :=
  let col := (List.range 5).map (fun x => (List.range 5).foldl (fun v y => v ^^^ lane a x y) 0)
  let d := (List.range 5).map (fun x => col.getD ((x + 4) % 5) 0 ^^^ rotl (col.getD ((x + 1) % 5) 0) 1)
  let t := lanes (fun x y => lane a x y ^^^ d.getD x 0)
  let r := lanes (fun x y => rotl (lane t x y) (keccakRot.getD (x + 5 * y) 0))
  let b := lanes (fun x y => lane r (x + 3 * y) x)
  let e := lanes (fun x y => lane b x y ^^^ ((2 ^ 64 - 1 - lane b (x + 1) y) &&& lane b (x + 2) y))
  e.set 0 (e.getD 0 0 ^^^ rc)

def keccakF (a : List Nat) : List Nat := keccakRc.foldl keccakRound a

/-- One block of 136 bytes absorbed. -/
def absorb (a : List Nat) (blk : List Byte) : List Nat :=
  keccakF ((List.range 25).map (fun i => a.getD i 0 ^^^ (if i < 17 then leNat ((blk.drop (8 * i)).take 8) else 0)))

def absorbAll (a : List Nat) : Nat → List Byte → List Nat
  | 0, _ => a
  | n + 1, bs => absorbAll (absorb a (bs.take 136)) n (bs.drop 136)

/-- SHA3-256 of a list of bytes: 32 bytes. -/
def sha3 (bs : List Byte) : List Byte :=
  let n := 136 - bs.length % 136
  let pad : List Byte := if n = 1 then [0x86] else [(0x06 : Byte)] ++ List.replicate (n - 2) 0 ++ [0x80]
  let m := bs ++ pad
  ((absorbAll (List.replicate 25 0) (m.length / 136) m).take 4).flatMap (leBytes 8)

end Sys2Proof.Machine
end

