-- ==== Sys2Proof/Machine/Desc.lean ====
section
/-! DEFINITION. Address-generator descriptors (02 R49-R51, R487; 07 R237): fields, the checks at binding, and the walk. -/
namespace Sys2Proof.Machine

/-- Cistern size and the first offset of the latch area (R36, R176). -/
def cisSize : Nat := 0x1800000
def latchOfs : Nat := 0x17FF800

/-- Word `i` of a 512-bit descriptor. -/
def dword (d i : Nat) : Nat := bits d (64 * i) 64

def dBase (d : Nat) : Nat := bits d 0 25
def dRowBytes (d : Nat) : Nat := (bits d 25 5 + 1) * 32
def dKvalid (d : Nat) : Nat := bits d 30 10
def dPadv (d : Nat) : Bool := bit d 43
def dLoops (d : Nat) : Nat := bits d 45 3

/-- Width in bits that ESIZE names (R50); 0 for the reserved code. -/
def dEbits (d : Nat) : Nat := [4, 6, 8, 16, 32, 40, 64, 0].getD (bits d 40 3) 0

/-- COUNT, STRIDE, DH and DW of loop `i`. -/
def dCount (d i : Nat) : Nat := bits (dword d (i + 1)) 0 16 + 1
def dStride (d i : Nat) : Int := sext 25 (bits (dword d (i + 1)) 16 25)
def dDH (d i : Nat) : Int := sext 8 (bits (dword d (i + 1)) 41 8)
def dDW (d i : Nat) : Int := sext 8 (bits (dword d (i + 1)) 49 8)

/-- Elements that a row holds, and that KVALID names (R487). -/
def dHolds (d : Nat) : Nat := if dEbits d = 0 then 0 else dRowBytes d * 8 / dEbits d
def dElems (d : Nat) : Nat := if dKvalid d = 0 then dHolds d else dKvalid d

/-- Rows of the whole stream: the product of the active loops' counts. -/
def dRows (d : Nat) : Nat := (List.range (dLoops d)).foldl (fun n i => n * dCount d i) 1

/-- The checks made when a descriptor is bound to AG `k` (R487). The KVALID check of AG4 and AG5 is made by the rill
instruction that consumes the stream, since a spout stream takes no account of it (log entry 22). -/
def dOk (k d : Nat) : Bool :=
  bits d 48 16 == 0 && dEbits d != 0 && dLoops d != 0 && dLoops d != 7 && dBase d % 32 == 0
  && (List.range (dLoops d)).all (fun i => bits (dword d (i + 1)) 57 7 == 0 && dStride d i % 32 == 0)
  && !(dPadv d && decide (k < 4)) && (decide (k ≥ 3) || decide (dKvalid d ≤ dHolds d))

/-- The loop indices of row `r`, innermost first. -/
def dIdx (d : Nat) : Nat → Nat → Nat → List Nat
  | 0, _, _ => []
  | n + 1, i, r => r % dCount d i :: dIdx d n (i + 1) (r / dCount d i)

/-- The address of row `r` and whether it is padding (R51). -/
def dRow (d r : Nat) : Int × Bool :=
  let ix := (dIdx d (dLoops d) 0 r).zipIdx
  let w7 := dword d 7
  let sum (f : Nat → Int) : Int := ix.foldl (fun a e => a + (e.1 : Int) * f e.2) 0
  let h := sext 16 (bits w7 0 16) + sum (dDH d)
  let w := sext 16 (bits w7 16 16) + sum (dDW d)
  let (he, we) := (bits w7 32 16, bits w7 48 16)
  (dBase d + sum (dStride d), (he ≠ 0 ∧ (h < 0 ∨ h ≥ he)) ∨ (we ≠ 0 ∧ (w < 0 ∨ w ≥ we)))

/-- Whether row `r` can be read, or written (R51, R176). -/
def dRowOk (d r : Nat) (write : Bool) : Bool :=
  let (a, pad) := dRow d r
  pad || (decide (0 ≤ a) && decide (a + dRowBytes d ≤ (if write then latchOfs else cisSize)))

/-- Whether all of `n` rows from `r` can be read, or written. -/
def dRowsOk (d r n : Nat) (write : Bool) : Bool := (List.range n).all (fun i => dRowOk d (r + i) write)

/-- The byte range of a stream (R237): lowest offset and end. -/
def dRange (d : Nat) : Int × Int :=
  let steps := (List.range (dLoops d)).map (fun i => ((dCount d i : Int) - 1) * dStride d i)
  ((steps.foldl (fun a s => if s < 0 then a + s else a) (dBase d : Int)),
   (steps.foldl (fun a s => if s > 0 then a + s else a) (dBase d : Int)) + dRowBytes d)

/-- Whether a write of `len` bytes at cistern offset `off` meets any of `n` stream rows from row `r` (R238); padding rows lie nowhere. -/
def dTouch (d r n off len : Nat) : Bool :=
  (List.range n).any (fun i =>
    let (a, pad) := dRow d (r + i)
    !pad && decide (a < (off + len : Nat)) && decide ((off : Int) < a + dRowBytes d))

/-! ### Cistern banks (R259-R261) -/

/-- Bank, row and quad of a cistern offset (R259). -/
def cisBank (off : Nat) : Nat := (off / 64 ^^^ off / 4096) % 64
def cisRow (off : Nat) : Nat := off / 4096
def cisQuad (off : Nat) : Nat := (off / 256 ^^^ off / 16384) % 16

/-- A requester of a bank: the three array streams, and every other one by its place in the round-robin (R260). -/
inductive BankReq where
  | weight
  | operand
  | burnish
  | other (n : Nat)
  deriving DecidableEq, Repr

/-- The arbiter's order: AG1, AG0, AG2, then the others from the place `turn` of the round-robin on, of which there are `n` (R260). -/
def BankReq.rank (n turn : Nat) : BankReq → Nat
  | .weight => 0
  | .operand => 1
  | .burnish => 2
  | .other i => 3 + (i + n - turn % n) % n

/-- The request that a bank grants in a cycle. -/
def bankGrant (n turn : Nat) (rs : List BankReq) : Option BankReq :=
  rs.foldl (fun best r => match best with
    | none => some r
    | some q => if r.rank n turn < q.rank n turn then some r else some q) none

/-- Two streams of 256-byte rows at stride 256 that never conflict (R261). -/
def neverConflict (d e : Nat) : Bool :=
  let plain (d : Nat) : Bool := dRowBytes d == 256 && dLoops d == 1 && dStride d 0 == 256
  let diff := (dBase d - dBase e) + (dBase e - dBase d)
  plain d && plain e && diff % 16384 == 0 && diff % 262144 != 0

end Sys2Proof.Machine
end

