-- ==== Sys2Proof/Machine/Mem.lean ====
section
/-! DEFINITION. Memory operations over the canonical list of bytes: read, write, and loss of contents. -/
namespace Sys2Proof.Machine

/-- What an unlisted address reads as: a free byte in the newest undefined range that holds it (R5, R22), else zero
(log entry 4). -/
def holeDefault : List Hole → Nat → Byte
  | [], _ => 0
  | h :: t, a => if h.base ≤ a ∧ a < h.base + h.len then Config.freeByte h.epoch a else holeDefault t a

/-- The listed byte of an address. -/
def cellFind : List Host.Cell → Nat → Option Byte
  | [], _ => none
  | (k, v) :: t, a => if k = a then some v else cellFind t a

/-- The list with an address listed in its place. -/
def cellSet : List Host.Cell → Nat → Byte → List Host.Cell
  | [], a, v => [(a, v)]
  | (k, w) :: t, a, v =>
    if a < k then (a, v) :: (k, w) :: t else if a = k then (a, v) :: t else (k, w) :: cellSet t a v

/-- The list with an address not listed. -/
def cellErase : List Host.Cell → Nat → List Host.Cell
  | [], _ => []
  | (k, w) :: t, a => if k = a then cellErase t a else (k, w) :: cellErase t a

/-- The byte an address holds. -/
def Mem.read (m : Mem) (a : Nat) : Byte := (cellFind m.cells a).getD (holeDefault m.holes a)

/-- One byte written; writing what an unlisted address reads as takes the entry away. -/
def Mem.write1 (m : Mem) (a : Nat) (v : Byte) : Mem :=
  { m with cells := if v = holeDefault m.holes a then cellErase m.cells a else cellSet m.cells a v }

/-- Bytes written from an address upward. -/
def Mem.write (m : Mem) (a : Nat) : List Byte → Mem
  | [] => m
  | b :: t => Mem.write (m.write1 a b) (a + 1) t

/-- The bytes from an address upward. -/
def Mem.reads (m : Mem) (a : Nat) : Nat → List Byte
  | 0 => []
  | n + 1 => m.read a :: Mem.reads m (a + 1) n

/-- The contents of a range become undefined, under a loss number of its own. -/
def Mem.lose (m : Mem) (base len epoch : Nat) : Mem :=
  { cells := m.cells.filter (fun c => decide (c.1 < base ∨ base + len ≤ c.1)), holes := ⟨base, len, epoch⟩ :: m.holes }

/-- The memory restricted to a range: what that range holds, kept as a copy. -/
def Mem.slice (m : Mem) (base len : Nat) : Mem :=
  { m with cells := m.cells.filter (fun c => decide (base ≤ c.1 ∧ c.1 < base + len)) }

/-- Keys strictly rising. -/
def cellsSorted : List Host.Cell → Bool
  | [] => true
  | [_] => true
  | (a, _) :: (b, w) :: t => decide (a < b) && cellsSorted ((b, w) :: t)

/-- The canonical form: addresses strictly rising, and no entry equal to what an unlisted address reads as. -/
def Mem.wf (m : Mem) : Bool :=
  cellsSorted m.cells && m.cells.all (fun c => decide (c.2 ≠ holeDefault m.holes c.1))

end Sys2Proof.Machine
end

