-- ==== Sys2Proof/Machine/Regs.lean ====
section
/-! DEFINITION. The registers of the register window (R468, R469): for each its window offset, its reset value
(R10; a field the spec resets from the configuration set stands at its factory value, log entry 2) and its fields. -/
namespace Sys2Proof.Machine

/-- Field access codes of R11. -/
inductive Access where
  | ro | rw | w1c | rws | wo | rc
  deriving DecidableEq, Repr

/-- One register of the window: its offset in the 64 MiB register window and its reset value. -/
structure Reg where
  key : Nat
  rst : Nat
  deriving DecidableEq, Repr

/-- One field of one register: bits [lo + len - 1 : lo]. -/
structure RF where
  reg : Reg
  lo : Nat
  len : Nat
  deriving DecidableEq, Repr

/-- One field as the register tables list it: place, access code, and whether its reset value is "cfg". -/
structure Fld where
  lo : Nat
  len : Nat
  acc : Access
  cfg : Bool
  deriving DecidableEq, Repr

/-- Block bases (R468). FGE_ and CLS_ registers are kept under the physical die that holds them. -/
def fntBase (d : Nat) : Nat := 0x80000 + 0x10000 * d
def hbmBase (k : Nat) : Nat := 0x100000 + 0x10000 * k
def bsnBase (b : Nat) : Nat := 0x1000000 + 0x400000 * b
def dieBase (n : Nat) : Nat := 0x2800000 + 0x80000 * n
def clsBase (n c : Nat) : Nat := dieBase n + 0x10000 + 0x10000 * c

/-- The home die of slot `s` of basin `b` (R18); 31 for a slot that no home die holds. -/
def homeDie (b s : Nat) : Nat :=
  ([[0, 1, 6, 7], [13, 14, 20, 21], [2, 8, 15, 22], [3, 10, 17, 23], [4, 5, 11, 12], [18, 19, 24, 25]].getD b []).getD s 31

/-- BSN_DIE_MAP of the home assignment in Sheltered mode (R18, R29), without GEN. -/
def homeMap (b : Nat) : Nat :=
  homeDie b 0 + homeDie b 1 * 0x20 + homeDie b 2 * 0x400 + homeDie b 3 * 0x8000 + 31 * 0x100000 + 4 * 0x2000000

/-- FNT_LASER of wavelength w (0-17) before any calibration: lane w on wavelength w, wavelengths 16 and 17 spare. -/
def laserRst (w : Nat) : Nat := if w < 16 then 1 + w * 8 else 2 + 31 * 8

/-- HUB_FORGE_STATUS (R28). -/
def HUB_FORGE_STATUS (i : Nat) : Reg := ⟨0x400 + 0x8 * i, 0x1E1F8⟩
def HUB_FORGE_STATUS.STATE (i : Nat) : RF := ⟨HUB_FORGE_STATUS i, 0, 3⟩
def HUB_FORGE_STATUS.BASIN (i : Nat) : RF := ⟨HUB_FORGE_STATUS i, 3, 3⟩
def HUB_FORGE_STATUS.SLOT (i : Nat) : RF := ⟨HUB_FORGE_STATUS i, 6, 3⟩
def HUB_FORGE_STATUS.FAIL_COUNT (i : Nat) : RF := ⟨HUB_FORGE_STATUS i, 9, 4⟩
def HUB_FORGE_STATUS.HOPS (i : Nat) : RF := ⟨HUB_FORGE_STATUS i, 13, 4⟩
/-- HUB_SPARE_CMD (R30). -/
def HUB_SPARE_CMD : Reg := ⟨0x500, 0x0⟩
def HUB_SPARE_CMD.TARGET : RF := ⟨HUB_SPARE_CMD, 0, 5⟩
def HUB_SPARE_CMD.SPARE : RF := ⟨HUB_SPARE_CMD, 5, 5⟩
def HUB_SPARE_CMD.ACTION : RF := ⟨HUB_SPARE_CMD, 10, 2⟩
def HUB_SPARE_CMD.GO : RF := ⟨HUB_SPARE_CMD, 63, 1⟩
/-- HUB_SPARE_STS (R31). -/
def HUB_SPARE_STS : Reg := ⟨0x508, 0x1F00⟩
def HUB_SPARE_STS.BUSY : RF := ⟨HUB_SPARE_STS, 0, 1⟩
def HUB_SPARE_STS.RESULT : RF := ⟨HUB_SPARE_STS, 1, 4⟩
def HUB_SPARE_STS.OVERRUN : RF := ⟨HUB_SPARE_STS, 5, 1⟩
def HUB_SPARE_STS.LAST_TARGET : RF := ⟨HUB_SPARE_STS, 8, 5⟩
def HUB_SPARE_STS.COUNT : RF := ⟨HUB_SPARE_STS, 16, 16⟩
/-- HUB_ROLE (R365). -/
def HUB_ROLE : Reg := ⟨0x600, 0x0⟩
def HUB_ROLE.PRIMARY : RF := ⟨HUB_ROLE, 0, 1⟩
def HUB_ROLE.STANDBY_OK : RF := ⟨HUB_ROLE, 1, 1⟩
def HUB_ROLE.FAILOVERS : RF := ⟨HUB_ROLE, 2, 16⟩
def HUB_ROLE.LAST_CAUSE : RF := ⟨HUB_ROLE, 18, 2⟩
def HUB_ROLE.SWITCH : RF := ⟨HUB_ROLE, 20, 1⟩
/-- HUB_TICKS (R393). -/
def HUB_TICKS : Reg := ⟨0x700, 0x0⟩
def HUB_TICKS.TICKS : RF := ⟨HUB_TICKS, 0, 64⟩
/-- HUB_VF_BIND (R424). -/
def HUB_VF_BIND (i : Nat) : Reg := ⟨0x800 + 0x10 * i, 0x7⟩
def HUB_VF_BIND.BASIN (i : Nat) : RF := ⟨HUB_VF_BIND i, 0, 3⟩
def HUB_VF_BIND.ADMIN (i : Nat) : RF := ⟨HUB_VF_BIND i, 3, 1⟩
def HUB_VF_BIND.REFUSED (i : Nat) : RF := ⟨HUB_VF_BIND i, 4, 1⟩
def HUB_VF_BIND.DB_REFUSED (i : Nat) : RF := ⟨HUB_VF_BIND i, 5, 1⟩
/-- HUB_VF_QMASK (R424). -/
def HUB_VF_QMASK (i : Nat) : Reg := ⟨0x808 + 0x10 * i, 0x0⟩
def HUB_VF_QMASK.MASK (i : Nat) : RF := ⟨HUB_VF_QMASK i, 0, 64⟩
/-- HUB_BOOT_STS (R435). -/
def HUB_BOOT_STS : Reg := ⟨0xC00, 0x0⟩
def HUB_BOOT_STS.STATE : RF := ⟨HUB_BOOT_STS, 0, 3⟩
def HUB_BOOT_STS.PHASE : RF := ⟨HUB_BOOT_STS, 3, 5⟩
def HUB_BOOT_STS.FALLBACK : RF := ⟨HUB_BOOT_STS, 8, 1⟩
def HUB_BOOT_STS.REASON : RF := ⟨HUB_BOOT_STS, 9, 3⟩
def HUB_BOOT_STS.ID_A_OK : RF := ⟨HUB_BOOT_STS, 12, 1⟩
def HUB_BOOT_STS.ID_B_OK : RF := ⟨HUB_BOOT_STS, 13, 1⟩
def HUB_BOOT_STS.READY_MS : RF := ⟨HUB_BOOT_STS, 14, 18⟩
def HUB_BOOT_STS.RESETS : RF := ⟨HUB_BOOT_STS, 32, 16⟩
/-- HUB_CFG_STS (R446). -/
def HUB_CFG_STS : Reg := ⟨0xC08, 0x0⟩
def HUB_CFG_STS.ACTIVE_VER : RF := ⟨HUB_CFG_STS, 0, 32⟩
def HUB_CFG_STS.PENDING_RESET : RF := ⟨HUB_CFG_STS, 32, 1⟩
def HUB_CFG_STS.GOOD : RF := ⟨HUB_CFG_STS, 33, 1⟩
def HUB_CFG_STS.HISTORY : RF := ⟨HUB_CFG_STS, 34, 4⟩
def HUB_CFG_STS.PART_GEN : RF := ⟨HUB_CFG_STS, 38, 16⟩
/-- HUB_PCIE_STS (R420). -/
def HUB_PCIE_STS : Reg := ⟨0xC10, 0x0⟩
def HUB_PCIE_STS.LINK_UP : RF := ⟨HUB_PCIE_STS, 0, 1⟩
def HUB_PCIE_STS.RATE : RF := ⟨HUB_PCIE_STS, 1, 3⟩
def HUB_PCIE_STS.WIDTH : RF := ⟨HUB_PCIE_STS, 4, 4⟩
def HUB_PCIE_STS.FLIT : RF := ⟨HUB_PCIE_STS, 8, 1⟩
def HUB_PCIE_STS.SLOW : RF := ⟨HUB_PCIE_STS, 9, 1⟩
def HUB_PCIE_STS.HUB : RF := ⟨HUB_PCIE_STS, 10, 1⟩
def HUB_PCIE_STS.RETRAINS : RF := ⟨HUB_PCIE_STS, 11, 16⟩
def HUB_PCIE_STS.DOWN_EV : RF := ⟨HUB_PCIE_STS, 27, 1⟩
/-- HUB_BAR4_BASE (R422). -/
def HUB_BAR4_BASE : Reg := ⟨0xC18, 0x31000000000⟩
def HUB_BAR4_BASE.BASE : RF := ⟨HUB_BAR4_BASE, 0, 48⟩
/-- HUB_RST_CTL (R431). -/
def HUB_RST_CTL : Reg := ⟨0xC20, 0x0⟩
def HUB_RST_CTL.PERST_FULL : RF := ⟨HUB_RST_CTL, 0, 1⟩
/-- HUB_DEBUG_STS (R452). -/
def HUB_DEBUG_STS : Reg := ⟨0xC28, 0x0⟩
def HUB_DEBUG_STS.LEVEL : RF := ⟨HUB_DEBUG_STS, 0, 2⟩
def HUB_DEBUG_STS.KEYS_CLEARED : RF := ⟨HUB_DEBUG_STS, 2, 1⟩
def HUB_DEBUG_STS.UNLOCKS : RF := ⟨HUB_DEBUG_STS, 3, 16⟩
/-- HUB_MBX_WIN (R454). -/
def HUB_MBX_WIN : Reg := ⟨0xC30, 0x0⟩
def HUB_MBX_WIN.PAGE : RF := ⟨HUB_MBX_WIN, 0, 4⟩
/-- HUB_HCOPY_CFG (R427). -/
def HUB_HCOPY_CFG (i : Nat) : Reg := ⟨0x1000 + 0x20 * i, 0x0⟩
def HUB_HCOPY_CFG.FUNC (i : Nat) : RF := ⟨HUB_HCOPY_CFG i, 0, 7⟩
def HUB_HCOPY_CFG.BASIN (i : Nat) : RF := ⟨HUB_HCOPY_CFG i, 7, 3⟩
def HUB_HCOPY_CFG.ENABLE (i : Nat) : RF := ⟨HUB_HCOPY_CFG i, 10, 1⟩
def HUB_HCOPY_CFG.SIZE (i : Nat) : RF := ⟨HUB_HCOPY_CFG i, 11, 4⟩
def HUB_HCOPY_CFG.RESUME (i : Nat) : RF := ⟨HUB_HCOPY_CFG i, 15, 1⟩
/-- HUB_HCOPY_BASE (R427). -/
def HUB_HCOPY_BASE (i : Nat) : Reg := ⟨0x1008 + 0x20 * i, 0x0⟩
def HUB_HCOPY_BASE.BASE (i : Nat) : RF := ⟨HUB_HCOPY_BASE i, 0, 48⟩
/-- HUB_HCOPY_STS (R427). -/
def HUB_HCOPY_STS (i : Nat) : Reg := ⟨0x1010 + 0x20 * i, 0x0⟩
def HUB_HCOPY_STS.HEAD (i : Nat) : RF := ⟨HUB_HCOPY_STS i, 0, 16⟩
def HUB_HCOPY_STS.TAIL (i : Nat) : RF := ⟨HUB_HCOPY_STS i, 16, 16⟩
def HUB_HCOPY_STS.STATE (i : Nat) : RF := ⟨HUB_HCOPY_STS i, 32, 2⟩
def HUB_HCOPY_STS.LAST (i : Nat) : RF := ⟨HUB_HCOPY_STS i, 34, 3⟩
/-- HUB_EVT_ROUTE (R429). -/
def HUB_EVT_ROUTE (i : Nat) : Reg := ⟨0x2000 + 0x8 * i, 0x0⟩
def HUB_EVT_ROUTE.FUNC (i : Nat) : RF := ⟨HUB_EVT_ROUTE i, 0, 7⟩
def HUB_EVT_ROUTE.VECTOR (i : Nat) : RF := ⟨HUB_EVT_ROUTE i, 7, 11⟩
def HUB_EVT_ROUTE.ENABLE (i : Nat) : RF := ⟨HUB_EVT_ROUTE i, 18, 1⟩
def HUB_EVT_ROUTE.PENDING (i : Nat) : RF := ⟨HUB_EVT_ROUTE i, 19, 1⟩
def HUB_EVT_ROUTE.MERGED (i : Nat) : RF := ⟨HUB_EVT_ROUTE i, 20, 16⟩
/-- HUB_NOTIFY (R430). -/
def HUB_NOTIFY (i : Nat) : Reg := ⟨0x3000 + 0x8 * i, 0x0⟩
def HUB_NOTIFY.BASIN (i : Nat) : RF := ⟨HUB_NOTIFY i, 0, 3⟩
def HUB_NOTIFY.LATCH (i : Nat) : RF := ⟨HUB_NOTIFY i, 3, 13⟩
def HUB_NOTIFY.ARM (i : Nat) : RF := ⟨HUB_NOTIFY i, 16, 1⟩
/-- HUB_MBX_CMD (R454). -/
def HUB_MBX_CMD : Reg := ⟨0x10000, 0x0⟩
def HUB_MBX_CMD.OPCODE : RF := ⟨HUB_MBX_CMD, 0, 16⟩
def HUB_MBX_CMD.TAG : RF := ⟨HUB_MBX_CMD, 16, 16⟩
def HUB_MBX_CMD.LEN : RF := ⟨HUB_MBX_CMD, 32, 32⟩
/-- HUB_MBX_STS (R454). -/
def HUB_MBX_STS : Reg := ⟨0x10008, 0x0⟩
def HUB_MBX_STS.BUSY : RF := ⟨HUB_MBX_STS, 0, 1⟩
def HUB_MBX_STS.DONE : RF := ⟨HUB_MBX_STS, 1, 1⟩
def HUB_MBX_STS.RESULT : RF := ⟨HUB_MBX_STS, 2, 4⟩
def HUB_MBX_STS.UNTESTED : RF := ⟨HUB_MBX_STS, 6, 1⟩
def HUB_MBX_STS.TAG : RF := ⟨HUB_MBX_STS, 16, 16⟩
def HUB_MBX_STS.RLEN : RF := ⟨HUB_MBX_STS, 32, 32⟩
/-- ASY_SNAP_ALL (R462). -/
def ASY_SNAP_ALL : Reg := ⟨0x20000 + 0x0, 0x0⟩
def ASY_SNAP_ALL.TAKE : RF := ⟨ASY_SNAP_ALL, 0, 1⟩
def ASY_SNAP_ALL.RELEASE : RF := ⟨ASY_SNAP_ALL, 1, 1⟩
/-- ASY_CTR_EV (R460). -/
def ASY_CTR_EV : Reg := ⟨0x20000 + 0x10, 0x0⟩
def ASY_CTR_EV.OFFSET : RF := ⟨ASY_CTR_EV, 0, 26⟩
def ASY_CTR_EV.KIND : RF := ⟨ASY_CTR_EV, 26, 1⟩
def ASY_CTR_EV.VALID : RF := ⟨ASY_CTR_EV, 63, 1⟩
/-- ASY_RISK (R376). -/
def ASY_RISK : Reg := ⟨0x20000 + 0x100, 0x1000080000000⟩
def ASY_RISK.SCORE : RF := ⟨ASY_RISK, 0, 16⟩
def ASY_RISK.LEVEL : RF := ⟨ASY_RISK, 16, 2⟩
def ASY_RISK.WATCH : RF := ⟨ASY_RISK, 18, 16⟩
def ASY_RISK.SECURE : RF := ⟨ASY_RISK, 34, 16⟩
def ASY_RISK.EXPOSED : RF := ⟨ASY_RISK, 50, 1⟩
def ASY_RISK.LEVEL_EV : RF := ⟨ASY_RISK, 51, 1⟩
/-- ASY_REPLICA (R378). -/
def ASY_REPLICA : Reg := ⟨0x20000 + 0x108, 0x20003FC0000⟩
def ASY_REPLICA.PARTNER : RF := ⟨ASY_REPLICA, 0, 18⟩
def ASY_REPLICA.FEED : RF := ⟨ASY_REPLICA, 18, 8⟩
def ASY_REPLICA.PFEED : RF := ⟨ASY_REPLICA, 26, 8⟩
def ASY_REPLICA.ENABLE : RF := ⟨ASY_REPLICA, 34, 1⟩
def ASY_REPLICA.REFUSED : RF := ⟨ASY_REPLICA, 35, 1⟩
def ASY_REPLICA.SHARE : RF := ⟨ASY_REPLICA, 36, 8⟩
def ASY_REPLICA.FLOOR : RF := ⟨ASY_REPLICA, 44, 16⟩
/-- ASY_ROUTE (R388). -/
def ASY_ROUTE (i : Nat) : Reg := ⟨0x20000 + 0x140 + 0x8 * i, 0x0⟩
def ASY_ROUTE.RELAY (i : Nat) : RF := ⟨ASY_ROUTE i, 0, 18⟩
def ASY_ROUTE.DIRECT (i : Nat) : RF := ⟨ASY_ROUTE i, 18, 1⟩
def ASY_ROUTE.VALID (i : Nat) : RF := ⟨ASY_ROUTE i, 19, 1⟩
/-- ASY_RISK_TERM (R464). -/
def ASY_RISK_TERM (i : Nat) : Reg := ⟨0x20000 + 0x180 + 0x8 * i, 0x0⟩
def ASY_RISK_TERM.POINTS (i : Nat) : RF := ⟨ASY_RISK_TERM i, 0, 16⟩
def ASY_RISK_TERM.RAW (i : Nat) : RF := ⟨ASY_RISK_TERM i, 16, 16⟩
/-- ASY_RISK_W (R464). -/
def ASY_RISK_W (i : Nat) : Reg := ⟨0x20000 + 0x1C0 + 0x8 * i, 0x10⟩
def ASY_RISK_W.W (i : Nat) : RF := ⟨ASY_RISK_W i, 0, 8⟩
/-- ASY_WEAR (R466). -/
def ASY_WEAR (i : Nat) : Reg := ⟨0x20000 + 0x300 + 0x8 * i, 0xFFFFFFFF⟩
def ASY_WEAR.DAYS (i : Nat) : RF := ⟨ASY_WEAR i, 0, 16⟩
def ASY_WEAR.LOW90 (i : Nat) : RF := ⟨ASY_WEAR i, 16, 16⟩
def ASY_WEAR.UNIT (i : Nat) : RF := ⟨ASY_WEAR i, 32, 16⟩
def ASY_WEAR.SAMPLES (i : Nat) : RF := ⟨ASY_WEAR i, 48, 8⟩
/-- ASY_WEAR_CTL (R466). -/
def ASY_WEAR_CTL : Reg := ⟨0x20000 + 0x340, 0x1E⟩
def ASY_WEAR_CTL.HORIZON : RF := ⟨ASY_WEAR_CTL, 0, 16⟩
/-- ASY_NF_SEL (R467). -/
def ASY_NF_SEL : Reg := ⟨0x20000 + 0x400, 0x0⟩
def ASY_NF_SEL.BASIN : RF := ⟨ASY_NF_SEL, 0, 3⟩
def ASY_NF_SEL.SLOT : RF := ⟨ASY_NF_SEL, 3, 10⟩
/-- ASY_NF_DATA (R467). -/
def ASY_NF_DATA : Reg := ⟨0x20000 + 0x408, 0x0⟩
def ASY_NF_DATA.COUNT : RF := ⟨ASY_NF_DATA, 0, 48⟩
def ASY_NF_DATA.SAT : RF := ⟨ASY_NF_DATA, 63, 1⟩
/-- ASY_NF_SUM (R467). -/
def ASY_NF_SUM (i : Nat) : Reg := ⟨0x20000 + 0x440 + 0x8 * i, 0x0⟩
def ASY_NF_SUM.TOP_SLOT (i : Nat) : RF := ⟨ASY_NF_SUM i, 0, 10⟩
def ASY_NF_SUM.TOP_GROWTH (i : Nat) : RF := ⟨ASY_NF_SUM i, 10, 22⟩
def ASY_NF_SUM.SLOTS (i : Nat) : RF := ⟨ASY_NF_SUM i, 32, 10⟩
def ASY_NF_SUM.SPIKES (i : Nat) : RF := ⟨ASY_NF_SUM i, 42, 16⟩
/-- PWR_CAP (R410). -/
def PWR_CAP : Reg := ⟨0x30000 + 0x0, 0x4960⟩
def PWR_CAP.CAP_W : RF := ⟨PWR_CAP, 0, 12⟩
def PWR_CAP.WINDOW : RF := ⟨PWR_CAP, 12, 4⟩
def PWR_CAP.BOOST : RF := ⟨PWR_CAP, 16, 1⟩
/-- PWR_STS (R410). -/
def PWR_STS : Reg := ⟨0x30000 + 0x8, 0x0⟩
def PWR_STS.AVG_W : RF := ⟨PWR_STS, 0, 12⟩
def PWR_STS.LAST_W : RF := ⟨PWR_STS, 12, 12⟩
def PWR_STS.PEAK_W : RF := ⟨PWR_STS, 24, 12⟩
def PWR_STS.LIMITED : RF := ⟨PWR_STS, 36, 1⟩
/-- PWR_GRANT (R411). -/
def PWR_GRANT (i : Nat) : Reg := ⟨0x30000 + 0x100 + 0x8 * i, 0x40000200013E⟩
def PWR_GRANT.GRANT (i : Nat) : RF := ⟨PWR_GRANT i, 0, 12⟩
def PWR_GRANT.MIN (i : Nat) : RF := ⟨PWR_GRANT i, 12, 12⟩
def PWR_GRANT.DEBT_PCT (i : Nat) : RF := ⟨PWR_GRANT i, 24, 4⟩
def PWR_GRANT.AVG (i : Nat) : RF := ⟨PWR_GRANT i, 28, 12⟩
def PWR_GRANT.LEVEL (i : Nat) : RF := ⟨PWR_GRANT i, 40, 7⟩
def PWR_GRANT.WHOLE_WAIT (i : Nat) : RF := ⟨PWR_GRANT i, 47, 1⟩
/-- PWR_SLACK (R412). -/
def PWR_SLACK : Reg := ⟨0x30000 + 0x200, 0x7000000000000⟩
def PWR_SLACK.SLACK : RF := ⟨PWR_SLACK, 0, 24⟩
def PWR_SLACK.STEP_TICKS : RF := ⟨PWR_SLACK, 24, 24⟩
def PWR_SLACK.BASIN : RF := ⟨PWR_SLACK, 48, 3⟩
/-- PWR_DIE_STS (R413). -/
def PWR_DIE_STS (i : Nat) : Reg := ⟨0x30000 + 0x400 + 0x8 * i, 0x7C040⟩
def PWR_DIE_STS.LEVEL (i : Nat) : RF := ⟨PWR_DIE_STS i, 0, 7⟩
def PWR_DIE_STS.CAUSE (i : Nat) : RF := ⟨PWR_DIE_STS i, 7, 3⟩
def PWR_DIE_STS.FREQ (i : Nat) : RF := ⟨PWR_DIE_STS i, 10, 4⟩
def PWR_DIE_STS.PLL_ON (i : Nat) : RF := ⟨PWR_DIE_STS i, 14, 5⟩
def PWR_DIE_STS.DROOP_EV (i : Nat) : RF := ⟨PWR_DIE_STS i, 19, 1⟩
/-- PWR_DROOP (R414). -/
def PWR_DROOP (i : Nat) : Reg := ⟨0x30000 + 0x500 + 0x8 * i, 0x0⟩
def PWR_DROOP.COUNT (i : Nat) : RF := ⟨PWR_DROOP i, 0, 48⟩
def PWR_DROOP.SAT (i : Nat) : RF := ⟨PWR_DROOP i, 63, 1⟩
/-- TMP_CTL (R415). -/
def TMP_CTL : Reg := ⟨0x40000 + 0x0, 0x50BEBEC8CA40FA⟩
def TMP_CTL.PRED_H : RF := ⟨TMP_CTL, 0, 10⟩
def TMP_CTL.CLAMP_LVL : RF := ⟨TMP_CTL, 10, 7⟩
def TMP_CTL.RELEASE : RF := ⟨TMP_CTL, 17, 8⟩
def TMP_CTL.TARGET : RF := ⟨TMP_CTL, 25, 8⟩
def TMP_CTL.BOOST_T : RF := ⟨TMP_CTL, 33, 8⟩
def TMP_CTL.HBM_TARGET : RF := ⟨TMP_CTL, 41, 8⟩
def TMP_CTL.DROOP_MV : RF := ⟨TMP_CTL, 49, 7⟩
/-- TMP_DIE (R416). -/
def TMP_DIE (i : Nat) : Reg := ⟨0x40000 + 0x100 + 0x8 * i, 0x0⟩
def TMP_DIE.TMAX (i : Nat) : RF := ⟨TMP_DIE i, 0, 11⟩
def TMP_DIE.SENSOR (i : Nat) : RF := ⟨TMP_DIE i, 11, 6⟩
def TMP_DIE.SLOPE (i : Nat) : RF := ⟨TMP_DIE i, 17, 12⟩
def TMP_DIE.CLAMP (i : Nat) : RF := ⟨TMP_DIE i, 29, 1⟩
def TMP_DIE.CLAMP_EV (i : Nat) : RF := ⟨TMP_DIE i, 30, 1⟩
def TMP_DIE.TRIP (i : Nat) : RF := ⟨TMP_DIE i, 31, 1⟩
/-- TMP_HBM (R416). -/
def TMP_HBM (i : Nat) : Reg := ⟨0x40000 + 0x200 + 0x8 * i, 0x0⟩
def TMP_HBM.TEMP (i : Nat) : RF := ⟨TMP_HBM i, 0, 11⟩
def TMP_HBM.LIMITING (i : Nat) : RF := ⟨TMP_HBM i, 11, 1⟩
/-- FAB_SHAPE (R333). -/
def FAB_SHAPE : Reg := ⟨0x50000 + 0x0, 0x0⟩
def FAB_SHAPE.LX : RF := ⟨FAB_SHAPE, 0, 6⟩
def FAB_SHAPE.LY : RF := ⟨FAB_SHAPE, 6, 6⟩
def FAB_SHAPE.LZ : RF := ⟨FAB_SHAPE, 12, 6⟩
def FAB_SHAPE.EX : RF := ⟨FAB_SHAPE, 18, 6⟩
def FAB_SHAPE.EY : RF := ⟨FAB_SHAPE, 24, 6⟩
def FAB_SHAPE.EZ : RF := ⟨FAB_SHAPE, 30, 6⟩
def FAB_SHAPE.WX : RF := ⟨FAB_SHAPE, 36, 1⟩
def FAB_SHAPE.WY : RF := ⟨FAB_SHAPE, 37, 1⟩
def FAB_SHAPE.WZ : RF := ⟨FAB_SHAPE, 38, 1⟩
/-- FAB_PHYS (R341). -/
def FAB_PHYS : Reg := ⟨0x50000 + 0x8, 0x0⟩
def FAB_PHYS.PX : RF := ⟨FAB_PHYS, 0, 6⟩
def FAB_PHYS.PY : RF := ⟨FAB_PHYS, 6, 6⟩
def FAB_PHYS.PZ : RF := ⟨FAB_PHYS, 12, 6⟩
def FAB_PHYS.DX : RF := ⟨FAB_PHYS, 18, 6⟩
def FAB_PHYS.DY : RF := ⟨FAB_PHYS, 24, 6⟩
def FAB_PHYS.DZ : RF := ⟨FAB_PHYS, 30, 6⟩
def FAB_PHYS.MWX : RF := ⟨FAB_PHYS, 36, 1⟩
def FAB_PHYS.MWY : RF := ⟨FAB_PHYS, 37, 1⟩
def FAB_PHYS.MWZ : RF := ⟨FAB_PHYS, 38, 1⟩
def FAB_PHYS.COMPAT : RF := ⟨FAB_PHYS, 39, 1⟩
def FAB_PHYS.PEER_BAD : RF := ⟨FAB_PHYS, 40, 8⟩
/-- FAB_DIR (R334). -/
def FAB_DIR (d : Nat) : Reg := ⟨0x50000 + 0x10 + 0x8 * d, 0x0 + d⟩
def FAB_DIR.PORT (d : Nat) : RF := ⟨FAB_DIR d, 0, 3⟩
def FAB_DIR.VALID (d : Nat) : RF := ⟨FAB_DIR d, 3, 1⟩
def FAB_DIR.DETOUR (d : Nat) : RF := ⟨FAB_DIR d, 4, 1⟩
def FAB_DIR.GEN (d : Nat) : RF := ⟨FAB_DIR d, 48, 16⟩
/-- FAB_POOL (R335). -/
def FAB_POOL : Reg := ⟨0x50000 + 0x40, 0x2403A04⟩
def FAB_POOL.U : RF := ⟨FAB_POOL, 0, 8⟩
def FAB_POOL.B : RF := ⟨FAB_POOL, 8, 8⟩
def FAB_POOL.C : RF := ⟨FAB_POOL, 16, 8⟩
def FAB_POOL.M : RF := ⟨FAB_POOL, 24, 8⟩
/-- FAB_ACK_CTL (R335). -/
def FAB_ACK_CTL : Reg := ⟨0x50000 + 0x48, 0x28⟩
def FAB_ACK_CTL.TIMEOUT : RF := ⟨FAB_ACK_CTL, 0, 16⟩
/-- FAB_RELOC (R352). -/
def FAB_RELOC (i : Nat) : Reg := ⟨0x50000 + 0x50 + 0x8 * i, 0x0⟩
def FAB_RELOC.FROM (i : Nat) : RF := ⟨FAB_RELOC i, 0, 18⟩
def FAB_RELOC.TO (i : Nat) : RF := ⟨FAB_RELOC i, 18, 18⟩
def FAB_RELOC.VALID (i : Nat) : RF := ⟨FAB_RELOC i, 36, 1⟩
def FAB_RELOC.GEN (i : Nat) : RF := ⟨FAB_RELOC i, 48, 16⟩
/-- FAB_HOLE (R352). -/
def FAB_HOLE (i : Nat) : Reg := ⟨0x50000 + 0x90 + 0x8 * i, 0x0⟩
def FAB_HOLE.COORD (i : Nat) : RF := ⟨FAB_HOLE i, 0, 18⟩
def FAB_HOLE.VALID (i : Nat) : RF := ⟨FAB_HOLE i, 18, 1⟩
def FAB_HOLE.GEN (i : Nat) : RF := ⟨FAB_HOLE i, 48, 16⟩
/-- FAB_APPL (R355). -/
def FAB_APPL (i : Nat) : Reg := ⟨0x50000 + 0xB0 + 0x8 * i, 0x0⟩
def FAB_APPL.ACOORD (i : Nat) : RF := ⟨FAB_APPL i, 0, 18⟩
def FAB_APPL.HOSTC (i : Nat) : RF := ⟨FAB_APPL i, 18, 18⟩
def FAB_APPL.PORT (i : Nat) : RF := ⟨FAB_APPL i, 36, 1⟩
def FAB_APPL.VALID (i : Nat) : RF := ⟨FAB_APPL i, 37, 1⟩
/-- FAB_REPLAYS (R336). -/
def FAB_REPLAYS (i : Nat) : Reg := ⟨0x50000 + 0x100 + 0x8 * i, 0x0⟩
def FAB_REPLAYS.COUNT (i : Nat) : RF := ⟨FAB_REPLAYS i, 0, 48⟩
def FAB_REPLAYS.SAT (i : Nat) : RF := ⟨FAB_REPLAYS i, 63, 1⟩
/-- FAB_STOMPED (R336). -/
def FAB_STOMPED : Reg := ⟨0x50000 + 0x140, 0x0⟩
def FAB_STOMPED.COUNT : RF := ⟨FAB_STOMPED, 0, 48⟩
def FAB_STOMPED.SAT : RF := ⟨FAB_STOMPED, 63, 1⟩
/-- FAB_BADPKT (R336). -/
def FAB_BADPKT : Reg := ⟨0x50000 + 0x148, 0x0⟩
def FAB_BADPKT.COUNT : RF := ⟨FAB_BADPKT, 0, 48⟩
def FAB_BADPKT.SAT : RF := ⟨FAB_BADPKT, 63, 1⟩
/-- FAB_TXVOL (R459). -/
def FAB_TXVOL (i : Nat) : Reg := ⟨0x50000 + 0x200 + 0x20 * i, 0x0⟩
def FAB_TXVOL.COUNT (i : Nat) : RF := ⟨FAB_TXVOL i, 0, 64⟩
/-- FAB_TXVOLE (R459). -/
def FAB_TXVOLE (i : Nat) : Reg := ⟨0x50000 + 0x208 + 0x20 * i, 0x0⟩
def FAB_TXVOLE.EPOCH (i : Nat) : RF := ⟨FAB_TXVOLE i, 0, 8⟩
def FAB_TXVOLE.CLEAR (i : Nat) : RF := ⟨FAB_TXVOLE i, 8, 1⟩
/-- FAB_RXVOL (R459). -/
def FAB_RXVOL (i : Nat) : Reg := ⟨0x50000 + 0x210 + 0x20 * i, 0x0⟩
def FAB_RXVOL.COUNT (i : Nat) : RF := ⟨FAB_RXVOL i, 0, 64⟩
/-- FAB_RXVOLE (R459). -/
def FAB_RXVOLE (i : Nat) : Reg := ⟨0x50000 + 0x218 + 0x20 * i, 0x0⟩
def FAB_RXVOLE.EPOCH (i : Nat) : RF := ⟨FAB_RXVOLE i, 0, 8⟩
def FAB_RXVOLE.CLEAR (i : Nat) : RF := ⟨FAB_RXVOLE i, 8, 1⟩
/-- SLC_MAP (R305). -/
def SLC_MAP : Reg := ⟨0x60000 + 0x0, 0x67452301⟩
def SLC_MAP.P0 : RF := ⟨SLC_MAP, 0, 4⟩
def SLC_MAP.P1 : RF := ⟨SLC_MAP, 4, 4⟩
def SLC_MAP.P2 : RF := ⟨SLC_MAP, 8, 4⟩
def SLC_MAP.P3 : RF := ⟨SLC_MAP, 12, 4⟩
def SLC_MAP.P4 : RF := ⟨SLC_MAP, 16, 4⟩
def SLC_MAP.P5 : RF := ⟨SLC_MAP, 20, 4⟩
def SLC_MAP.P6 : RF := ⟨SLC_MAP, 24, 4⟩
def SLC_MAP.P7 : RF := ⟨SLC_MAP, 28, 4⟩
def SLC_MAP.GEN : RF := ⟨SLC_MAP, 32, 16⟩
/-- SLC_MAP_NEXT (R305). -/
def SLC_MAP_NEXT : Reg := ⟨0x60000 + 0x8, 0x67452301⟩
def SLC_MAP_NEXT.P0 : RF := ⟨SLC_MAP_NEXT, 0, 4⟩
def SLC_MAP_NEXT.P1 : RF := ⟨SLC_MAP_NEXT, 4, 4⟩
def SLC_MAP_NEXT.P2 : RF := ⟨SLC_MAP_NEXT, 8, 4⟩
def SLC_MAP_NEXT.P3 : RF := ⟨SLC_MAP_NEXT, 12, 4⟩
def SLC_MAP_NEXT.P4 : RF := ⟨SLC_MAP_NEXT, 16, 4⟩
def SLC_MAP_NEXT.P5 : RF := ⟨SLC_MAP_NEXT, 20, 4⟩
def SLC_MAP_NEXT.P6 : RF := ⟨SLC_MAP_NEXT, 24, 4⟩
def SLC_MAP_NEXT.P7 : RF := ⟨SLC_MAP_NEXT, 28, 4⟩
/-- SLC_CTL (R306). -/
def SLC_CTL : Reg := ⟨0x60000 + 0x10, 0x200⟩
def SLC_CTL.APPLY : RF := ⟨SLC_CTL, 0, 1⟩
def SLC_CTL.BAR : RF := ⟨SLC_CTL, 1, 1⟩
def SLC_CTL.BOOT_HOLD : RF := ⟨SLC_CTL, 2, 1⟩
def SLC_CTL.LEAD : RF := ⟨SLC_CTL, 8, 8⟩
/-- SLC_STS (R306). -/
def SLC_STS : Reg := ⟨0x60000 + 0x18, 0x0⟩
def SLC_STS.BUSY : RF := ⟨SLC_STS, 0, 1⟩
def SLC_STS.RESULT : RF := ⟨SLC_STS, 1, 2⟩
def SLC_STS.OVERRUN : RF := ⟨SLC_STS, 3, 1⟩
def SLC_STS.APPLIES : RF := ⟨SLC_STS, 4, 16⟩
def SLC_STS.LOST : RF := ⟨SLC_STS, 20, 4⟩
/-- FNT_PORT_CTL (R297). -/
def FNT_PORT_CTL (d p : Nat) : Reg := ⟨fntBase d + 0x100 + 0x800 * p, 0x4320F01⟩
def FNT_PORT_CTL.ENABLE (d p : Nat) : RF := ⟨FNT_PORT_CTL d p, 0, 1⟩
def FNT_PORT_CTL.FEC (d p : Nat) : RF := ⟨FNT_PORT_CTL d p, 1, 1⟩
def FNT_PORT_CTL.RETRAIN (d p : Nat) : RF := ⟨FNT_PORT_CTL d p, 2, 1⟩
def FNT_PORT_CTL.LOOP (d p : Nat) : RF := ⟨FNT_PORT_CTL d p, 3, 1⟩
def FNT_PORT_CTL.HOLD_SPARE (d p : Nat) : RF := ⟨FNT_PORT_CTL d p, 4, 1⟩
def FNT_PORT_CTL.SWAP_DB (d p : Nat) : RF := ⟨FNT_PORT_CTL d p, 8, 8⟩
def FNT_PORT_CTL.SWAP_BER (d p : Nat) : RF := ⟨FNT_PORT_CTL d p, 16, 16⟩
def FNT_PORT_CTL.REMAP_LANE (d p : Nat) : RF := ⟨FNT_PORT_CTL d p, 32, 4⟩
def FNT_PORT_CTL.REMAP_GO (d p : Nat) : RF := ⟨FNT_PORT_CTL d p, 36, 1⟩
def FNT_PORT_CTL.RETURN_W (d p : Nat) : RF := ⟨FNT_PORT_CTL d p, 37, 5⟩
def FNT_PORT_CTL.RETURN_GO (d p : Nat) : RF := ⟨FNT_PORT_CTL d p, 42, 1⟩
/-- FNT_PORT_STS (R299). -/
def FNT_PORT_STS (d p : Nat) : Reg := ⟨fntBase d + 0x108 + 0x800 * p, 0x0⟩
def FNT_PORT_STS.STATE (d p : Nat) : RF := ⟨FNT_PORT_STS d p, 0, 3⟩
def FNT_PORT_STS.FEC_ACT (d p : Nat) : RF := ⟨FNT_PORT_STS d p, 3, 1⟩
def FNT_PORT_STS.SPARES_TX (d p : Nat) : RF := ⟨FNT_PORT_STS d p, 4, 2⟩
def FNT_PORT_STS.SPARES_RX (d p : Nat) : RF := ⟨FNT_PORT_STS d p, 6, 2⟩
def FNT_PORT_STS.REMAP_BUSY (d p : Nat) : RF := ⟨FNT_PORT_STS d p, 8, 1⟩
def FNT_PORT_STS.LOS_EV (d p : Nat) : RF := ⟨FNT_PORT_STS d p, 9, 1⟩
def FNT_PORT_STS.LANE_EV (d p : Nat) : RF := ⟨FNT_PORT_STS d p, 10, 1⟩
def FNT_PORT_STS.LOW_MARGIN (d p : Nat) : RF := ⟨FNT_PORT_STS d p, 11, 1⟩
def FNT_PORT_STS.DARK_SEEN (d p : Nat) : RF := ⟨FNT_PORT_STS d p, 12, 1⟩
def FNT_PORT_STS.DARK_CAUSE (d p : Nat) : RF := ⟨FNT_PORT_STS d p, 13, 3⟩
def FNT_PORT_STS.PEER (d p : Nat) : RF := ⟨FNT_PORT_STS d p, 16, 18⟩
def FNT_PORT_STS.PEER_PORT (d p : Nat) : RF := ⟨FNT_PORT_STS d p, 34, 3⟩
def FNT_PORT_STS.RTT (d p : Nat) : RF := ⟨FNT_PORT_STS d p, 37, 16⟩
/-- FNT_TX_MAP0 (R300). -/
def FNT_TX_MAP0 (d p : Nat) : Reg := ⟨fntBase d + 0x110 + 0x800 * p, 0x398A418820⟩
def FNT_TX_MAP0.LANE0 (d p : Nat) : RF := ⟨FNT_TX_MAP0 d p, 0, 5⟩
def FNT_TX_MAP0.LANE1 (d p : Nat) : RF := ⟨FNT_TX_MAP0 d p, 5, 5⟩
def FNT_TX_MAP0.LANE2 (d p : Nat) : RF := ⟨FNT_TX_MAP0 d p, 10, 5⟩
def FNT_TX_MAP0.LANE3 (d p : Nat) : RF := ⟨FNT_TX_MAP0 d p, 15, 5⟩
def FNT_TX_MAP0.LANE4 (d p : Nat) : RF := ⟨FNT_TX_MAP0 d p, 20, 5⟩
def FNT_TX_MAP0.LANE5 (d p : Nat) : RF := ⟨FNT_TX_MAP0 d p, 25, 5⟩
def FNT_TX_MAP0.LANE6 (d p : Nat) : RF := ⟨FNT_TX_MAP0 d p, 30, 5⟩
def FNT_TX_MAP0.LANE7 (d p : Nat) : RF := ⟨FNT_TX_MAP0 d p, 35, 5⟩
def FNT_TX_MAP0.GEN (d p : Nat) : RF := ⟨FNT_TX_MAP0 d p, 48, 16⟩
/-- FNT_TX_MAP1 (R300). -/
def FNT_TX_MAP1 (d p : Nat) : Reg := ⟨fntBase d + 0x118 + 0x800 * p, 0x7B9AC5A928⟩
def FNT_TX_MAP1.LANE0 (d p : Nat) : RF := ⟨FNT_TX_MAP1 d p, 0, 5⟩
def FNT_TX_MAP1.LANE1 (d p : Nat) : RF := ⟨FNT_TX_MAP1 d p, 5, 5⟩
def FNT_TX_MAP1.LANE2 (d p : Nat) : RF := ⟨FNT_TX_MAP1 d p, 10, 5⟩
def FNT_TX_MAP1.LANE3 (d p : Nat) : RF := ⟨FNT_TX_MAP1 d p, 15, 5⟩
def FNT_TX_MAP1.LANE4 (d p : Nat) : RF := ⟨FNT_TX_MAP1 d p, 20, 5⟩
def FNT_TX_MAP1.LANE5 (d p : Nat) : RF := ⟨FNT_TX_MAP1 d p, 25, 5⟩
def FNT_TX_MAP1.LANE6 (d p : Nat) : RF := ⟨FNT_TX_MAP1 d p, 30, 5⟩
def FNT_TX_MAP1.LANE7 (d p : Nat) : RF := ⟨FNT_TX_MAP1 d p, 35, 5⟩
def FNT_TX_MAP1.GEN (d p : Nat) : RF := ⟨FNT_TX_MAP1 d p, 48, 16⟩
/-- FNT_RX_MAP0 (R300). -/
def FNT_RX_MAP0 (d p : Nat) : Reg := ⟨fntBase d + 0x120 + 0x800 * p, 0x398A418820⟩
def FNT_RX_MAP0.LANE0 (d p : Nat) : RF := ⟨FNT_RX_MAP0 d p, 0, 5⟩
def FNT_RX_MAP0.LANE1 (d p : Nat) : RF := ⟨FNT_RX_MAP0 d p, 5, 5⟩
def FNT_RX_MAP0.LANE2 (d p : Nat) : RF := ⟨FNT_RX_MAP0 d p, 10, 5⟩
def FNT_RX_MAP0.LANE3 (d p : Nat) : RF := ⟨FNT_RX_MAP0 d p, 15, 5⟩
def FNT_RX_MAP0.LANE4 (d p : Nat) : RF := ⟨FNT_RX_MAP0 d p, 20, 5⟩
def FNT_RX_MAP0.LANE5 (d p : Nat) : RF := ⟨FNT_RX_MAP0 d p, 25, 5⟩
def FNT_RX_MAP0.LANE6 (d p : Nat) : RF := ⟨FNT_RX_MAP0 d p, 30, 5⟩
def FNT_RX_MAP0.LANE7 (d p : Nat) : RF := ⟨FNT_RX_MAP0 d p, 35, 5⟩
def FNT_RX_MAP0.GEN (d p : Nat) : RF := ⟨FNT_RX_MAP0 d p, 48, 16⟩
/-- FNT_RX_MAP1 (R300). -/
def FNT_RX_MAP1 (d p : Nat) : Reg := ⟨fntBase d + 0x128 + 0x800 * p, 0x7B9AC5A928⟩
def FNT_RX_MAP1.LANE0 (d p : Nat) : RF := ⟨FNT_RX_MAP1 d p, 0, 5⟩
def FNT_RX_MAP1.LANE1 (d p : Nat) : RF := ⟨FNT_RX_MAP1 d p, 5, 5⟩
def FNT_RX_MAP1.LANE2 (d p : Nat) : RF := ⟨FNT_RX_MAP1 d p, 10, 5⟩
def FNT_RX_MAP1.LANE3 (d p : Nat) : RF := ⟨FNT_RX_MAP1 d p, 15, 5⟩
def FNT_RX_MAP1.LANE4 (d p : Nat) : RF := ⟨FNT_RX_MAP1 d p, 20, 5⟩
def FNT_RX_MAP1.LANE5 (d p : Nat) : RF := ⟨FNT_RX_MAP1 d p, 25, 5⟩
def FNT_RX_MAP1.LANE6 (d p : Nat) : RF := ⟨FNT_RX_MAP1 d p, 30, 5⟩
def FNT_RX_MAP1.LANE7 (d p : Nat) : RF := ⟨FNT_RX_MAP1 d p, 35, 5⟩
def FNT_RX_MAP1.GEN (d p : Nat) : RF := ⟨FNT_RX_MAP1 d p, 48, 16⟩
/-- FNT_LANE_BER (R301). -/
def FNT_LANE_BER (d p j : Nat) : Reg := ⟨fntBase d + 0x130 + 0x800 * p + 0x8 * j, 0x0⟩
def FNT_LANE_BER.BER0 (d p j : Nat) : RF := ⟨FNT_LANE_BER d p j, 0, 16⟩
def FNT_LANE_BER.BER1 (d p j : Nat) : RF := ⟨FNT_LANE_BER d p j, 16, 16⟩
def FNT_LANE_BER.BER2 (d p j : Nat) : RF := ⟨FNT_LANE_BER d p j, 32, 16⟩
def FNT_LANE_BER.BER3 (d p j : Nat) : RF := ⟨FNT_LANE_BER d p j, 48, 16⟩
/-- FNT_FEC_CORR (R302). -/
def FNT_FEC_CORR (d p : Nat) : Reg := ⟨fntBase d + 0x150 + 0x800 * p, 0x0⟩
def FNT_FEC_CORR.COUNT (d p : Nat) : RF := ⟨FNT_FEC_CORR d p, 0, 48⟩
def FNT_FEC_CORR.SAT (d p : Nat) : RF := ⟨FNT_FEC_CORR d p, 63, 1⟩
/-- FNT_FEC_UNCORR (R302). -/
def FNT_FEC_UNCORR (d p : Nat) : Reg := ⟨fntBase d + 0x158 + 0x800 * p, 0x0⟩
def FNT_FEC_UNCORR.COUNT (d p : Nat) : RF := ⟨FNT_FEC_UNCORR d p, 0, 48⟩
def FNT_FEC_UNCORR.SAT (d p : Nat) : RF := ⟨FNT_FEC_UNCORR d p, 63, 1⟩
/-- FNT_REMAPS (R302). -/
def FNT_REMAPS (d p : Nat) : Reg := ⟨fntBase d + 0x160 + 0x800 * p, 0x0⟩
def FNT_REMAPS.COUNT (d p : Nat) : RF := ⟨FNT_REMAPS d p, 0, 48⟩
def FNT_REMAPS.SAT (d p : Nat) : RF := ⟨FNT_REMAPS d p, 63, 1⟩
/-- FNT_LOS (R302). -/
def FNT_LOS (d p : Nat) : Reg := ⟨fntBase d + 0x168 + 0x800 * p, 0x0⟩
def FNT_LOS.COUNT (d p : Nat) : RF := ⟨FNT_LOS d p, 0, 48⟩
def FNT_LOS.SAT (d p : Nat) : RF := ⟨FNT_LOS d p, 63, 1⟩
/-- FNT_LASER (R303). -/
def FNT_LASER (d p w : Nat) : Reg := ⟨fntBase d + 0x200 + 0x800 * p + 0x8 * w, 0x0 + laserRst w⟩
def FNT_LASER.STATE (d p w : Nat) : RF := ⟨FNT_LASER d p w, 0, 3⟩
def FNT_LASER.LANE (d p w : Nat) : RF := ⟨FNT_LASER d p w, 3, 5⟩
def FNT_LASER.POWER (d p w : Nat) : RF := ⟨FNT_LASER d p w, 8, 12⟩
def FNT_LASER.FADE (d p w : Nat) : RF := ⟨FNT_LASER d p w, 20, 12⟩
def FNT_LASER.BIAS (d p w : Nat) : RF := ⟨FNT_LASER d p w, 32, 10⟩
def FNT_LASER.HEADROOM (d p w : Nat) : RF := ⟨FNT_LASER d p w, 42, 8⟩
/-- FNT_WEIR_CMD (R304). -/
def FNT_WEIR_CMD (d p : Nat) : Reg := ⟨fntBase d + 0x300 + 0x800 * p, 0x0⟩
def FNT_WEIR_CMD.KIND (d p : Nat) : RF := ⟨FNT_WEIR_CMD d p, 0, 3⟩
def FNT_WEIR_CMD.W (d p : Nat) : RF := ⟨FNT_WEIR_CMD d p, 3, 5⟩
def FNT_WEIR_CMD.V (d p : Nat) : RF := ⟨FNT_WEIR_CMD d p, 8, 5⟩
def FNT_WEIR_CMD.INTEG (d p : Nat) : RF := ⟨FNT_WEIR_CMD d p, 13, 3⟩
def FNT_WEIR_CMD.GO (d p : Nat) : RF := ⟨FNT_WEIR_CMD d p, 63, 1⟩
/-- FNT_WEIR_RES (R304). -/
def FNT_WEIR_RES (d p : Nat) : Reg := ⟨fntBase d + 0x308 + 0x800 * p, 0x0⟩
def FNT_WEIR_RES.VALUE (d p : Nat) : RF := ⟨FNT_WEIR_RES d p, 0, 32⟩
def FNT_WEIR_RES.ENOB (d p : Nat) : RF := ⟨FNT_WEIR_RES d p, 32, 8⟩
def FNT_WEIR_RES.DONE (d p : Nat) : RF := ⟨FNT_WEIR_RES d p, 40, 1⟩
def FNT_WEIR_RES.BUSY (d p : Nat) : RF := ⟨FNT_WEIR_RES d p, 41, 1⟩
def FNT_WEIR_RES.ERR (d p : Nat) : RF := ⟨FNT_WEIR_RES d p, 42, 1⟩
/-- HBM_STACK_STS (R264). -/
def HBM_STACK_STS (k : Nat) : Reg := ⟨hbmBase k + 0x0, 0x8 + (k / 2) * 0x10⟩
def HBM_STACK_STS.STATE (k : Nat) : RF := ⟨HBM_STACK_STS k, 0, 3⟩
def HBM_STACK_STS.MODE (k : Nat) : RF := ⟨HBM_STACK_STS k, 3, 1⟩
def HBM_STACK_STS.BASIN (k : Nat) : RF := ⟨HBM_STACK_STS k, 4, 3⟩
def HBM_STACK_STS.SPARE_USED (k : Nat) : RF := ⟨HBM_STACK_STS k, 7, 1⟩
def HBM_STACK_STS.SPARE_FOR (k : Nat) : RF := ⟨HBM_STACK_STS k, 8, 6⟩
def HBM_STACK_STS.EXPOSED (k : Nat) : RF := ⟨HBM_STACK_STS k, 14, 4⟩
def HBM_STACK_STS.HOT (k : Nat) : RF := ⟨HBM_STACK_STS k, 18, 1⟩
def HBM_STACK_STS.CMD_REFUSED (k : Nat) : RF := ⟨HBM_STACK_STS k, 19, 1⟩
/-- HBM_LOST_MAP (R265). -/
def HBM_LOST_MAP (k : Nat) : Reg := ⟨hbmBase k + 0x8, 0x0⟩
def HBM_LOST_MAP.LOST (k : Nat) : RF := ⟨HBM_LOST_MAP k, 0, 64⟩
/-- HBM_REBUILD (R265). -/
def HBM_REBUILD (k : Nat) : Reg := ⟨hbmBase k + 0x10, 0x2000000000⟩
def HBM_REBUILD.ROW (k : Nat) : RF := ⟨HBM_REBUILD k, 0, 23⟩
def HBM_REBUILD.TARGET (k : Nat) : RF := ⟨HBM_REBUILD k, 23, 6⟩
def HBM_REBUILD.KIND (k : Nat) : RF := ⟨HBM_REBUILD k, 29, 2⟩
def HBM_REBUILD.SHARE (k : Nat) : RF := ⟨HBM_REBUILD k, 32, 8⟩
/-- HBM_SPARE_CMD (R266). -/
def HBM_SPARE_CMD (k : Nat) : Reg := ⟨hbmBase k + 0x18, 0x0⟩
def HBM_SPARE_CMD.PC (k : Nat) : RF := ⟨HBM_SPARE_CMD k, 0, 6⟩
def HBM_SPARE_CMD.GO (k : Nat) : RF := ⟨HBM_SPARE_CMD k, 63, 1⟩
/-- HBM_CE_COUNT (R267). -/
def HBM_CE_COUNT (k : Nat) : Reg := ⟨hbmBase k + 0x20, 0x0⟩
def HBM_CE_COUNT.COUNT (k : Nat) : RF := ⟨HBM_CE_COUNT k, 0, 48⟩
def HBM_CE_COUNT.SAT (k : Nat) : RF := ⟨HBM_CE_COUNT k, 63, 1⟩
/-- HBM_UE_COUNT (R267). -/
def HBM_UE_COUNT (k : Nat) : Reg := ⟨hbmBase k + 0x28, 0x0⟩
def HBM_UE_COUNT.COUNT (k : Nat) : RF := ⟨HBM_UE_COUNT k, 0, 48⟩
def HBM_UE_COUNT.SAT (k : Nat) : RF := ⟨HBM_UE_COUNT k, 63, 1⟩
/-- HBM_RECON_COUNT (R267). -/
def HBM_RECON_COUNT (k : Nat) : Reg := ⟨hbmBase k + 0x30, 0x0⟩
def HBM_RECON_COUNT.COUNT (k : Nat) : RF := ⟨HBM_RECON_COUNT k, 0, 48⟩
def HBM_RECON_COUNT.SAT (k : Nat) : RF := ⟨HBM_RECON_COUNT k, 63, 1⟩
/-- HBM_UE_LOG (R268). -/
def HBM_UE_LOG (k : Nat) : Reg := ⟨hbmBase k + 0x38, 0x0⟩
def HBM_UE_LOG.ADDR (k : Nat) : RF := ⟨HBM_UE_LOG k, 0, 48⟩
def HBM_UE_LOG.PC (k : Nat) : RF := ⟨HBM_UE_LOG k, 48, 6⟩
def HBM_UE_LOG.RECOVERED (k : Nat) : RF := ⟨HBM_UE_LOG k, 54, 1⟩
def HBM_UE_LOG.VALID (k : Nat) : RF := ⟨HBM_UE_LOG k, 63, 1⟩
/-- HBM_URGENT_MAX (R268). -/
def HBM_URGENT_MAX (k : Nat) : Reg := ⟨hbmBase k + 0x40, 0x0⟩
def HBM_URGENT_MAX.NS (k : Nat) : RF := ⟨HBM_URGENT_MAX k, 0, 16⟩
/-- HBM_SCRUB_CTL (R269). -/
def HBM_SCRUB_CTL (k : Nat) : Reg := ⟨hbmBase k + 0x48, 0x31⟩
def HBM_SCRUB_CTL.ENABLE (k : Nat) : RF := ⟨HBM_SCRUB_CTL k, 0, 1⟩
def HBM_SCRUB_CTL.PERIOD (k : Nat) : RF := ⟨HBM_SCRUB_CTL k, 1, 8⟩
def HBM_SCRUB_CTL.PASSES (k : Nat) : RF := ⟨HBM_SCRUB_CTL k, 16, 16⟩
/-- HBM_RDVOL (R459). -/
def HBM_RDVOL (k : Nat) : Reg := ⟨hbmBase k + 0x80, 0x0⟩
def HBM_RDVOL.COUNT (k : Nat) : RF := ⟨HBM_RDVOL k, 0, 64⟩
/-- HBM_RDVOLE (R459). -/
def HBM_RDVOLE (k : Nat) : Reg := ⟨hbmBase k + 0x88, 0x0⟩
def HBM_RDVOLE.EPOCH (k : Nat) : RF := ⟨HBM_RDVOLE k, 0, 8⟩
def HBM_RDVOLE.CLEAR (k : Nat) : RF := ⟨HBM_RDVOLE k, 8, 1⟩
/-- HBM_WRVOL (R459). -/
def HBM_WRVOL (k : Nat) : Reg := ⟨hbmBase k + 0x90, 0x0⟩
def HBM_WRVOL.COUNT (k : Nat) : RF := ⟨HBM_WRVOL k, 0, 64⟩
/-- HBM_WRVOLE (R459). -/
def HBM_WRVOLE (k : Nat) : Reg := ⟨hbmBase k + 0x98, 0x0⟩
def HBM_WRVOLE.EPOCH (k : Nat) : RF := ⟨HBM_WRVOLE k, 0, 8⟩
def HBM_WRVOLE.CLEAR (k : Nat) : RF := ⟨HBM_WRVOLE k, 8, 1⟩
/-- BSN_DIE_MAP (R29). -/
def BSN_DIE_MAP (b : Nat) : Reg := ⟨bsnBase b + 0x40, 0x0 + homeMap b⟩
def BSN_DIE_MAP.SLOT0_DIE (b : Nat) : RF := ⟨BSN_DIE_MAP b, 0, 5⟩
def BSN_DIE_MAP.SLOT1_DIE (b : Nat) : RF := ⟨BSN_DIE_MAP b, 5, 5⟩
def BSN_DIE_MAP.SLOT2_DIE (b : Nat) : RF := ⟨BSN_DIE_MAP b, 10, 5⟩
def BSN_DIE_MAP.SLOT3_DIE (b : Nat) : RF := ⟨BSN_DIE_MAP b, 15, 5⟩
def BSN_DIE_MAP.SLOT4_DIE (b : Nat) : RF := ⟨BSN_DIE_MAP b, 20, 5⟩
def BSN_DIE_MAP.SLOTS (b : Nat) : RF := ⟨BSN_DIE_MAP b, 25, 3⟩
def BSN_DIE_MAP.GEN (b : Nat) : RF := ⟨BSN_DIE_MAP b, 32, 16⟩
/-- BSN_BATCH_CFG (R63). -/
def BSN_BATCH_CFG (b i : Nat) : Reg := ⟨bsnBase b + 0x200 + 0x20 * i, 0x1⟩
def BSN_BATCH_CFG.MODE (b i : Nat) : RF := ⟨BSN_BATCH_CFG b i, 0, 1⟩
def BSN_BATCH_CFG.INFLIGHT (b i : Nat) : RF := ⟨BSN_BATCH_CFG b i, 1, 1⟩
def BSN_BATCH_CFG.ENABLE (b i : Nat) : RF := ⟨BSN_BATCH_CFG b i, 2, 1⟩
def BSN_BATCH_CFG.TARGET_Q (b i : Nat) : RF := ⟨BSN_BATCH_CFG b i, 3, 6⟩
def BSN_BATCH_CFG.ROWLEN (b i : Nat) : RF := ⟨BSN_BATCH_CFG b i, 16, 8⟩
def BSN_BATCH_CFG.DEADLINE (b i : Nat) : RF := ⟨BSN_BATCH_CFG b i, 24, 32⟩
def BSN_BATCH_CFG.FLUSH (b i : Nat) : RF := ⟨BSN_BATCH_CFG b i, 56, 1⟩
/-- BSN_BATCH_BUF (R64). -/
def BSN_BATCH_BUF (b i : Nat) : Reg := ⟨bsnBase b + 0x208 + 0x20 * i, 0x0⟩
def BSN_BATCH_BUF.BASE (b i : Nat) : RF := ⟨BSN_BATCH_BUF b i, 0, 48⟩
/-- BSN_BATCH_STS (R65). -/
def BSN_BATCH_STS (b i : Nat) : Reg := ⟨bsnBase b + 0x210 + 0x20 * i, 0x2000⟩
def BSN_BATCH_STS.PENDING (b i : Nat) : RF := ⟨BSN_BATCH_STS b i, 0, 11⟩
def BSN_BATCH_STS.INFL (b i : Nat) : RF := ⟨BSN_BATCH_STS b i, 11, 2⟩
def BSN_BATCH_STS.IDLE (b i : Nat) : RF := ⟨BSN_BATCH_STS b i, 13, 1⟩
def BSN_BATCH_STS.REJECT (b i : Nat) : RF := ⟨BSN_BATCH_STS b i, 14, 1⟩
def BSN_BATCH_STS.OLDEST_AGE (b i : Nat) : RF := ⟨BSN_BATCH_STS b i, 15, 32⟩
def BSN_BATCH_STS.LAST_M (b i : Nat) : RF := ⟨BSN_BATCH_STS b i, 47, 9⟩
def BSN_BATCH_STS.LAST_CAUSE (b i : Nat) : RF := ⟨BSN_BATCH_STS b i, 56, 2⟩
/-- BSN_NAN_TRAP_CTL (R94). -/
def BSN_NAN_TRAP_CTL (b : Nat) : Reg := ⟨bsnBase b + 0x300, 0x0⟩
def BSN_NAN_TRAP_CTL.ENABLE (b : Nat) : RF := ⟨BSN_NAN_TRAP_CTL b, 0, 1⟩
def BSN_NAN_TRAP_CTL.ACTION (b : Nat) : RF := ⟨BSN_NAN_TRAP_CTL b, 1, 1⟩
def BSN_NAN_TRAP_CTL.ARMED (b : Nat) : RF := ⟨BSN_NAN_TRAP_CTL b, 2, 1⟩
def BSN_NAN_TRAP_CTL.HELD (b : Nat) : RF := ⟨BSN_NAN_TRAP_CTL b, 3, 1⟩
def BSN_NAN_TRAP_CTL.MISSED (b : Nat) : RF := ⟨BSN_NAN_TRAP_CTL b, 4, 16⟩
/-- BSN_NAN_TRAP_ID0 (R95). -/
def BSN_NAN_TRAP_ID0 (b : Nat) : Reg := ⟨bsnBase b + 0x308, 0x0⟩
def BSN_NAN_TRAP_ID0.KERNEL_ID (b : Nat) : RF := ⟨BSN_NAN_TRAP_ID0 b, 0, 32⟩
def BSN_NAN_TRAP_ID0.TAG (b : Nat) : RF := ⟨BSN_NAN_TRAP_ID0 b, 32, 16⟩
def BSN_NAN_TRAP_ID0.QUEUE (b : Nat) : RF := ⟨BSN_NAN_TRAP_ID0 b, 48, 6⟩
def BSN_NAN_TRAP_ID0.SOURCE (b : Nat) : RF := ⟨BSN_NAN_TRAP_ID0 b, 54, 2⟩
def BSN_NAN_TRAP_ID0.SLOT (b : Nat) : RF := ⟨BSN_NAN_TRAP_ID0 b, 56, 3⟩
def BSN_NAN_TRAP_ID0.CLUSTER (b : Nat) : RF := ⟨BSN_NAN_TRAP_ID0 b, 59, 2⟩
/-- BSN_NAN_TRAP_ID1 (R96). -/
def BSN_NAN_TRAP_ID1 (b : Nat) : Reg := ⟨bsnBase b + 0x310, 0x0⟩
def BSN_NAN_TRAP_ID1.BUNDLE (b : Nat) : RF := ⟨BSN_NAN_TRAP_ID1 b, 0, 48⟩
/-- BSN_NAN_TRAP_ID2 (R96). -/
def BSN_NAN_TRAP_ID2 (b : Nat) : Reg := ⟨bsnBase b + 0x318, 0x0⟩
def BSN_NAN_TRAP_ID2.STEP (b : Nat) : RF := ⟨BSN_NAN_TRAP_ID2 b, 0, 32⟩
/-- BSN_STEP (R116). -/
def BSN_STEP (b : Nat) : Reg := ⟨bsnBase b + 0x400, 0x0⟩
def BSN_STEP.STEP (b : Nat) : RF := ⟨BSN_STEP b, 0, 64⟩
/-- BSN_AGREE_STS (R117). -/
def BSN_AGREE_STS (b : Nat) : Reg := ⟨bsnBase b + 0x408, 0x0⟩
def BSN_AGREE_STS.STATE (b : Nat) : RF := ⟨BSN_AGREE_STS b, 0, 2⟩
def BSN_AGREE_STS.LOCAL_TAINT (b : Nat) : RF := ⟨BSN_AGREE_STS b, 2, 1⟩
def BSN_AGREE_STS.TAINT_SEEN (b : Nat) : RF := ⟨BSN_AGREE_STS b, 3, 1⟩
def BSN_AGREE_STS.SEALED_TAINT (b : Nat) : RF := ⟨BSN_AGREE_STS b, 4, 1⟩
def BSN_AGREE_STS.DISTURBED (b : Nat) : RF := ⟨BSN_AGREE_STS b, 5, 1⟩
def BSN_AGREE_STS.AGREED_NF (b : Nat) : RF := ⟨BSN_AGREE_STS b, 6, 1⟩
def BSN_AGREE_STS.AGREED_DIST (b : Nat) : RF := ⟨BSN_AGREE_STS b, 7, 1⟩
def BSN_AGREE_STS.LAST_RESULT (b : Nat) : RF := ⟨BSN_AGREE_STS b, 8, 2⟩
def BSN_AGREE_STS.LAST_STEP (b : Nat) : RF := ⟨BSN_AGREE_STS b, 10, 32⟩
def BSN_AGREE_STS.CMD_RESULT (b : Nat) : RF := ⟨BSN_AGREE_STS b, 42, 2⟩
def BSN_AGREE_STS.TIMEOUT_EV (b : Nat) : RF := ⟨BSN_AGREE_STS b, 44, 1⟩
def BSN_AGREE_STS.OPEN_LS (b : Nat) : RF := ⟨BSN_AGREE_STS b, 45, 8⟩
def BSN_AGREE_STS.SEALED_LS (b : Nat) : RF := ⟨BSN_AGREE_STS b, 53, 8⟩
/-- BSN_AGREE_CTL (R118). -/
def BSN_AGREE_CTL (b : Nat) : Reg := ⟨bsnBase b + 0x410, 0x0⟩
def BSN_AGREE_CTL.TIMEOUT (b : Nat) : RF := ⟨BSN_AGREE_CTL b, 0, 24⟩
def BSN_AGREE_CTL.ABANDON (b : Nat) : RF := ⟨BSN_AGREE_CTL b, 24, 1⟩
def BSN_AGREE_CTL.RELEASE (b : Nat) : RF := ⟨BSN_AGREE_CTL b, 25, 1⟩
def BSN_AGREE_CTL.CMD_STEP (b : Nat) : RF := ⟨BSN_AGREE_CTL b, 26, 32⟩
def BSN_AGREE_CTL.TAINT (b : Nat) : RF := ⟨BSN_AGREE_CTL b, 58, 1⟩
/-- BSN_STEP_STALE (R119). -/
def BSN_STEP_STALE (b : Nat) : Reg := ⟨bsnBase b + 0x418, 0x0⟩
def BSN_STEP_STALE.COUNT (b : Nat) : RF := ⟨BSN_STEP_STALE b, 0, 48⟩
def BSN_STEP_STALE.SAT (b : Nat) : RF := ⟨BSN_STEP_STALE b, 63, 1⟩
/-- BSN_SEAL_DROPS (R119). -/
def BSN_SEAL_DROPS (b : Nat) : Reg := ⟨bsnBase b + 0x420, 0x0⟩
def BSN_SEAL_DROPS.COUNT (b : Nat) : RF := ⟨BSN_SEAL_DROPS b, 0, 48⟩
def BSN_SEAL_DROPS.SAT (b : Nat) : RF := ⟨BSN_SEAL_DROPS b, 63, 1⟩
/-- BSN_LOSS_SCALE (R120). -/
def BSN_LOSS_SCALE (b : Nat) : Reg := ⟨bsnBase b + 0x428, 0x1F406000910⟩
def BSN_LOSS_SCALE.LS_EXP (b : Nat) : RF := ⟨BSN_LOSS_SCALE b, 0, 8⟩
def BSN_LOSS_SCALE.DOWN (b : Nat) : RF := ⟨BSN_LOSS_SCALE b, 8, 3⟩
def BSN_LOSS_SCALE.UP (b : Nat) : RF := ⟨BSN_LOSS_SCALE b, 11, 3⟩
def BSN_LOSS_SCALE.MIN_EXP (b : Nat) : RF := ⟨BSN_LOSS_SCALE b, 14, 8⟩
def BSN_LOSS_SCALE.MAX_EXP (b : Nat) : RF := ⟨BSN_LOSS_SCALE b, 22, 8⟩
def BSN_LOSS_SCALE.GROWTH (b : Nat) : RF := ⟨BSN_LOSS_SCALE b, 30, 16⟩
def BSN_LOSS_SCALE.CLEAN (b : Nat) : RF := ⟨BSN_LOSS_SCALE b, 46, 16⟩
/-- BSN_AMAX_BASE (R120). -/
def BSN_AMAX_BASE (b : Nat) : Reg := ⟨bsnBase b + 0x430, 0x0⟩
def BSN_AMAX_BASE.BASE (b : Nat) : RF := ⟨BSN_AMAX_BASE b, 0, 48⟩
/-- BSN_GEN_SEED (R124). -/
def BSN_GEN_SEED (b : Nat) : Reg := ⟨bsnBase b + 0x480, 0x0⟩
def BSN_GEN_SEED.SEED (b : Nat) : RF := ⟨BSN_GEN_SEED b, 0, 64⟩
/-- BSN_GEN_CTL (R124). -/
def BSN_GEN_CTL (b : Nat) : Reg := ⟨bsnBase b + 0x488, 0x0⟩
def BSN_GEN_CTL.MODE (b : Nat) : RF := ⟨BSN_GEN_CTL b, 0, 1⟩
/-- BSN_LOSS_IN (R125). -/
def BSN_LOSS_IN (b : Nat) : Reg := ⟨bsnBase b + 0x4C0, 0x0⟩
def BSN_LOSS_IN.LOSS (b : Nat) : RF := ⟨BSN_LOSS_IN b, 0, 32⟩
/-- BSN_LOSS_CTL (R125). -/
def BSN_LOSS_CTL (b : Nat) : Reg := ⟨bsnBase b + 0x4C8, 0x40084⟩
def BSN_LOSS_CTL.ALPHA (b : Nat) : RF := ⟨BSN_LOSS_CTL b, 0, 4⟩
def BSN_LOSS_CTL.RATIO_F (b : Nat) : RF := ⟨BSN_LOSS_CTL b, 4, 8⟩
def BSN_LOSS_CTL.WARMUP (b : Nat) : RF := ⟨BSN_LOSS_CTL b, 12, 16⟩
def BSN_LOSS_CTL.RESTART (b : Nat) : RF := ⟨BSN_LOSS_CTL b, 28, 1⟩
/-- BSN_LOSS_AVG (R125). -/
def BSN_LOSS_AVG (b : Nat) : Reg := ⟨bsnBase b + 0x4D0, 0x0⟩
def BSN_LOSS_AVG.AVG (b : Nat) : RF := ⟨BSN_LOSS_AVG b, 0, 32⟩
/-- BSN_LOSS_SPIKES (R125). -/
def BSN_LOSS_SPIKES (b : Nat) : Reg := ⟨bsnBase b + 0x4D8, 0x0⟩
def BSN_LOSS_SPIKES.COUNT (b : Nat) : RF := ⟨BSN_LOSS_SPIKES b, 0, 48⟩
def BSN_LOSS_SPIKES.SAT (b : Nat) : RF := ⟨BSN_LOSS_SPIKES b, 63, 1⟩
/-- BSN_LOSS_NF (R125). -/
def BSN_LOSS_NF (b : Nat) : Reg := ⟨bsnBase b + 0x4E0, 0x0⟩
def BSN_LOSS_NF.COUNT (b : Nat) : RF := ⟨BSN_LOSS_NF b, 0, 48⟩
def BSN_LOSS_NF.SAT (b : Nat) : RF := ⟨BSN_LOSS_NF b, 63, 1⟩
/-- BSN_TEMPER_T (R141). -/
def BSN_TEMPER_T (b : Nat) : Reg := ⟨bsnBase b + 0x500, 0x0⟩
def BSN_TEMPER_T.T (b : Nat) : RF := ⟨BSN_TEMPER_T b, 0, 64⟩
/-- BSN_Q_CFG (R161). -/
def BSN_Q_CFG (b i : Nat) : Reg := ⟨bsnBase b + 0x600 + 0x10 * i, 0x0⟩
def BSN_Q_CFG.BASE (b i : Nat) : RF := ⟨BSN_Q_CFG b i, 0, 48⟩
def BSN_Q_CFG.SIZE (b i : Nat) : RF := ⟨BSN_Q_CFG b i, 48, 4⟩
def BSN_Q_CFG.CLASS (b i : Nat) : RF := ⟨BSN_Q_CFG b i, 52, 1⟩
def BSN_Q_CFG.ENABLE (b i : Nat) : RF := ⟨BSN_Q_CFG b i, 53, 1⟩
def BSN_Q_CFG.RELEASE (b i : Nat) : RF := ⟨BSN_Q_CFG b i, 54, 1⟩
def BSN_Q_CFG.DISCARD (b i : Nat) : RF := ⟨BSN_Q_CFG b i, 55, 1⟩
/-- BSN_Q_STS (R163). -/
def BSN_Q_STS (b i : Nat) : Reg := ⟨bsnBase b + 0x608 + 0x10 * i, 0x0⟩
def BSN_Q_STS.HEAD (b i : Nat) : RF := ⟨BSN_Q_STS b i, 0, 16⟩
def BSN_Q_STS.RETIRED (b i : Nat) : RF := ⟨BSN_Q_STS b i, 16, 16⟩
def BSN_Q_STS.TAIL (b i : Nat) : RF := ⟨BSN_Q_STS b i, 32, 16⟩
def BSN_Q_STS.STATE (b i : Nat) : RF := ⟨BSN_Q_STS b i, 48, 3⟩
def BSN_Q_STS.ERRCODE (b i : Nat) : RF := ⟨BSN_Q_STS b i, 51, 4⟩
def BSN_Q_STS.ERR (b i : Nat) : RF := ⟨BSN_Q_STS b i, 55, 1⟩
/-- BSN_POUR_SET (R195). -/
def BSN_POUR_SET (b : Nat) : Reg := ⟨bsnBase b + 0xA00, 0x0⟩
def BSN_POUR_SET.SET (b : Nat) : RF := ⟨BSN_POUR_SET b, 0, 64⟩
/-- BSN_POUR_BASE (R195). -/
def BSN_POUR_BASE (b : Nat) : Reg := ⟨bsnBase b + 0xA08, 0x0⟩
def BSN_POUR_BASE.BASE (b : Nat) : RF := ⟨BSN_POUR_BASE b, 0, 48⟩
/-- BSN_POUR_STS (R195). -/
def BSN_POUR_STS (b : Nat) : Reg := ⟨bsnBase b + 0xA10, 0x0⟩
def BSN_POUR_STS.P (b : Nat) : RF := ⟨BSN_POUR_STS b, 0, 32⟩
def BSN_POUR_STS.VALID (b : Nat) : RF := ⟨BSN_POUR_STS b, 32, 1⟩
def BSN_POUR_STS.SLOT (b : Nat) : RF := ⟨BSN_POUR_STS b, 33, 1⟩
def BSN_POUR_STS.REPLAY (b : Nat) : RF := ⟨BSN_POUR_STS b, 34, 1⟩
def BSN_POUR_STS.RESUMES (b : Nat) : RF := ⟨BSN_POUR_STS b, 35, 16⟩
/-- BSN_LATCH_SHADOW (R195). -/
def BSN_LATCH_SHADOW (b : Nat) : Reg := ⟨bsnBase b + 0xA18, 0x0⟩
def BSN_LATCH_SHADOW.BASE (b : Nat) : RF := ⟨BSN_LATCH_SHADOW b, 0, 48⟩
/-- BSN_SLICE (R196). -/
def BSN_SLICE (b : Nat) : Reg := ⟨bsnBase b + 0xA20, 0x0⟩
def BSN_SLICE.TAG (b : Nat) : RF := ⟨BSN_SLICE b, 0, 16⟩
/-- BSN_JOB_POS (R198). -/
def BSN_JOB_POS (b : Nat) : Reg := ⟨bsnBase b + 0xA28, 0x0⟩
def BSN_JOB_POS.LX (b : Nat) : RF := ⟨BSN_JOB_POS b, 0, 6⟩
def BSN_JOB_POS.LY (b : Nat) : RF := ⟨BSN_JOB_POS b, 6, 6⟩
def BSN_JOB_POS.LZ (b : Nat) : RF := ⟨BSN_JOB_POS b, 12, 6⟩
def BSN_JOB_POS.EX (b : Nat) : RF := ⟨BSN_JOB_POS b, 18, 6⟩
def BSN_JOB_POS.EY (b : Nat) : RF := ⟨BSN_JOB_POS b, 24, 6⟩
def BSN_JOB_POS.EZ (b : Nat) : RF := ⟨BSN_JOB_POS b, 30, 6⟩
def BSN_JOB_POS.MEMBER (b : Nat) : RF := ⟨BSN_JOB_POS b, 36, 18⟩
/-- BSN_SIDE_MAX (R199). -/
def BSN_SIDE_MAX (b : Nat) : Reg := ⟨bsnBase b + 0xA30, 0x3E80⟩
def BSN_SIDE_MAX.BUDGET (b : Nat) : RF := ⟨BSN_SIDE_MAX b, 0, 32⟩
/-- BSN_SLICE_DROPS (R197). -/
def BSN_SLICE_DROPS (b : Nat) : Reg := ⟨bsnBase b + 0xA38, 0x0⟩
def BSN_SLICE_DROPS.COUNT (b : Nat) : RF := ⟨BSN_SLICE_DROPS b, 0, 48⟩
def BSN_SLICE_DROPS.SAT (b : Nat) : RF := ⟨BSN_SLICE_DROPS b, 63, 1⟩
/-- BSN_FLOW_BASE (R337). -/
def BSN_FLOW_BASE (b : Nat) : Reg := ⟨bsnBase b + 0xA40, 0x0⟩
def BSN_FLOW_BASE.BASE (b : Nat) : RF := ⟨BSN_FLOW_BASE b, 0, 48⟩
/-- BSN_FLOW_RESENDS (R338). -/
def BSN_FLOW_RESENDS (b : Nat) : Reg := ⟨bsnBase b + 0xA48, 0x0⟩
def BSN_FLOW_RESENDS.COUNT (b : Nat) : RF := ⟨BSN_FLOW_RESENDS b, 0, 48⟩
def BSN_FLOW_RESENDS.SAT (b : Nat) : RF := ⟨BSN_FLOW_RESENDS b, 63, 1⟩
/-- BSN_FLOW_DUPS (R338). -/
def BSN_FLOW_DUPS (b : Nat) : Reg := ⟨bsnBase b + 0xA50, 0x0⟩
def BSN_FLOW_DUPS.COUNT (b : Nat) : RF := ⟨BSN_FLOW_DUPS b, 0, 48⟩
def BSN_FLOW_DUPS.SAT (b : Nat) : RF := ⟨BSN_FLOW_DUPS b, 63, 1⟩
/-- BSN_FLOW_GAPS (R338). -/
def BSN_FLOW_GAPS (b : Nat) : Reg := ⟨bsnBase b + 0xA58, 0x0⟩
def BSN_FLOW_GAPS.COUNT (b : Nat) : RF := ⟨BSN_FLOW_GAPS b, 0, 48⟩
def BSN_FLOW_GAPS.SAT (b : Nat) : RF := ⟨BSN_FLOW_GAPS b, 63, 1⟩
/-- BSN_PORT_EN (R200). -/
def BSN_PORT_EN (b : Nat) : Reg := ⟨bsnBase b + 0xA60, 0x0⟩
def BSN_PORT_EN.S0 (b : Nat) : RF := ⟨BSN_PORT_EN b, 0, 1⟩
def BSN_PORT_EN.S1 (b : Nat) : RF := ⟨BSN_PORT_EN b, 1, 1⟩
/-- BSN_BAR_CTX (R182). -/
def BSN_BAR_CTX (b i : Nat) : Reg := ⟨bsnBase b + 0xB00 + 0x10 * i, 0x0⟩
def BSN_BAR_CTX.GROUP (b i : Nat) : RF := ⟨BSN_BAR_CTX b i, 0, 48⟩
def BSN_BAR_CTX.TIMEOUT (b i : Nat) : RF := ⟨BSN_BAR_CTX b i, 48, 16⟩
/-- BSN_BAR_STS (R182). -/
def BSN_BAR_STS (b i : Nat) : Reg := ⟨bsnBase b + 0xB08 + 0x10 * i, 0x0⟩
def BSN_BAR_STS.GEN (b i : Nat) : RF := ⟨BSN_BAR_STS b i, 0, 32⟩
def BSN_BAR_STS.ROUND (b i : Nat) : RF := ⟨BSN_BAR_STS b i, 32, 5⟩
def BSN_BAR_STS.STATE (b i : Nat) : RF := ⟨BSN_BAR_STS b i, 37, 2⟩
def BSN_BAR_STS.TIMEOUT_EV (b i : Nat) : RF := ⟨BSN_BAR_STS b i, 39, 1⟩
def BSN_BAR_STS.EARLY (b i : Nat) : RF := ⟨BSN_BAR_STS b i, 40, 1⟩
def BSN_BAR_STS.CANCEL (b i : Nat) : RF := ⟨BSN_BAR_STS b i, 41, 1⟩
/-- BSN_WDOG (R371). -/
def BSN_WDOG (b : Nat) : Reg := ⟨bsnBase b + 0xC00, 0x1E8480⟩
def BSN_WDOG.PERIOD (b : Nat) : RF := ⟨BSN_WDOG b, 0, 24⟩
def BSN_WDOG.COUNT (b : Nat) : RF := ⟨BSN_WDOG b, 24, 24⟩
def BSN_WDOG.EXPIRED (b : Nat) : RF := ⟨BSN_WDOG b, 48, 1⟩
/-- BSN_QUENCH (R372). -/
def BSN_QUENCH (b : Nat) : Reg := ⟨bsnBase b + 0xC08, 0x0⟩
def BSN_QUENCH.STATE (b : Nat) : RF := ⟨BSN_QUENCH b, 0, 2⟩
def BSN_QUENCH.CAUSE (b : Nat) : RF := ⟨BSN_QUENCH b, 2, 3⟩
def BSN_QUENCH.COUNT (b : Nat) : RF := ⟨BSN_QUENCH b, 5, 16⟩
def BSN_QUENCH.QUENCH (b : Nat) : RF := ⟨BSN_QUENCH b, 21, 1⟩
def BSN_QUENCH.RETURN (b : Nat) : RF := ⟨BSN_QUENCH b, 22, 1⟩
/-- BSN_SECURE_BASE (R383). -/
def BSN_SECURE_BASE (b : Nat) : Reg := ⟨bsnBase b + 0xC10, 0x0⟩
def BSN_SECURE_BASE.BASE (b : Nat) : RF := ⟨BSN_SECURE_BASE b, 0, 48⟩
/-- BSN_SECURE_CMD (R383). -/
def BSN_SECURE_CMD (b : Nat) : Reg := ⟨bsnBase b + 0xC18, 0x0⟩
def BSN_SECURE_CMD.STEP_LO (b : Nat) : RF := ⟨BSN_SECURE_CMD b, 0, 32⟩
def BSN_SECURE_CMD.ABORT (b : Nat) : RF := ⟨BSN_SECURE_CMD b, 32, 1⟩
def BSN_SECURE_CMD.GO (b : Nat) : RF := ⟨BSN_SECURE_CMD b, 63, 1⟩
/-- BSN_SECURE_STS (R383). -/
def BSN_SECURE_STS (b : Nat) : Reg := ⟨bsnBase b + 0xC20, 0x0⟩
def BSN_SECURE_STS.STATE (b : Nat) : RF := ⟨BSN_SECURE_STS b, 0, 2⟩
def BSN_SECURE_STS.INGOTS (b : Nat) : RF := ⟨BSN_SECURE_STS b, 2, 11⟩
def BSN_SECURE_STS.DONE (b : Nat) : RF := ⟨BSN_SECURE_STS b, 13, 11⟩
def BSN_SECURE_STS.STEP_LO (b : Nat) : RF := ⟨BSN_SECURE_STS b, 24, 32⟩
def BSN_SECURE_STS.RESULT (b : Nat) : RF := ⟨BSN_SECURE_STS b, 56, 3⟩
def BSN_SECURE_STS.EV (b : Nat) : RF := ⟨BSN_SECURE_STS b, 59, 1⟩
/-- BSN_RECOVER (R388). -/
def BSN_RECOVER (b : Nat) : Reg := ⟨bsnBase b + 0xC28, 0x0⟩
def BSN_RECOVER.ACTION (b : Nat) : RF := ⟨BSN_RECOVER b, 0, 3⟩
def BSN_RECOVER.STEP_LO (b : Nat) : RF := ⟨BSN_RECOVER b, 3, 32⟩
def BSN_RECOVER.TARGET (b : Nat) : RF := ⟨BSN_RECOVER b, 35, 18⟩
def BSN_RECOVER.BUSY (b : Nat) : RF := ⟨BSN_RECOVER b, 53, 1⟩
def BSN_RECOVER.RESULT (b : Nat) : RF := ⟨BSN_RECOVER b, 54, 3⟩
def BSN_RECOVER.GO (b : Nat) : RF := ⟨BSN_RECOVER b, 63, 1⟩
/-- BSN_WAKE (R417). -/
def BSN_WAKE (b : Nat) : Reg := ⟨bsnBase b + 0xD00, 0x7D00⟩
def BSN_WAKE.MODE (b : Nat) : RF := ⟨BSN_WAKE b, 0, 1⟩
def BSN_WAKE.IDLE (b : Nat) : RF := ⟨BSN_WAKE b, 1, 24⟩
def BSN_WAKE.ASLEEP (b : Nat) : RF := ⟨BSN_WAKE b, 25, 20⟩
def BSN_WAKE.WAKES (b : Nat) : RF := ⟨BSN_WAKE b, 45, 16⟩
def BSN_WAKE.WAKE (b : Nat) : RF := ⟨BSN_WAKE b, 61, 1⟩
/-- BSN_SLACK (R417). -/
def BSN_SLACK (b : Nat) : Reg := ⟨bsnBase b + 0xD08, 0x0⟩
def BSN_SLACK.SLACK (b : Nat) : RF := ⟨BSN_SLACK b, 0, 24⟩
def BSN_SLACK.STEP_TICKS (b : Nat) : RF := ⟨BSN_SLACK b, 24, 24⟩
def BSN_SLACK.STEP16 (b : Nat) : RF := ⟨BSN_SLACK b, 48, 16⟩
/-- BSN_TXVOL (R459). -/
def BSN_TXVOL (b i : Nat) : Reg := ⟨bsnBase b + 0xE00 + 0x10 * i, 0x0⟩
def BSN_TXVOL.COUNT (b i : Nat) : RF := ⟨BSN_TXVOL b i, 0, 64⟩
/-- BSN_TXVOLE (R459). -/
def BSN_TXVOLE (b i : Nat) : Reg := ⟨bsnBase b + 0xE08 + 0x10 * i, 0x0⟩
def BSN_TXVOLE.EPOCH (b i : Nat) : RF := ⟨BSN_TXVOLE b i, 0, 8⟩
def BSN_TXVOLE.CLEAR (b i : Nat) : RF := ⟨BSN_TXVOLE b i, 8, 1⟩
/-- BSN_RXVOL (R459). -/
def BSN_RXVOL (b i : Nat) : Reg := ⟨bsnBase b + 0xE40 + 0x10 * i, 0x0⟩
def BSN_RXVOL.COUNT (b i : Nat) : RF := ⟨BSN_RXVOL b i, 0, 64⟩
/-- BSN_RXVOLE (R459). -/
def BSN_RXVOLE (b i : Nat) : Reg := ⟨bsnBase b + 0xE48 + 0x10 * i, 0x0⟩
def BSN_RXVOLE.EPOCH (b i : Nat) : RF := ⟨BSN_RXVOLE b i, 0, 8⟩
def BSN_RXVOLE.CLEAR (b i : Nat) : RF := ⟨BSN_RXVOLE b i, 8, 1⟩
/-- FGE_TEMPER_STS (R146). -/
def FGE_TEMPER_STS (n : Nat) : Reg := ⟨dieBase n + 0x100, 0x1C⟩
def FGE_TEMPER_STS.STATE (n : Nat) : RF := ⟨FGE_TEMPER_STS n, 0, 2⟩
def FGE_TEMPER_STS.COVER_SLOT (n : Nat) : RF := ⟨FGE_TEMPER_STS n, 2, 3⟩
def FGE_TEMPER_STS.QDEPTH (n : Nat) : RF := ⟨FGE_TEMPER_STS n, 5, 6⟩
def FGE_TEMPER_STS.WAITING (n : Nat) : RF := ⟨FGE_TEMPER_STS n, 11, 1⟩
def FGE_TEMPER_STS.NFG_SEEN (n : Nat) : RF := ⟨FGE_TEMPER_STS n, 12, 1⟩
def FGE_TEMPER_STS.LAST_STATUS (n : Nat) : RF := ⟨FGE_TEMPER_STS n, 13, 3⟩
def FGE_TEMPER_STS.UCODE_SLOTS (n : Nat) : RF := ⟨FGE_TEMPER_STS n, 16, 16⟩
def FGE_TEMPER_STS.UCODE_VER (n : Nat) : RF := ⟨FGE_TEMPER_STS n, 32, 16⟩
/-- FGE_LADLE_CFG (R158). -/
def FGE_LADLE_CFG (n : Nat) : Reg := ⟨dieBase n + 0x200, 0x28⟩
def FGE_LADLE_CFG.TIMEOUT (n : Nat) : RF := ⟨FGE_LADLE_CFG n, 0, 16⟩
def FGE_LADLE_CFG.OUTSTANDING (n : Nat) : RF := ⟨FGE_LADLE_CFG n, 16, 10⟩
/-- FGE_LADLE_STS (R159). -/
def FGE_LADLE_STS (n : Nat) : Reg := ⟨dieBase n + 0x208, 0x0⟩
def FGE_LADLE_STS.BUSY (n : Nat) : RF := ⟨FGE_LADLE_STS n, 0, 1⟩
def FGE_LADLE_STS.QDEPTH_G (n : Nat) : RF := ⟨FGE_LADLE_STS n, 1, 6⟩
def FGE_LADLE_STS.QDEPTH_U (n : Nat) : RF := ⟨FGE_LADLE_STS n, 7, 6⟩
def FGE_LADLE_STS.WAITING_U (n : Nat) : RF := ⟨FGE_LADLE_STS n, 13, 1⟩
def FGE_LADLE_STS.INFLIGHT (n : Nat) : RF := ⟨FGE_LADLE_STS n, 14, 11⟩
def FGE_LADLE_STS.LAST_STATUS (n : Nat) : RF := ⟨FGE_LADLE_STS n, 25, 3⟩
def FGE_LADLE_STS.RFAIL_SEEN (n : Nat) : RF := ⟨FGE_LADLE_STS n, 28, 1⟩
/-- CLS_ARRAY_STS (R58). -/
def CLS_ARRAY_STS (n c : Nat) : Reg := ⟨clsBase n c + 0x100, 0x0⟩
def CLS_ARRAY_STS.STATE (n c : Nat) : RF := ⟨CLS_ARRAY_STS n c, 0, 2⟩
def CLS_ARRAY_STS.MODE (n c : Nat) : RF := ⟨CLS_ARRAY_STS n c, 2, 1⟩
def CLS_ARRAY_STS.STAGING (n c : Nat) : RF := ⟨CLS_ARRAY_STS n c, 3, 1⟩
def CLS_ARRAY_STS.ACC_SET (n c : Nat) : RF := ⟨CLS_ARRAY_STS n c, 4, 1⟩
def CLS_ARRAY_STS.WHOLE_BROKEN (n c : Nat) : RF := ⟨CLS_ARRAY_STS n c, 5, 1⟩
def CLS_ARRAY_STS.ARRAY_FAULT (n c : Nat) : RF := ⟨CLS_ARRAY_STS n c, 6, 1⟩
def CLS_ARRAY_STS.FAULT_COL (n c : Nat) : RF := ⟨CLS_ARRAY_STS n c, 7, 9⟩
/-- CLS_SPARE_ROWS (R57). -/
def CLS_SPARE_ROWS (n c : Nat) : Reg := ⟨clsBase n c + 0x110, 0x0⟩
def CLS_SPARE_ROWS.IDX0 (n c : Nat) : RF := ⟨CLS_SPARE_ROWS n c, 0, 8⟩
def CLS_SPARE_ROWS.IDX1 (n c : Nat) : RF := ⟨CLS_SPARE_ROWS n c, 8, 8⟩
def CLS_SPARE_ROWS.IDX2 (n c : Nat) : RF := ⟨CLS_SPARE_ROWS n c, 16, 8⟩
def CLS_SPARE_ROWS.IDX3 (n c : Nat) : RF := ⟨CLS_SPARE_ROWS n c, 24, 8⟩
def CLS_SPARE_ROWS.VALID (n c : Nat) : RF := ⟨CLS_SPARE_ROWS n c, 32, 4⟩
def CLS_SPARE_ROWS.BAD (n c : Nat) : RF := ⟨CLS_SPARE_ROWS n c, 36, 4⟩
def CLS_SPARE_ROWS.GEN (n c : Nat) : RF := ⟨CLS_SPARE_ROWS n c, 48, 16⟩
/-- CLS_SPARE_COLS (R57). -/
def CLS_SPARE_COLS (n c : Nat) : Reg := ⟨clsBase n c + 0x118, 0x0⟩
def CLS_SPARE_COLS.IDX0 (n c : Nat) : RF := ⟨CLS_SPARE_COLS n c, 0, 8⟩
def CLS_SPARE_COLS.IDX1 (n c : Nat) : RF := ⟨CLS_SPARE_COLS n c, 8, 8⟩
def CLS_SPARE_COLS.IDX2 (n c : Nat) : RF := ⟨CLS_SPARE_COLS n c, 16, 8⟩
def CLS_SPARE_COLS.IDX3 (n c : Nat) : RF := ⟨CLS_SPARE_COLS n c, 24, 8⟩
def CLS_SPARE_COLS.VALID (n c : Nat) : RF := ⟨CLS_SPARE_COLS n c, 32, 4⟩
def CLS_SPARE_COLS.BAD (n c : Nat) : RF := ⟨CLS_SPARE_COLS n c, 36, 4⟩
def CLS_SPARE_COLS.GEN (n c : Nat) : RF := ⟨CLS_SPARE_COLS n c, 48, 16⟩
/-- CLS_CISTERN_STS (R270). -/
def CLS_CISTERN_STS (n c : Nat) : Reg := ⟨clsBase n c + 0x120, 0x0⟩
def CLS_CISTERN_STS.SPARE_USED (n c : Nat) : RF := ⟨CLS_CISTERN_STS n c, 0, 9⟩
def CLS_CISTERN_STS.LAST_BANK (n c : Nat) : RF := ⟨CLS_CISTERN_STS n c, 9, 6⟩
def CLS_CISTERN_STS.LAST_ROW (n c : Nat) : RF := ⟨CLS_CISTERN_STS n c, 15, 13⟩
def CLS_CISTERN_STS.UE (n c : Nat) : RF := ⟨CLS_CISTERN_STS n c, 28, 1⟩
def CLS_CISTERN_STS.UE_OFS (n c : Nat) : RF := ⟨CLS_CISTERN_STS n c, 29, 25⟩
/-- CLS_CISTERN_CE (R271). -/
def CLS_CISTERN_CE (n c : Nat) : Reg := ⟨clsBase n c + 0x128, 0x0⟩
def CLS_CISTERN_CE.COUNT (n c : Nat) : RF := ⟨CLS_CISTERN_CE n c, 0, 48⟩
def CLS_CISTERN_CE.SAT (n c : Nat) : RF := ⟨CLS_CISTERN_CE n c, 63, 1⟩
/-- CLS_STREAM_CONFLICT (R271). -/
def CLS_STREAM_CONFLICT (n c : Nat) : Reg := ⟨clsBase n c + 0x130, 0x0⟩
def CLS_STREAM_CONFLICT.COUNT (n c : Nat) : RF := ⟨CLS_STREAM_CONFLICT n c, 0, 48⟩
def CLS_STREAM_CONFLICT.SAT (n c : Nat) : RF := ⟨CLS_STREAM_CONFLICT n c, 63, 1⟩
/-- CLS_PASSES (R470). -/
def CLS_PASSES (n c : Nat) : Reg := ⟨clsBase n c + 0x140, 0x0⟩
def CLS_PASSES.COUNT (n c : Nat) : RF := ⟨CLS_PASSES n c, 0, 48⟩
def CLS_PASSES.SAT (n c : Nat) : RF := ⟨CLS_PASSES n c, 63, 1⟩
/-- CLS_PASS_WAIT (R470). -/
def CLS_PASS_WAIT (n c : Nat) : Reg := ⟨clsBase n c + 0x148, 0x0⟩
def CLS_PASS_WAIT.COUNT (n c : Nat) : RF := ⟨CLS_PASS_WAIT n c, 0, 48⟩
def CLS_PASS_WAIT.SAT (n c : Nat) : RF := ⟨CLS_PASS_WAIT n c, 63, 1⟩
/-- CLS_ARRAY_FAULTS (R470). -/
def CLS_ARRAY_FAULTS (n c : Nat) : Reg := ⟨clsBase n c + 0x150, 0x0⟩
def CLS_ARRAY_FAULTS.COUNT (n c : Nat) : RF := ⟨CLS_ARRAY_FAULTS n c, 0, 48⟩
def CLS_ARRAY_FAULTS.SAT (n c : Nat) : RF := ⟨CLS_ARRAY_FAULTS n c, 63, 1⟩
/-- CLS_SEQ_STS (R208). -/
def CLS_SEQ_STS (n c i : Nat) : Reg := ⟨clsBase n c + 0x200 + 0x8 * i, 0x0⟩
def CLS_SEQ_STS.STATE (n c i : Nat) : RF := ⟨CLS_SEQ_STS n c i, 0, 3⟩
def CLS_SEQ_STS.CAUSE (n c i : Nat) : RF := ⟨CLS_SEQ_STS n c i, 3, 4⟩
def CLS_SEQ_STS.TRAPCODE (n c i : Nat) : RF := ⟨CLS_SEQ_STS n c i, 8, 16⟩
def CLS_SEQ_STS.PC (n c i : Nat) : RF := ⟨CLS_SEQ_STS n c i, 24, 25⟩
/-- CLS_SEQ_REFUSED (R470). -/
def CLS_SEQ_REFUSED (n c i : Nat) : Reg := ⟨clsBase n c + 0x210 + 0x8 * i, 0x0⟩
def CLS_SEQ_REFUSED.COUNT (n c i : Nat) : RF := ⟨CLS_SEQ_REFUSED n c i, 0, 48⟩
def CLS_SEQ_REFUSED.SAT (n c i : Nat) : RF := ⟨CLS_SEQ_REFUSED n c i, 63, 1⟩

end Sys2Proof.Machine
end

