-- ==== Sys2Proof/Machine/RegTable.lean ====
section
/-! DEFINITION. The register index (R468, R469) as data: which register stands at which offset of which block, with its fields
and access codes, for accesses that come by offset. -/
namespace Sys2Proof.Machine

/-- The registers by name, one constructor per register of R469 (indices aside). -/
inductive RegKind where
  | hubForgeStatus | hubSpareCmd | hubSpareSts | hubRole | hubTicks | hubVfBind
  | hubVfQmask | hubBootSts | hubCfgSts | hubPcieSts | hubBar4Base | hubRstCtl
  | hubDebugSts | hubMbxWin | hubHcopyCfg | hubHcopyBase | hubHcopySts | hubEvtRoute
  | hubNotify | hubMbxCmd | hubMbxSts | asySnapAll | asyCtrEv | asyRisk
  | asyReplica | asyRoute | asyRiskTerm | asyRiskW | asyWear | asyWearCtl
  | asyNfSel | asyNfData | asyNfSum | pwrCap | pwrSts | pwrGrant
  | pwrSlack | pwrDieSts | pwrDroop | tmpCtl | tmpDie | tmpHbm
  | fabShape | fabPhys | fabDir | fabPool | fabAckCtl | fabReloc
  | fabHole | fabAppl | fabReplays | fabStomped | fabBadpkt | fabTxvol
  | fabTxvole | fabRxvol | fabRxvole | slcMap | slcMapNext | slcCtl
  | slcSts | fntPortCtl | fntPortSts | fntTxMap0 | fntTxMap1 | fntRxMap0
  | fntRxMap1 | fntLaneBer | fntFecCorr | fntFecUncorr | fntRemaps | fntLos
  | fntLaser | fntWeirCmd | fntWeirRes | hbmStackSts | hbmLostMap | hbmRebuild
  | hbmSpareCmd | hbmCeCount | hbmUeCount | hbmReconCount | hbmUeLog | hbmUrgentMax
  | hbmScrubCtl | hbmRdvol | hbmRdvole | hbmWrvol | hbmWrvole | bsnDieMap
  | bsnBatchCfg | bsnBatchBuf | bsnBatchSts | bsnNanTrapCtl | bsnNanTrapId0 | bsnNanTrapId1
  | bsnNanTrapId2 | bsnStep | bsnAgreeSts | bsnAgreeCtl | bsnStepStale | bsnSealDrops
  | bsnLossScale | bsnAmaxBase | bsnGenSeed | bsnGenCtl | bsnLossIn | bsnLossCtl
  | bsnLossAvg | bsnLossSpikes | bsnLossNf | bsnTemperT | bsnQCfg | bsnQSts
  | bsnPourSet | bsnPourBase | bsnPourSts | bsnLatchShadow | bsnSlice | bsnJobPos
  | bsnSideMax | bsnSliceDrops | bsnFlowBase | bsnFlowResends | bsnFlowDups | bsnFlowGaps
  | bsnPortEn | bsnBarCtx | bsnBarSts | bsnWdog | bsnQuench | bsnSecureBase
  | bsnSecureCmd | bsnSecureSts | bsnRecover | bsnWake | bsnSlack | bsnTxvol
  | bsnTxvole | bsnRxvol | bsnRxvole | fgeTemperSts | fgeLadleCfg | fgeLadleSts
  | clsArraySts | clsSpareRows | clsSpareCols | clsCisternSts | clsCisternCe | clsStreamConflict
  | clsPasses | clsPassWait | clsArrayFaults | clsSeqSts | clsSeqRefused
  | anySnap
  deriving DecidableEq, Repr

/-- The blocks of R468. -/
inductive Block where
  | hub | asy | pwr | tmp | fab | slc | fnt | hbm | bsn | fge | cls
  deriving DecidableEq, Repr

/-- One row of the register index: offset in the block, outer stride and count, inner stride and count, fields. -/
structure RegRow where
  kind : RegKind
  block : Block
  base : Nat
  stride : Nat
  count : Nat
  stride2 : Nat
  count2 : Nat
  fields : List Fld
  deriving DecidableEq, Repr

def regRowsHub0 : List RegRow := [
  ⟨.hubForgeStatus, .hub, 0x400, 0x8, 26, 0x0, 1, [⟨0, 3, .ro, false⟩, ⟨3, 3, .ro, false⟩, ⟨6, 3, .ro, false⟩, ⟨9, 4, .ro, true⟩, ⟨13, 4, .ro, false⟩]⟩,
  ⟨.hubSpareCmd, .hub, 0x500, 0x0, 1, 0x0, 1, [⟨0, 5, .wo, false⟩, ⟨5, 5, .wo, false⟩, ⟨10, 2, .wo, false⟩, ⟨63, 1, .wo, false⟩]⟩,
  ⟨.hubSpareSts, .hub, 0x508, 0x0, 1, 0x0, 1, [⟨0, 1, .ro, false⟩, ⟨1, 4, .ro, false⟩, ⟨5, 1, .w1c, false⟩, ⟨8, 5, .ro, false⟩, ⟨16, 16, .ro, false⟩]⟩,
  ⟨.hubRole, .hub, 0x600, 0x0, 1, 0x0, 1, [⟨0, 1, .ro, true⟩, ⟨1, 1, .ro, false⟩, ⟨2, 16, .ro, false⟩, ⟨18, 2, .ro, false⟩, ⟨20, 1, .wo, false⟩]⟩,
  ⟨.hubTicks, .hub, 0x700, 0x0, 1, 0x0, 1, [⟨0, 64, .ro, false⟩]⟩,
  ⟨.hubVfBind, .hub, 0x800, 0x10, 64, 0x0, 1, [⟨0, 3, .rw, false⟩, ⟨3, 1, .rw, false⟩, ⟨4, 1, .w1c, false⟩, ⟨5, 1, .w1c, false⟩]⟩,
  ⟨.hubVfQmask, .hub, 0x808, 0x10, 64, 0x0, 1, [⟨0, 64, .rw, false⟩]⟩,
  ⟨.hubBootSts, .hub, 0xC00, 0x0, 1, 0x0, 1, [⟨0, 3, .ro, false⟩, ⟨3, 5, .ro, false⟩, ⟨8, 1, .ro, false⟩, ⟨9, 3, .ro, false⟩, ⟨12, 1, .ro, false⟩, ⟨13, 1, .ro, false⟩, ⟨14, 18, .ro, false⟩, ⟨32, 16, .rws, false⟩]⟩,
  ⟨.hubCfgSts, .hub, 0xC08, 0x0, 1, 0x0, 1, [⟨0, 32, .ro, true⟩, ⟨32, 1, .ro, false⟩, ⟨33, 1, .ro, true⟩, ⟨34, 4, .ro, true⟩, ⟨38, 16, .ro, false⟩]⟩,
  ⟨.hubPcieSts, .hub, 0xC10, 0x0, 1, 0x0, 1, [⟨0, 1, .ro, false⟩, ⟨1, 3, .ro, false⟩, ⟨4, 4, .ro, false⟩, ⟨8, 1, .ro, false⟩, ⟨9, 1, .ro, false⟩, ⟨10, 1, .ro, false⟩, ⟨11, 16, .ro, false⟩, ⟨27, 1, .w1c, false⟩]⟩,
  ⟨.hubBar4Base, .hub, 0xC18, 0x0, 1, 0x0, 1, [⟨0, 48, .rw, false⟩]⟩,
  ⟨.hubRstCtl, .hub, 0xC20, 0x0, 1, 0x0, 1, [⟨0, 1, .rw, true⟩]⟩,
  ⟨.hubDebugSts, .hub, 0xC28, 0x0, 1, 0x0, 1, [⟨0, 2, .ro, false⟩, ⟨2, 1, .ro, false⟩, ⟨3, 16, .ro, false⟩]⟩,
  ⟨.hubMbxWin, .hub, 0xC30, 0x0, 1, 0x0, 1, [⟨0, 4, .rw, false⟩]⟩,
  ⟨.hubHcopyCfg, .hub, 0x1000, 0x20, 16, 0x0, 1, [⟨0, 7, .rw, false⟩, ⟨7, 3, .rw, false⟩, ⟨10, 1, .rw, false⟩, ⟨11, 4, .rw, false⟩, ⟨15, 1, .wo, false⟩]⟩,
  ⟨.hubHcopyBase, .hub, 0x1008, 0x20, 16, 0x0, 1, [⟨0, 48, .rw, false⟩]⟩]

def regRowsHub1 : List RegRow := [
  ⟨.hubHcopySts, .hub, 0x1010, 0x20, 16, 0x0, 1, [⟨0, 16, .ro, false⟩, ⟨16, 16, .ro, false⟩, ⟨32, 2, .ro, false⟩, ⟨34, 3, .ro, false⟩]⟩,
  ⟨.hubEvtRoute, .hub, 0x2000, 0x8, 512, 0x0, 1, [⟨0, 7, .rw, false⟩, ⟨7, 11, .rw, false⟩, ⟨18, 1, .rw, false⟩, ⟨19, 1, .w1c, false⟩, ⟨20, 16, .ro, false⟩]⟩,
  ⟨.hubNotify, .hub, 0x3000, 0x8, 256, 0x0, 1, [⟨0, 3, .rw, false⟩, ⟨3, 13, .rw, false⟩, ⟨16, 1, .rw, false⟩]⟩,
  ⟨.hubMbxCmd, .hub, 0x10000, 0x0, 1, 0x0, 1, [⟨0, 16, .rw, false⟩, ⟨16, 16, .rw, false⟩, ⟨32, 32, .rw, false⟩]⟩,
  ⟨.hubMbxSts, .hub, 0x10008, 0x0, 1, 0x0, 1, [⟨0, 1, .ro, false⟩, ⟨1, 1, .w1c, false⟩, ⟨2, 4, .ro, false⟩, ⟨6, 1, .ro, false⟩, ⟨16, 16, .ro, false⟩, ⟨32, 32, .ro, false⟩]⟩]

/-- The registers of block HUB_. -/
def regRowsHub : List RegRow := regRowsHub0 ++ regRowsHub1

def regRowsAsy0 : List RegRow := [
  ⟨.asySnapAll, .asy, 0x0, 0x0, 1, 0x0, 1, [⟨0, 1, .wo, false⟩, ⟨1, 1, .wo, false⟩]⟩,
  ⟨.asyCtrEv, .asy, 0x10, 0x0, 1, 0x0, 1, [⟨0, 26, .ro, false⟩, ⟨26, 1, .ro, false⟩, ⟨63, 1, .w1c, false⟩]⟩,
  ⟨.asyRisk, .asy, 0x100, 0x0, 1, 0x0, 1, [⟨0, 16, .ro, false⟩, ⟨16, 2, .ro, false⟩, ⟨18, 16, .rw, true⟩, ⟨34, 16, .rw, true⟩, ⟨50, 1, .rw, true⟩, ⟨51, 1, .w1c, false⟩]⟩,
  ⟨.asyReplica, .asy, 0x108, 0x0, 1, 0x0, 1, [⟨0, 18, .rw, true⟩, ⟨18, 8, .ro, true⟩, ⟨26, 8, .rw, true⟩, ⟨34, 1, .rw, false⟩, ⟨35, 1, .w1c, false⟩, ⟨36, 8, .rw, false⟩, ⟨44, 16, .rw, true⟩]⟩,
  ⟨.asyRoute, .asy, 0x140, 0x8, 4, 0x0, 1, [⟨0, 18, .rw, false⟩, ⟨18, 1, .rw, false⟩, ⟨19, 1, .rw, false⟩]⟩,
  ⟨.asyRiskTerm, .asy, 0x180, 0x8, 8, 0x0, 1, [⟨0, 16, .ro, false⟩, ⟨16, 16, .ro, false⟩]⟩,
  ⟨.asyRiskW, .asy, 0x1C0, 0x8, 8, 0x0, 1, [⟨0, 8, .rw, true⟩]⟩,
  ⟨.asyWear, .asy, 0x300, 0x8, 6, 0x0, 1, [⟨0, 16, .ro, false⟩, ⟨16, 16, .ro, false⟩, ⟨32, 16, .ro, false⟩, ⟨48, 8, .ro, false⟩]⟩,
  ⟨.asyWearCtl, .asy, 0x340, 0x0, 1, 0x0, 1, [⟨0, 16, .rw, true⟩]⟩,
  ⟨.asyNfSel, .asy, 0x400, 0x0, 1, 0x0, 1, [⟨0, 3, .rw, false⟩, ⟨3, 10, .rw, false⟩]⟩,
  ⟨.asyNfData, .asy, 0x408, 0x0, 1, 0x0, 1, [⟨0, 48, .ro, false⟩, ⟨63, 1, .rws, false⟩]⟩,
  ⟨.asyNfSum, .asy, 0x440, 0x8, 6, 0x0, 1, [⟨0, 10, .rc, false⟩, ⟨10, 22, .rc, false⟩, ⟨32, 10, .rc, false⟩, ⟨42, 16, .rc, false⟩]⟩]

/-- The registers of block ASY_. -/
def regRowsAsy : List RegRow := regRowsAsy0

def regRowsPwr0 : List RegRow := [
  ⟨.pwrCap, .pwr, 0x0, 0x0, 1, 0x0, 1, [⟨0, 12, .rw, true⟩, ⟨12, 4, .rw, true⟩, ⟨16, 1, .ro, true⟩]⟩,
  ⟨.pwrSts, .pwr, 0x8, 0x0, 1, 0x0, 1, [⟨0, 12, .ro, false⟩, ⟨12, 12, .ro, false⟩, ⟨24, 12, .rc, false⟩, ⟨36, 1, .ro, false⟩]⟩,
  ⟨.pwrGrant, .pwr, 0x100, 0x8, 6, 0x0, 1, [⟨0, 12, .rw, true⟩, ⟨12, 12, .rw, true⟩, ⟨24, 4, .rw, false⟩, ⟨28, 12, .ro, false⟩, ⟨40, 7, .ro, false⟩, ⟨47, 1, .ro, false⟩]⟩,
  ⟨.pwrSlack, .pwr, 0x200, 0x0, 1, 0x0, 1, [⟨0, 24, .rc, false⟩, ⟨24, 24, .ro, false⟩, ⟨48, 3, .ro, false⟩]⟩,
  ⟨.pwrDieSts, .pwr, 0x400, 0x8, 26, 0x0, 1, [⟨0, 7, .ro, false⟩, ⟨7, 3, .ro, false⟩, ⟨10, 4, .ro, false⟩, ⟨14, 5, .ro, false⟩, ⟨19, 1, .w1c, false⟩]⟩,
  ⟨.pwrDroop, .pwr, 0x500, 0x8, 26, 0x0, 1, [⟨0, 48, .ro, false⟩, ⟨63, 1, .rws, false⟩]⟩]

/-- The registers of block PWR_. -/
def regRowsPwr : List RegRow := regRowsPwr0

def regRowsTmp0 : List RegRow := [
  ⟨.tmpCtl, .tmp, 0x0, 0x0, 1, 0x0, 1, [⟨0, 10, .rw, false⟩, ⟨10, 7, .rw, false⟩, ⟨17, 8, .rw, false⟩, ⟨25, 8, .rw, false⟩, ⟨33, 8, .rw, false⟩, ⟨41, 8, .rw, false⟩, ⟨49, 7, .rw, false⟩]⟩,
  ⟨.tmpDie, .tmp, 0x100, 0x8, 32, 0x0, 1, [⟨0, 11, .ro, false⟩, ⟨11, 6, .ro, false⟩, ⟨17, 12, .ro, false⟩, ⟨29, 1, .ro, false⟩, ⟨30, 1, .w1c, false⟩, ⟨31, 1, .rws, false⟩]⟩,
  ⟨.tmpHbm, .tmp, 0x200, 0x8, 12, 0x0, 1, [⟨0, 11, .ro, false⟩, ⟨11, 1, .ro, false⟩]⟩]

/-- The registers of block TMP_. -/
def regRowsTmp : List RegRow := regRowsTmp0

def regRowsFab0 : List RegRow := [
  ⟨.fabShape, .fab, 0x0, 0x0, 1, 0x0, 1, [⟨0, 6, .rw, false⟩, ⟨6, 6, .rw, false⟩, ⟨12, 6, .rw, false⟩, ⟨18, 6, .rw, false⟩, ⟨24, 6, .rw, false⟩, ⟨30, 6, .rw, false⟩, ⟨36, 1, .rw, false⟩, ⟨37, 1, .rw, false⟩, ⟨38, 1, .rw, false⟩]⟩,
  ⟨.fabPhys, .fab, 0x8, 0x0, 1, 0x0, 1, [⟨0, 6, .ro, true⟩, ⟨6, 6, .ro, true⟩, ⟨12, 6, .ro, true⟩, ⟨18, 6, .ro, true⟩, ⟨24, 6, .ro, true⟩, ⟨30, 6, .ro, true⟩, ⟨36, 1, .ro, true⟩, ⟨37, 1, .ro, true⟩, ⟨38, 1, .ro, true⟩, ⟨39, 1, .ro, true⟩, ⟨40, 8, .ro, false⟩]⟩,
  ⟨.fabDir, .fab, 0x10, 0x8, 6, 0x0, 1, [⟨0, 3, .rw, true⟩, ⟨3, 1, .rw, true⟩, ⟨4, 1, .rw, false⟩, ⟨48, 16, .ro, false⟩]⟩,
  ⟨.fabPool, .fab, 0x40, 0x0, 1, 0x0, 1, [⟨0, 8, .rw, false⟩, ⟨8, 8, .rw, false⟩, ⟨16, 8, .rw, false⟩, ⟨24, 8, .rw, false⟩]⟩,
  ⟨.fabAckCtl, .fab, 0x48, 0x0, 1, 0x0, 1, [⟨0, 16, .rw, false⟩]⟩,
  ⟨.fabReloc, .fab, 0x50, 0x8, 8, 0x0, 1, [⟨0, 18, .rw, false⟩, ⟨18, 18, .rw, false⟩, ⟨36, 1, .rw, false⟩, ⟨48, 16, .ro, false⟩]⟩,
  ⟨.fabHole, .fab, 0x90, 0x8, 4, 0x0, 1, [⟨0, 18, .rw, false⟩, ⟨18, 1, .rw, false⟩, ⟨48, 16, .ro, false⟩]⟩,
  ⟨.fabAppl, .fab, 0xB0, 0x8, 4, 0x0, 1, [⟨0, 18, .rw, false⟩, ⟨18, 18, .rw, false⟩, ⟨36, 1, .rw, false⟩, ⟨37, 1, .rw, false⟩]⟩,
  ⟨.fabReplays, .fab, 0x100, 0x8, 8, 0x0, 1, [⟨0, 48, .ro, false⟩, ⟨63, 1, .rws, false⟩]⟩,
  ⟨.fabStomped, .fab, 0x140, 0x0, 1, 0x0, 1, [⟨0, 48, .ro, false⟩, ⟨63, 1, .rws, false⟩]⟩,
  ⟨.fabBadpkt, .fab, 0x148, 0x0, 1, 0x0, 1, [⟨0, 48, .ro, false⟩, ⟨63, 1, .rws, false⟩]⟩,
  ⟨.fabTxvol, .fab, 0x200, 0x20, 8, 0x0, 1, [⟨0, 64, .ro, false⟩]⟩,
  ⟨.fabTxvole, .fab, 0x208, 0x20, 8, 0x0, 1, [⟨0, 8, .ro, false⟩, ⟨8, 1, .wo, false⟩]⟩,
  ⟨.fabRxvol, .fab, 0x210, 0x20, 8, 0x0, 1, [⟨0, 64, .ro, false⟩]⟩,
  ⟨.fabRxvole, .fab, 0x218, 0x20, 8, 0x0, 1, [⟨0, 8, .ro, false⟩, ⟨8, 1, .wo, false⟩]⟩]

/-- The registers of block FAB_. -/
def regRowsFab : List RegRow := regRowsFab0

def regRowsSlc0 : List RegRow := [
  ⟨.slcMap, .slc, 0x0, 0x0, 1, 0x0, 1, [⟨0, 4, .ro, false⟩, ⟨4, 4, .ro, false⟩, ⟨8, 4, .ro, false⟩, ⟨12, 4, .ro, false⟩, ⟨16, 4, .ro, false⟩, ⟨20, 4, .ro, false⟩, ⟨24, 4, .ro, false⟩, ⟨28, 4, .ro, false⟩, ⟨32, 16, .ro, false⟩]⟩,
  ⟨.slcMapNext, .slc, 0x8, 0x0, 1, 0x0, 1, [⟨0, 4, .rw, true⟩, ⟨4, 4, .rw, true⟩, ⟨8, 4, .rw, true⟩, ⟨12, 4, .rw, true⟩, ⟨16, 4, .rw, true⟩, ⟨20, 4, .rw, true⟩, ⟨24, 4, .rw, true⟩, ⟨28, 4, .rw, true⟩]⟩,
  ⟨.slcCtl, .slc, 0x10, 0x0, 1, 0x0, 1, [⟨0, 1, .wo, false⟩, ⟨1, 1, .wo, false⟩, ⟨2, 1, .rw, true⟩, ⟨8, 8, .rw, false⟩]⟩,
  ⟨.slcSts, .slc, 0x18, 0x0, 1, 0x0, 1, [⟨0, 1, .ro, false⟩, ⟨1, 2, .ro, false⟩, ⟨3, 1, .w1c, false⟩, ⟨4, 16, .ro, false⟩, ⟨20, 4, .ro, false⟩]⟩]

/-- The registers of block SLC_. -/
def regRowsSlc : List RegRow := regRowsSlc0

def regRowsFnt0 : List RegRow := [
  ⟨.fntPortCtl, .fnt, 0x100, 0x800, 2, 0x0, 1, [⟨0, 1, .rw, true⟩, ⟨1, 1, .rw, true⟩, ⟨2, 1, .wo, false⟩, ⟨3, 1, .rw, false⟩, ⟨4, 1, .rw, false⟩, ⟨8, 8, .rw, true⟩, ⟨16, 16, .rw, true⟩, ⟨32, 4, .wo, false⟩, ⟨36, 1, .wo, false⟩, ⟨37, 5, .wo, false⟩, ⟨42, 1, .wo, false⟩]⟩,
  ⟨.fntPortSts, .fnt, 0x108, 0x800, 2, 0x0, 1, [⟨0, 3, .ro, false⟩, ⟨3, 1, .ro, false⟩, ⟨4, 2, .ro, false⟩, ⟨6, 2, .ro, false⟩, ⟨8, 1, .ro, false⟩, ⟨9, 1, .w1c, false⟩, ⟨10, 1, .w1c, false⟩, ⟨11, 1, .ro, false⟩, ⟨12, 1, .w1c, false⟩, ⟨13, 3, .ro, false⟩, ⟨16, 18, .ro, false⟩, ⟨34, 3, .ro, false⟩, ⟨37, 16, .ro, false⟩]⟩,
  ⟨.fntTxMap0, .fnt, 0x110, 0x800, 2, 0x0, 1, [⟨0, 5, .ro, true⟩, ⟨5, 5, .ro, true⟩, ⟨10, 5, .ro, true⟩, ⟨15, 5, .ro, true⟩, ⟨20, 5, .ro, true⟩, ⟨25, 5, .ro, true⟩, ⟨30, 5, .ro, true⟩, ⟨35, 5, .ro, true⟩, ⟨48, 16, .ro, false⟩]⟩,
  ⟨.fntTxMap1, .fnt, 0x118, 0x800, 2, 0x0, 1, [⟨0, 5, .ro, true⟩, ⟨5, 5, .ro, true⟩, ⟨10, 5, .ro, true⟩, ⟨15, 5, .ro, true⟩, ⟨20, 5, .ro, true⟩, ⟨25, 5, .ro, true⟩, ⟨30, 5, .ro, true⟩, ⟨35, 5, .ro, true⟩, ⟨48, 16, .ro, false⟩]⟩,
  ⟨.fntRxMap0, .fnt, 0x120, 0x800, 2, 0x0, 1, [⟨0, 5, .ro, true⟩, ⟨5, 5, .ro, true⟩, ⟨10, 5, .ro, true⟩, ⟨15, 5, .ro, true⟩, ⟨20, 5, .ro, true⟩, ⟨25, 5, .ro, true⟩, ⟨30, 5, .ro, true⟩, ⟨35, 5, .ro, true⟩, ⟨48, 16, .ro, false⟩]⟩,
  ⟨.fntRxMap1, .fnt, 0x128, 0x800, 2, 0x0, 1, [⟨0, 5, .ro, true⟩, ⟨5, 5, .ro, true⟩, ⟨10, 5, .ro, true⟩, ⟨15, 5, .ro, true⟩, ⟨20, 5, .ro, true⟩, ⟨25, 5, .ro, true⟩, ⟨30, 5, .ro, true⟩, ⟨35, 5, .ro, true⟩, ⟨48, 16, .ro, false⟩]⟩,
  ⟨.fntLaneBer, .fnt, 0x130, 0x800, 2, 0x8, 4, [⟨0, 16, .ro, false⟩, ⟨16, 16, .ro, false⟩, ⟨32, 16, .ro, false⟩, ⟨48, 16, .ro, false⟩]⟩,
  ⟨.fntFecCorr, .fnt, 0x150, 0x800, 2, 0x0, 1, [⟨0, 48, .ro, false⟩, ⟨63, 1, .rws, false⟩]⟩,
  ⟨.fntFecUncorr, .fnt, 0x158, 0x800, 2, 0x0, 1, [⟨0, 48, .ro, false⟩, ⟨63, 1, .rws, false⟩]⟩,
  ⟨.fntRemaps, .fnt, 0x160, 0x800, 2, 0x0, 1, [⟨0, 48, .ro, false⟩, ⟨63, 1, .rws, false⟩]⟩,
  ⟨.fntLos, .fnt, 0x168, 0x800, 2, 0x0, 1, [⟨0, 48, .ro, false⟩, ⟨63, 1, .rws, false⟩]⟩,
  ⟨.fntLaser, .fnt, 0x200, 0x800, 2, 0x8, 18, [⟨0, 3, .ro, true⟩, ⟨3, 5, .ro, true⟩, ⟨8, 12, .ro, false⟩, ⟨20, 12, .ro, true⟩, ⟨32, 10, .ro, false⟩, ⟨42, 8, .ro, false⟩]⟩,
  ⟨.fntWeirCmd, .fnt, 0x300, 0x800, 2, 0x0, 1, [⟨0, 3, .wo, false⟩, ⟨3, 5, .wo, false⟩, ⟨8, 5, .wo, false⟩, ⟨13, 3, .wo, false⟩, ⟨63, 1, .wo, false⟩]⟩,
  ⟨.fntWeirRes, .fnt, 0x308, 0x800, 2, 0x0, 1, [⟨0, 32, .ro, false⟩, ⟨32, 8, .ro, false⟩, ⟨40, 1, .ro, false⟩, ⟨41, 1, .ro, false⟩, ⟨42, 1, .ro, false⟩]⟩]

/-- The registers of block FNT_. -/
def regRowsFnt : List RegRow := regRowsFnt0

def regRowsHbm0 : List RegRow := [
  ⟨.hbmStackSts, .hbm, 0x0, 0x0, 1, 0x0, 1, [⟨0, 3, .ro, false⟩, ⟨3, 1, .ro, true⟩, ⟨4, 3, .ro, true⟩, ⟨7, 1, .ro, true⟩, ⟨8, 6, .ro, true⟩, ⟨14, 4, .ro, true⟩, ⟨18, 1, .ro, false⟩, ⟨19, 1, .w1c, false⟩]⟩,
  ⟨.hbmLostMap, .hbm, 0x8, 0x0, 1, 0x0, 1, [⟨0, 64, .ro, true⟩]⟩,
  ⟨.hbmRebuild, .hbm, 0x10, 0x0, 1, 0x0, 1, [⟨0, 23, .ro, false⟩, ⟨23, 6, .ro, false⟩, ⟨29, 2, .ro, false⟩, ⟨32, 8, .rw, false⟩]⟩,
  ⟨.hbmSpareCmd, .hbm, 0x18, 0x0, 1, 0x0, 1, [⟨0, 6, .wo, false⟩, ⟨63, 1, .wo, false⟩]⟩,
  ⟨.hbmCeCount, .hbm, 0x20, 0x0, 1, 0x0, 1, [⟨0, 48, .ro, false⟩, ⟨63, 1, .rws, false⟩]⟩,
  ⟨.hbmUeCount, .hbm, 0x28, 0x0, 1, 0x0, 1, [⟨0, 48, .ro, false⟩, ⟨63, 1, .rws, false⟩]⟩,
  ⟨.hbmReconCount, .hbm, 0x30, 0x0, 1, 0x0, 1, [⟨0, 48, .ro, false⟩, ⟨63, 1, .rws, false⟩]⟩,
  ⟨.hbmUeLog, .hbm, 0x38, 0x0, 1, 0x0, 1, [⟨0, 48, .ro, false⟩, ⟨48, 6, .ro, false⟩, ⟨54, 1, .ro, false⟩, ⟨63, 1, .w1c, false⟩]⟩,
  ⟨.hbmUrgentMax, .hbm, 0x40, 0x0, 1, 0x0, 1, [⟨0, 16, .rc, false⟩]⟩,
  ⟨.hbmScrubCtl, .hbm, 0x48, 0x0, 1, 0x0, 1, [⟨0, 1, .rw, false⟩, ⟨1, 8, .rw, false⟩, ⟨16, 16, .ro, false⟩]⟩,
  ⟨.hbmRdvol, .hbm, 0x80, 0x0, 1, 0x0, 1, [⟨0, 64, .ro, false⟩]⟩,
  ⟨.hbmRdvole, .hbm, 0x88, 0x0, 1, 0x0, 1, [⟨0, 8, .ro, false⟩, ⟨8, 1, .wo, false⟩]⟩,
  ⟨.hbmWrvol, .hbm, 0x90, 0x0, 1, 0x0, 1, [⟨0, 64, .ro, false⟩]⟩,
  ⟨.hbmWrvole, .hbm, 0x98, 0x0, 1, 0x0, 1, [⟨0, 8, .ro, false⟩, ⟨8, 1, .wo, false⟩]⟩]

/-- The registers of block HBM_. -/
def regRowsHbm : List RegRow := regRowsHbm0

def regRowsBsn0 : List RegRow := [
  ⟨.bsnDieMap, .bsn, 0x40, 0x0, 1, 0x0, 1, [⟨0, 5, .ro, true⟩, ⟨5, 5, .ro, true⟩, ⟨10, 5, .ro, true⟩, ⟨15, 5, .ro, true⟩, ⟨20, 5, .ro, true⟩, ⟨25, 3, .ro, true⟩, ⟨32, 16, .ro, false⟩]⟩,
  ⟨.bsnBatchCfg, .bsn, 0x200, 0x20, 8, 0x0, 1, [⟨0, 1, .rw, false⟩, ⟨1, 1, .rw, false⟩, ⟨2, 1, .rw, false⟩, ⟨3, 6, .rw, false⟩, ⟨16, 8, .rw, false⟩, ⟨24, 32, .rw, false⟩, ⟨56, 1, .wo, false⟩]⟩,
  ⟨.bsnBatchBuf, .bsn, 0x208, 0x20, 8, 0x0, 1, [⟨0, 48, .rw, false⟩]⟩,
  ⟨.bsnBatchSts, .bsn, 0x210, 0x20, 8, 0x0, 1, [⟨0, 11, .ro, false⟩, ⟨11, 2, .ro, false⟩, ⟨13, 1, .ro, false⟩, ⟨14, 1, .w1c, false⟩, ⟨15, 32, .ro, false⟩, ⟨47, 9, .ro, false⟩, ⟨56, 2, .ro, false⟩]⟩,
  ⟨.bsnNanTrapCtl, .bsn, 0x300, 0x0, 1, 0x0, 1, [⟨0, 1, .rw, false⟩, ⟨1, 1, .rw, false⟩, ⟨2, 1, .ro, false⟩, ⟨3, 1, .w1c, false⟩, ⟨4, 16, .ro, false⟩]⟩,
  ⟨.bsnNanTrapId0, .bsn, 0x308, 0x0, 1, 0x0, 1, [⟨0, 32, .ro, false⟩, ⟨32, 16, .ro, false⟩, ⟨48, 6, .ro, false⟩, ⟨54, 2, .ro, false⟩, ⟨56, 3, .ro, false⟩, ⟨59, 2, .ro, false⟩]⟩,
  ⟨.bsnNanTrapId1, .bsn, 0x310, 0x0, 1, 0x0, 1, [⟨0, 48, .ro, false⟩]⟩,
  ⟨.bsnNanTrapId2, .bsn, 0x318, 0x0, 1, 0x0, 1, [⟨0, 32, .ro, false⟩]⟩,
  ⟨.bsnStep, .bsn, 0x400, 0x0, 1, 0x0, 1, [⟨0, 64, .rw, false⟩]⟩,
  ⟨.bsnAgreeSts, .bsn, 0x408, 0x0, 1, 0x0, 1, [⟨0, 2, .ro, false⟩, ⟨2, 1, .ro, false⟩, ⟨3, 1, .ro, false⟩, ⟨4, 1, .ro, false⟩, ⟨5, 1, .ro, false⟩, ⟨6, 1, .ro, false⟩, ⟨7, 1, .ro, false⟩, ⟨8, 2, .ro, false⟩, ⟨10, 32, .ro, false⟩, ⟨42, 2, .ro, false⟩, ⟨44, 1, .w1c, false⟩, ⟨45, 8, .ro, false⟩, ⟨53, 8, .ro, false⟩]⟩,
  ⟨.bsnAgreeCtl, .bsn, 0x410, 0x0, 1, 0x0, 1, [⟨0, 24, .rw, false⟩, ⟨24, 1, .wo, false⟩, ⟨25, 1, .wo, false⟩, ⟨26, 32, .wo, false⟩, ⟨58, 1, .wo, false⟩]⟩,
  ⟨.bsnStepStale, .bsn, 0x418, 0x0, 1, 0x0, 1, [⟨0, 48, .ro, false⟩, ⟨63, 1, .rws, false⟩]⟩,
  ⟨.bsnSealDrops, .bsn, 0x420, 0x0, 1, 0x0, 1, [⟨0, 48, .ro, false⟩, ⟨63, 1, .rws, false⟩]⟩,
  ⟨.bsnLossScale, .bsn, 0x428, 0x0, 1, 0x0, 1, [⟨0, 8, .rw, false⟩, ⟨8, 3, .rw, false⟩, ⟨11, 3, .rw, false⟩, ⟨14, 8, .rw, false⟩, ⟨22, 8, .rw, false⟩, ⟨30, 16, .rw, false⟩, ⟨46, 16, .ro, false⟩]⟩,
  ⟨.bsnAmaxBase, .bsn, 0x430, 0x0, 1, 0x0, 1, [⟨0, 48, .rw, false⟩]⟩,
  ⟨.bsnGenSeed, .bsn, 0x480, 0x0, 1, 0x0, 1, [⟨0, 64, .rw, false⟩]⟩]

def regRowsBsn1 : List RegRow := [
  ⟨.bsnGenCtl, .bsn, 0x488, 0x0, 1, 0x0, 1, [⟨0, 1, .rw, false⟩]⟩,
  ⟨.bsnLossIn, .bsn, 0x4C0, 0x0, 1, 0x0, 1, [⟨0, 32, .wo, false⟩]⟩,
  ⟨.bsnLossCtl, .bsn, 0x4C8, 0x0, 1, 0x0, 1, [⟨0, 4, .rw, false⟩, ⟨4, 8, .rw, false⟩, ⟨12, 16, .rw, false⟩, ⟨28, 1, .wo, false⟩]⟩,
  ⟨.bsnLossAvg, .bsn, 0x4D0, 0x0, 1, 0x0, 1, [⟨0, 32, .ro, false⟩]⟩,
  ⟨.bsnLossSpikes, .bsn, 0x4D8, 0x0, 1, 0x0, 1, [⟨0, 48, .ro, false⟩, ⟨63, 1, .rws, false⟩]⟩,
  ⟨.bsnLossNf, .bsn, 0x4E0, 0x0, 1, 0x0, 1, [⟨0, 48, .ro, false⟩, ⟨63, 1, .rws, false⟩]⟩,
  ⟨.bsnTemperT, .bsn, 0x500, 0x0, 1, 0x0, 1, [⟨0, 64, .rw, false⟩]⟩,
  ⟨.bsnQCfg, .bsn, 0x600, 0x10, 64, 0x0, 1, [⟨0, 48, .rw, false⟩, ⟨48, 4, .rw, false⟩, ⟨52, 1, .rw, false⟩, ⟨53, 1, .rw, false⟩, ⟨54, 1, .wo, false⟩, ⟨55, 1, .wo, false⟩]⟩,
  ⟨.bsnQSts, .bsn, 0x608, 0x10, 64, 0x0, 1, [⟨0, 16, .ro, false⟩, ⟨16, 16, .ro, false⟩, ⟨32, 16, .ro, false⟩, ⟨48, 3, .ro, false⟩, ⟨51, 4, .ro, false⟩, ⟨55, 1, .w1c, false⟩]⟩,
  ⟨.bsnPourSet, .bsn, 0xA00, 0x0, 1, 0x0, 1, [⟨0, 64, .rw, false⟩]⟩,
  ⟨.bsnPourBase, .bsn, 0xA08, 0x0, 1, 0x0, 1, [⟨0, 48, .rw, false⟩]⟩,
  ⟨.bsnPourSts, .bsn, 0xA10, 0x0, 1, 0x0, 1, [⟨0, 32, .ro, false⟩, ⟨32, 1, .ro, false⟩, ⟨33, 1, .ro, false⟩, ⟨34, 1, .ro, false⟩, ⟨35, 16, .ro, false⟩]⟩,
  ⟨.bsnLatchShadow, .bsn, 0xA18, 0x0, 1, 0x0, 1, [⟨0, 48, .rw, false⟩]⟩,
  ⟨.bsnSlice, .bsn, 0xA20, 0x0, 1, 0x0, 1, [⟨0, 16, .rw, false⟩]⟩,
  ⟨.bsnJobPos, .bsn, 0xA28, 0x0, 1, 0x0, 1, [⟨0, 6, .rw, false⟩, ⟨6, 6, .rw, false⟩, ⟨12, 6, .rw, false⟩, ⟨18, 6, .rw, false⟩, ⟨24, 6, .rw, false⟩, ⟨30, 6, .rw, false⟩, ⟨36, 18, .rw, false⟩]⟩,
  ⟨.bsnSideMax, .bsn, 0xA30, 0x0, 1, 0x0, 1, [⟨0, 32, .rw, false⟩]⟩]

def regRowsBsn2 : List RegRow := [
  ⟨.bsnSliceDrops, .bsn, 0xA38, 0x0, 1, 0x0, 1, [⟨0, 48, .ro, false⟩, ⟨63, 1, .rws, false⟩]⟩,
  ⟨.bsnFlowBase, .bsn, 0xA40, 0x0, 1, 0x0, 1, [⟨0, 48, .rw, false⟩]⟩,
  ⟨.bsnFlowResends, .bsn, 0xA48, 0x0, 1, 0x0, 1, [⟨0, 48, .ro, false⟩, ⟨63, 1, .rws, false⟩]⟩,
  ⟨.bsnFlowDups, .bsn, 0xA50, 0x0, 1, 0x0, 1, [⟨0, 48, .ro, false⟩, ⟨63, 1, .rws, false⟩]⟩,
  ⟨.bsnFlowGaps, .bsn, 0xA58, 0x0, 1, 0x0, 1, [⟨0, 48, .ro, false⟩, ⟨63, 1, .rws, false⟩]⟩,
  ⟨.bsnPortEn, .bsn, 0xA60, 0x0, 1, 0x0, 1, [⟨0, 1, .rw, false⟩, ⟨1, 1, .rw, false⟩]⟩,
  ⟨.bsnBarCtx, .bsn, 0xB00, 0x10, 16, 0x0, 1, [⟨0, 48, .rw, false⟩, ⟨48, 16, .rw, false⟩]⟩,
  ⟨.bsnBarSts, .bsn, 0xB08, 0x10, 16, 0x0, 1, [⟨0, 32, .ro, false⟩, ⟨32, 5, .ro, false⟩, ⟨37, 2, .ro, false⟩, ⟨39, 1, .w1c, false⟩, ⟨40, 1, .ro, false⟩, ⟨41, 1, .wo, false⟩]⟩,
  ⟨.bsnWdog, .bsn, 0xC00, 0x0, 1, 0x0, 1, [⟨0, 24, .rw, false⟩, ⟨24, 24, .ro, false⟩, ⟨48, 1, .w1c, false⟩]⟩,
  ⟨.bsnQuench, .bsn, 0xC08, 0x0, 1, 0x0, 1, [⟨0, 2, .ro, false⟩, ⟨2, 3, .ro, false⟩, ⟨5, 16, .ro, false⟩, ⟨21, 1, .wo, false⟩, ⟨22, 1, .wo, false⟩]⟩,
  ⟨.bsnSecureBase, .bsn, 0xC10, 0x0, 1, 0x0, 1, [⟨0, 48, .rw, false⟩]⟩,
  ⟨.bsnSecureCmd, .bsn, 0xC18, 0x0, 1, 0x0, 1, [⟨0, 32, .wo, false⟩, ⟨32, 1, .wo, false⟩, ⟨63, 1, .wo, false⟩]⟩,
  ⟨.bsnSecureSts, .bsn, 0xC20, 0x0, 1, 0x0, 1, [⟨0, 2, .ro, false⟩, ⟨2, 11, .ro, false⟩, ⟨13, 11, .ro, false⟩, ⟨24, 32, .ro, false⟩, ⟨56, 3, .ro, false⟩, ⟨59, 1, .w1c, false⟩]⟩,
  ⟨.bsnRecover, .bsn, 0xC28, 0x0, 1, 0x0, 1, [⟨0, 3, .wo, false⟩, ⟨3, 32, .wo, false⟩, ⟨35, 18, .wo, false⟩, ⟨53, 1, .ro, false⟩, ⟨54, 3, .ro, false⟩, ⟨63, 1, .wo, false⟩]⟩,
  ⟨.bsnWake, .bsn, 0xD00, 0x0, 1, 0x0, 1, [⟨0, 1, .rw, false⟩, ⟨1, 24, .rw, false⟩, ⟨25, 20, .ro, false⟩, ⟨45, 16, .ro, false⟩, ⟨61, 1, .wo, false⟩]⟩,
  ⟨.bsnSlack, .bsn, 0xD08, 0x0, 1, 0x0, 1, [⟨0, 24, .ro, false⟩, ⟨24, 24, .ro, false⟩, ⟨48, 16, .ro, false⟩]⟩]

def regRowsBsn3 : List RegRow := [
  ⟨.bsnTxvol, .bsn, 0xE00, 0x10, 3, 0x0, 1, [⟨0, 64, .ro, false⟩]⟩,
  ⟨.bsnTxvole, .bsn, 0xE08, 0x10, 3, 0x0, 1, [⟨0, 8, .ro, false⟩, ⟨8, 1, .wo, false⟩]⟩,
  ⟨.bsnRxvol, .bsn, 0xE40, 0x10, 3, 0x0, 1, [⟨0, 64, .ro, false⟩]⟩,
  ⟨.bsnRxvole, .bsn, 0xE48, 0x10, 3, 0x0, 1, [⟨0, 8, .ro, false⟩, ⟨8, 1, .wo, false⟩]⟩]

/-- The registers of block BSN_. -/
def regRowsBsn : List RegRow := regRowsBsn0 ++ regRowsBsn1 ++ regRowsBsn2 ++ regRowsBsn3

def regRowsFge0 : List RegRow := [
  ⟨.fgeTemperSts, .fge, 0x100, 0x0, 1, 0x0, 1, [⟨0, 2, .ro, false⟩, ⟨2, 3, .ro, false⟩, ⟨5, 6, .ro, false⟩, ⟨11, 1, .ro, false⟩, ⟨12, 1, .w1c, false⟩, ⟨13, 3, .ro, false⟩, ⟨16, 16, .ro, true⟩, ⟨32, 16, .ro, true⟩]⟩,
  ⟨.fgeLadleCfg, .fge, 0x200, 0x0, 1, 0x0, 1, [⟨0, 16, .rw, false⟩, ⟨16, 10, .rw, false⟩]⟩,
  ⟨.fgeLadleSts, .fge, 0x208, 0x0, 1, 0x0, 1, [⟨0, 1, .ro, false⟩, ⟨1, 6, .ro, false⟩, ⟨7, 6, .ro, false⟩, ⟨13, 1, .ro, false⟩, ⟨14, 11, .ro, false⟩, ⟨25, 3, .ro, false⟩, ⟨28, 1, .w1c, false⟩]⟩]

/-- The registers of block FGE_. -/
def regRowsFge : List RegRow := regRowsFge0

def regRowsCls0 : List RegRow := [
  ⟨.clsArraySts, .cls, 0x100, 0x0, 1, 0x0, 1, [⟨0, 2, .ro, false⟩, ⟨2, 1, .ro, false⟩, ⟨3, 1, .ro, false⟩, ⟨4, 1, .ro, false⟩, ⟨5, 1, .w1c, false⟩, ⟨6, 1, .w1c, false⟩, ⟨7, 9, .ro, false⟩]⟩,
  ⟨.clsSpareRows, .cls, 0x110, 0x0, 1, 0x0, 1, [⟨0, 8, .ro, true⟩, ⟨8, 8, .ro, true⟩, ⟨16, 8, .ro, true⟩, ⟨24, 8, .ro, true⟩, ⟨32, 4, .ro, true⟩, ⟨36, 4, .ro, true⟩, ⟨48, 16, .ro, false⟩]⟩,
  ⟨.clsSpareCols, .cls, 0x118, 0x0, 1, 0x0, 1, [⟨0, 8, .ro, true⟩, ⟨8, 8, .ro, true⟩, ⟨16, 8, .ro, true⟩, ⟨24, 8, .ro, true⟩, ⟨32, 4, .ro, true⟩, ⟨36, 4, .ro, true⟩, ⟨48, 16, .ro, false⟩]⟩,
  ⟨.clsCisternSts, .cls, 0x120, 0x0, 1, 0x0, 1, [⟨0, 9, .ro, true⟩, ⟨9, 6, .ro, true⟩, ⟨15, 13, .ro, true⟩, ⟨28, 1, .w1c, false⟩, ⟨29, 25, .ro, false⟩]⟩,
  ⟨.clsCisternCe, .cls, 0x128, 0x0, 1, 0x0, 1, [⟨0, 48, .ro, false⟩, ⟨63, 1, .rws, false⟩]⟩,
  ⟨.clsStreamConflict, .cls, 0x130, 0x0, 1, 0x0, 1, [⟨0, 48, .ro, false⟩, ⟨63, 1, .rws, false⟩]⟩,
  ⟨.clsPasses, .cls, 0x140, 0x0, 1, 0x0, 1, [⟨0, 48, .ro, false⟩, ⟨63, 1, .rws, false⟩]⟩,
  ⟨.clsPassWait, .cls, 0x148, 0x0, 1, 0x0, 1, [⟨0, 48, .ro, false⟩, ⟨63, 1, .rws, false⟩]⟩,
  ⟨.clsArrayFaults, .cls, 0x150, 0x0, 1, 0x0, 1, [⟨0, 48, .ro, false⟩, ⟨63, 1, .rws, false⟩]⟩,
  ⟨.clsSeqSts, .cls, 0x200, 0x8, 2, 0x0, 1, [⟨0, 3, .ro, false⟩, ⟨3, 4, .ro, false⟩, ⟨8, 16, .ro, false⟩, ⟨24, 25, .ro, false⟩]⟩,
  ⟨.clsSeqRefused, .cls, 0x210, 0x8, 2, 0x0, 1, [⟨0, 48, .ro, false⟩, ⟨63, 1, .rws, false⟩]⟩]

/-- The registers of block CLS_. -/
def regRowsCls : List RegRow := regRowsCls0

/-- SNAP, at offset 0xFFF8 of every block (R461). -/
def snapRow (b : Block) : RegRow :=
  ⟨.anySnap, b, 0xFFF8, 0, 1, 0, 1, [⟨0, 1, .wo, false⟩, ⟨1, 1, .wo, false⟩, ⟨2, 1, .ro, false⟩, ⟨16, 32, .ro, false⟩]⟩

/-- The rows of a block. -/
def Block.rows (b : Block) : List RegRow :=
  (match b with
   | .hub => regRowsHub
   | .asy => regRowsAsy
   | .pwr => regRowsPwr
   | .tmp => regRowsTmp
   | .fab => regRowsFab
   | .slc => regRowsSlc
   | .fnt => regRowsFnt
   | .hbm => regRowsHbm
   | .bsn => regRowsBsn
   | .fge => regRowsFge
   | .cls => regRowsCls) ++ [snapRow b]

end Sys2Proof.Machine
end

