-- ==== Sys2Proof/Machine/State.lean ====
section
/-! DEFINITION. The state of the part. -/
namespace Sys2Proof.Machine

/-- What the part has sent out of its pins and links, newest first; nothing in the part reads it back (log entry 3). -/
inductive Out where
  | packet (hdr : Nat) (payload : List Byte)
  | msix (func vector : Nat)
  | inband (event : Nat)
  | rdata (who : Agent) (val : Nat)
  | ur (who : Agent)
  | dropped (who : Agent)
  | poisoned (who : Agent)
  | bytes (who : Agent) (data : List Byte)
  | tap (bits : Nat)
  | hostWrite (addr : Nat) (data : List Byte)
  | lastGasp (partner cause : Nat) (g : Gasp)
  | ingots (coord basin step count : Nat)
  | invalidated (func : Nat)
  | mctp (data : List Byte)
  | frame (port word : Nat)
  | link (port hdr : Nat) (payload : List Byte)
  | coded (port : Nat) (lanes : List (Nat × List Nat))
  | light (port mask : Nat)
  | marker (port wave : Nat)
  deriving DecidableEq, Repr

/-- The modes in force (R4) that no register shows. -/
structure Modes where
  sheltered : Bool := true
  native : Bool := true
  boost : Bool := false
  deriving DecidableEq, Repr

/-- The part without its security unit: everything that runs or moves data. `part` and `partRows` are the part record as last
committed (R443): the recorded registers' fields and the spare-row maps; `mesh` the packets between the package's own dies (R14);
`picks` the spares chosen in the present slow tick (R21); `vacated` the slot that a die left empty when it became a spare (R23);
`held` and `heldReqs` the stacks whose requests are held and those requests (R249); `ueSeenAt` the uncorrectable granules of the last
millisecond, by pseudo-channel (R249); `irqs` the messages that wait for the link or for their vector's mask to go (R364, R429). -/
structure Chip where
  regs : Map Word := []
  mem : Mem := {}
  poison : List Nat := []
  free : Nat := 0
  out : List Out := []
  modes : Modes := {}
  clusters : Map Cluster := []
  kerns : List Kern := []
  basins : Map Basin := []
  dies : Map DieP := []
  temper : Map TemperU := []
  ladle : Map LadleU := []
  ops : List Op := []
  unacked : List Unacked := []
  nextId : Nat := 1
  losses : Nat := 0
  images : Map (Map Word) := []
  msixMask : List (Nat × Nat) := []
  routers : List Nat := []
  deadStacks : List Nat := []
  spareCmd : Option SpareCmd := none
  spareDead : List Nat := []
  held : List Nat := []
  heldReqs : List HbmReq := []
  ueSeenAt : List (Nat × Nat × Nat) := []
  parityBad : List Nat := []
  postponed : Map Nat := []
  ports : Map PortX := []
  heldGets : List (Nat × Option Nat) := []
  sluiceNext : Option Nat := none
  calSeq : Map Nat := []
  risk : RiskX := {}
  lastTrip : Option Nat := none
  pwr : Pwr := {}
  pcie : Pcie := {}
  hubDead : List Nat := []
  irqHold : Bool := false
  irqs : List (Nat × Nat) := []
  copying : Map CopyRun := []
  atc : List AtcEnt := []
  gasps : List Gasp := []
  dbgHalt : List Nat := []
  rowMaps : Map (List (Nat × Nat)) := []
  part : Map Word := []
  partRows : Map (List (Nat × Nat)) := []
  mesh : List MeshPkt := []
  picks : List Pick := []
  vacated : Map (Nat × Nat) := []
  deriving DecidableEq, Repr

/-- The whole state: the commands that wait, first in first out; the part; and its security unit with the non-volatile store. -/
structure State where
  pending : List Instr
  chip : Chip
  sec : Sec
  deriving DecidableEq, Repr

/-- Reasons to stop with a fault. No command of this block stops so: every error the spec describes is an effect on the state. -/
inductive Fault where
  deriving DecidableEq, Repr

/-- Reasons to refuse a command. -/
inductive Refusal where
  /-- A command of the opcode table without a meaning; safe. No command is refused so. -/
  | notModelled (mnemonic : String)
  /-- TEST_ACCESS_PORT_OPERATION full scan at debug level Vendor (R452): it reads and writes scan chains of the silicon, of which
  the spec says nothing; safe. -/
  | fullScan
  deriving DecidableEq, Repr

/-- The part before any supply is applied, every register at its reset value (log entry 34): memory lists nothing, and what the
always-on SRAM, the boot ROM and the NOR hold is not given, so each of their bytes is free. -/
def State.reset : State where
  pending := []
  chip := { mem := { holes := [⟨0x31001000000, 0x200000, 0⟩, ⟨0x31002000000, 0x40000, 0⟩] } }
  sec := {}

end Sys2Proof.Machine
end

