-- ==== Sys2Proof/Machine/Ops.lean ====
section
/-! DEFINITION. The named operations every meaning shares: registers, free values, counters, events, the address map,
memory, poison, latches, the step stamp and taint, and the halting of queues and kernels. -/
namespace Sys2Proof.Machine

/-! ### Registers -/

/-- The whole word of a register. -/
def Chip.word (c : Chip) (r : Reg) : Nat := (Map.get (BitVec.ofNat 64 r.rst) c.regs r.key).toNat

/-- A register takes a whole word. -/
def Chip.setWord (c : Chip) (r : Reg) (v : Nat) : Chip :=
  { c with regs := Map.put (BitVec.ofNat 64 r.rst) c.regs r.key (BitVec.ofNat 64 v) }

/-- The value of a field. -/
def Chip.get (c : Chip) (f : RF) : Nat := bits (c.word f.reg) f.lo f.len

/-- A field takes a value (its low bits). -/
def Chip.put (c : Chip) (f : RF) (v : Nat) : Chip := c.setWord f.reg (setBits (c.word f.reg) f.lo f.len v)

/-- A one-bit field is 1. -/
def Chip.on (c : Chip) (f : RF) : Bool := c.get f == 1

/-- A register returns to its reset value. -/
def Chip.resetReg (c : Chip) (r : Reg) : Chip := c.setWord r r.rst

/-- A field that wraps goes up by one. -/
def Chip.inc (c : Chip) (f : RF) : Chip := c.put f (c.get f + 1)

/-- A field that stops at its maximum goes up by `n`. -/
def Chip.incSat (c : Chip) (f : RF) (n : Nat) : Chip := c.put f (satTo (2 ^ f.len - 1) (c.get f + n))

/-- A fresh free value, and the state in which the counter has passed it. -/
def Chip.fresh (c : Chip) : Nat × Chip := (Config.freeNat c.free, { c with free := c.free + 1 })

/-- Something leaves the part. -/
def Chip.emit (c : Chip) (o : Out) : Chip := { c with out := o :: c.out }

/-- A fresh identity for an operation, a kernel or a command. -/
def Chip.newId (c : Chip) : Nat × Chip := (c.nextId, { c with nextId := c.nextId + 1 })

/-! ### Events and counters (R428, R429, R458-R460) -/

/-- MSI-X vectors of a function code (R418): PF 2,048, VF 32; the sideband's in-band interrupt has no table. -/
def vecLimit (func : Nat) : Nat := if func = 0 then 2048 else if func ≤ 64 then 32 else 1

/-- An MSI-X message leaves the part, or waits while a takeover moves the link or its vector is masked, once for each vector (R364, R429,
log entry 97). -/
def Chip.sendMsix (c : Chip) (f v : Nat) : Chip :=
  if c.irqHold ∨ (f, v) ∈ c.msixMask then (if (f, v) ∈ c.irqs then c else { c with irqs := c.irqs ++ [(f, v)] }) else c.emit (.msix f v)

/-- Event `e` fires (R429). A route whose vector lies beyond its function's table sends nothing. -/
def Chip.fire (c : Chip) (e : Nat) : Chip :=
  if c.on (HUB_EVT_ROUTE.ENABLE e) then
    if c.on (HUB_EVT_ROUTE.PENDING e) then c.incSat (HUB_EVT_ROUTE.MERGED e) 1
    else
      let f := c.get (HUB_EVT_ROUTE.FUNC e)
      let v := c.get (HUB_EVT_ROUTE.VECTOR e)
      let c := c.put (HUB_EVT_ROUTE.PENDING e) 1
      if f = 127 then c.emit (.inband e)
      else if v < vecLimit f then c.sendMsix f v else c
  else c

/-- Event `i` of basin `b` fires (R428). -/
def Chip.fireB (c : Chip) (b i : Nat) : Chip := c.fire (64 + 32 * b + i)

/-- Package event 12 with its source recorded (R460). -/
def Chip.ctrEv (c : Chip) (off kind : Nat) : Chip :=
  let c := if c.on ASY_CTR_EV.VALID then c
    else ((c.put ASY_CTR_EV.OFFSET off).put ASY_CTR_EV.KIND kind).put ASY_CTR_EV.VALID 1
  c.fire 12

/-- `n` occurrences are counted by an event counter (R458). -/
def Chip.count (c : Chip) (r : Reg) (n : Nat) : Chip :=
  let w := c.word r
  if bit w 63 ∨ n = 0 then c
  else if bits w 0 48 + n ≤ 2 ^ 48 - 1 then c.setWord r (setBits w 0 48 (bits w 0 48 + n))
  else (c.setWord r (setBits (setBits w 0 48 (2 ^ 48 - 1)) 63 1 1)).ctrEv r.key 0

/-- `n` bytes are counted by a volume counter whose COUNT is `r` and EPOCH `ep` (R459). -/
def Chip.volume (c : Chip) (r : Reg) (ep : RF) (n : Nat) : Chip :=
  let t := c.word r + ceilDiv n 64
  if t < 2 ^ 64 then c.setWord r t
  else ((c.setWord r (t % 2 ^ 64)).inc ep).ctrEv r.key 1

/-! ### Units -/

def Chip.cl (c : Chip) (kc : Nat) : Cluster := Map.get {} c.clusters kc
def Chip.setCl (c : Chip) (kc : Nat) (x : Cluster) : Chip := { c with clusters := Map.put {} c.clusters kc x }
def Chip.bs (c : Chip) (b : Nat) : Basin := Map.get {} c.basins b
def Chip.setBs (c : Chip) (b : Nat) (x : Basin) : Chip := { c with basins := Map.put {} c.basins b x }
def Chip.tu (c : Chip) (n : Nat) : TemperU := Map.get {} c.temper n
def Chip.setTu (c : Chip) (n : Nat) (x : TemperU) : Chip := { c with temper := Map.put {} c.temper n x }
def Chip.lu (c : Chip) (n : Nat) : LadleU := Map.get {} c.ladle n
def Chip.setLu (c : Chip) (n : Nat) (x : LadleU) : Chip := { c with ladle := Map.put {} c.ladle n x }
def Chip.qu (c : Chip) (b q : Nat) : Queue := Map.get {} (c.bs b).queues q
def Chip.setQu (c : Chip) (b q : Nat) (x : Queue) : Chip :=
  let s := c.bs b
  c.setBs b { s with queues := Map.put {} s.queues q x }

/-- Sequencer `k` of a cluster. -/
def Cluster.seq (x : Cluster) (k : Nat) : Seqr := if k = 0 then x.seq0 else x.seq1
def Cluster.setSeq (x : Cluster) (k : Nat) (q : Seqr) : Cluster := if k = 0 then { x with seq0 := q } else { x with seq1 := q }
def Chip.seqr (c : Chip) (kc k : Nat) : Seqr := (c.cl kc).seq k
def Chip.setSeqr (c : Chip) (kc k : Nat) (q : Seqr) : Chip := c.setCl kc ((c.cl kc).setSeq k q)

/-- A packet of basin `b` retires: the watchdog's COUNT clears, and this slow tick adds nothing to it (R366). -/
def Chip.retireTick (c : Chip) (b : Nat) : Chip :=
  (c.put (BSN_WDOG.COUNT b) 0).setBs b { c.bs b with progress := true }

/-! ### Roles (R18, R28, R29) -/

/-- The die in slot `s` of basin `b`; 31 where the slot is empty. -/
def Chip.slotDie (c : Chip) (b s : Nat) : Nat := if s < 5 then bits (c.word (BSN_DIE_MAP b)) (5 * s) 5 else 31

/-- The die map's field of slot `s`. -/
def slotField (b s : Nat) : RF := ⟨BSN_DIE_MAP b, 5 * s, 5⟩

/-- Basin and slot of a die; 7 where it holds none. -/
def Chip.dieBasin (c : Chip) (n : Nat) : Nat := c.get (HUB_FORGE_STATUS.BASIN n)
def Chip.dieSlot (c : Chip) (n : Nat) : Nat := c.get (HUB_FORGE_STATUS.SLOT n)

/-- The cluster key 4 × die + cluster of role (b, slot, cluster), where the slot holds a die. -/
def Chip.roleCl (c : Chip) (b s k : Nat) : Option Nat :=
  let d := c.slotDie b s
  if d < 26 ∧ k < 4 then some (4 * d + k) else none

/-- Basin of a cluster. -/
def Chip.clBasin (c : Chip) (kc : Nat) : Nat := c.dieBasin (kc / 4)

/-- 4 × slot + cluster of a cluster (R166). -/
def Chip.clRole (c : Chip) (kc : Nat) : Nat := 4 * c.dieSlot (kc / 4) + kc % 4

/-! ### The address map (R35, R36, R240, R241) -/

/-- Bytes of an HBM window that are populated (R35). -/
def Chip.hbmSize (c : Chip) (k : Nat) : Nat := if c.on (HBM_STACK_STS.MODE k) then 0x10E0000000 else 0x1200000000

/-- The stack of an address (R240). -/
def stackOf (a : Nat) : Nat := a >>> 37

/-- Whether an address lies in the populated part of a stack that serves accesses (R240, R251, R484). -/
def Chip.isHbm (c : Chip) (a : Nat) : Bool :=
  decide (a < 0x18000000000) && decide (a % 2 ^ 37 < c.hbmSize (stackOf a)) && c.get (HBM_STACK_STS.STATE (stackOf a)) != 5

/-- Whether a stack's spare can still be used (R250, R252). -/
def Chip.spareFree (c : Chip) (k : Nat) : Bool := !c.on (HBM_STACK_STS.SPARE_USED k) && !c.spareDead.contains k

/-- STATE of a stack that serves requests: rebuilding, degraded or normal (R249, R250, R264). -/
def Chip.stackState (c : Chip) (k : Nat) : Nat :=
  if c.get (HBM_REBUILD.KIND k) = 1 then 3 else if c.get (HBM_LOST_MAP.LOST k) ≠ 0 then 4 else 2

/-- Base of the quench region of basin `b` (R241). -/
def Chip.quenchBase (c : Chip) (b : Nat) : Nat := b * 0x4000000000 + c.hbmSize (2 * b) - 0x4000000

/-- Whether an address lies in a quench region (R241). -/
def Chip.inQuench (c : Chip) (a : Nat) : Bool :=
  let k := stackOf a
  decide (k % 2 = 0) && decide (c.quenchBase (k / 2) ≤ a) && decide (a % 2 ^ 37 < c.hbmSize k)

/-- The memory key of a cistern byte: the physical window of R35. -/
def cisKey (kc off : Nat) : Nat := 0x21000000000 + 0x8000000 * (kc / 4) + 0x2000000 * (kc % 4) + off

/-- A place an address names: an HBM byte, or an offset of a cluster's cistern. -/
inductive Place where
  | hbm (a : Nat)
  | cis (kc off : Nat)
  deriving DecidableEq, Repr

/-- The memory key of a place. -/
def Place.key : Place → Nat
  | .hbm a => a
  | .cis kc off => cisKey kc off

/-- The basin whose window holds a place. -/
def Chip.placeBasin (c : Chip) : Place → Nat
  | .hbm a => stackOf a / 2
  | .cis kc _ => c.clBasin kc

/-- The place of an address of the HBM windows or the cisterns by role, for any agent (R35, R36, R240). -/
def Chip.place (c : Chip) (a : Nat) : Option Place :=
  if a < 0x18000000000 then (if c.isHbm a then some (.hbm a) else none)
  else if 0x20000000000 ≤ a ∧ a < 0x20180000000 then
    let o := a - 0x20000000000
    match c.roleCl (o / 0x40000000) (o / 0x8000000 % 8) (o / 0x2000000 % 4) with
    | some kc => if o % 0x2000000 < cisSize then some (.cis kc (o % 0x2000000)) else none
    | none => none
  else none

/-- The place of `n` bytes from an address, all of one window. -/
def Chip.placeN (c : Chip) (a n : Nat) : Option Place :=
  match c.place a, c.place (a + (n - 1)) with
  | some p, some q => if q.key = p.key + (n - 1) then some p else none
  | _, _ => none

/-- Whether two basins carry the same slice tag; a basin always matches itself, and tag 0 matches no other (R33, R196). -/
def Chip.sameSlice (c : Chip) (b d : Nat) : Bool :=
  b == d || (c.get (BSN_SLICE.TAG b) != 0 && c.get (BSN_SLICE.TAG b) == c.get (BSN_SLICE.TAG d))

/-- Whether `n` bytes from `p` touch a quench region. -/
def Chip.quenchHit (c : Chip) (p : Place) (n : Nat) : Bool :=
  match p with
  | .hbm a => c.inQuench a || c.inQuench (a + (n - 1))
  | .cis _ _ => false

/-- The place of `n` bytes that a program or engine of basin `b` may reach (R33, R35, R241); `own`: in its own windows only
(R230). -/
def Chip.reach (c : Chip) (b a n : Nat) (own : Bool) : Option Place :=
  match c.placeN a n with
  | some p =>
    let d := c.placeBasin p
    if (if own then d == b else c.sameSlice b d) && !c.quenchHit p n then some p else none
  | none => none

/-- The place of `n` bytes in the basin's own HBM, outside its quench region. -/
def Chip.ownHbm (c : Chip) (b a n : Nat) : Option Nat :=
  match c.reach b a n true with
  | some (.hbm k) => some k
  | _ => none

/-- Whether a place range touches the latch area (R176). -/
def inLatches (p : Place) (n : Nat) : Bool :=
  match p with
  | .cis _ off => decide (off + n > latchOfs)
  | .hbm _ => false

/-! ### Poison (R247, R248) -/

/-- A granule number listed as poisoned; the list stays sorted. -/
def insNat : List Nat → Nat → List Nat
  | [], g => [g]
  | h :: t, g => if g < h then g :: h :: t else if g = h then h :: t else h :: insNat t g

/-- Whether any granule of `n` bytes from an HBM key is poisoned. -/
def Chip.poisoned (c : Chip) (k n : Nat) : Bool := c.poison.any (fun g => decide (g * 64 < k + n ∧ k < g * 64 + 64))

/-- Whether a write of `n` bytes from `k` meets a poisoned granule that it does not cover whole (R247). -/
def Chip.partPoison (c : Chip) (k n : Nat) : Bool :=
  c.poison.any (fun g => decide (g * 64 < k + n ∧ k < g * 64 + 64) && !decide (k ≤ g * 64 ∧ g * 64 + 64 ≤ k + n))

/-- Whether `n` bytes at a place hold poison, which a cistern never does. -/
def Chip.poisonAt (c : Chip) (p : Place) (n : Nat) : Bool :=
  match p with
  | .hbm k => c.poisoned k n
  | .cis _ _ => false

/-- Whether a write of `n` bytes at a place meets a poisoned granule that it does not cover whole (R247). -/
def Chip.partPoisonAt (c : Chip) (p : Place) (n : Nat) : Bool :=
  match p with
  | .hbm k => c.partPoison k n
  | .cis _ _ => false

/-! ### Memory -/

/-- The bytes, and the number, at a place. -/
def Chip.rd (c : Chip) (p : Place) (n : Nat) : List Byte := c.mem.reads p.key n
def Chip.rdn (c : Chip) (p : Place) (n : Nat) : Nat := leNat (c.rd p n)

/-- The 64-byte status record of a tag copy at its reset values (R89). -/
def tagZero : List Byte := leBytes 64 0

/-- A write reached the descriptor of tag copies of a cluster: their records take the reset values (R174, log entry 9). A
tag of the running kernel resets at once, any other when an instruction next names it. -/
def Chip.tagTouch (c : Chip) (kc off n : Nat) : Chip :=
  let x := c.cl kc
  let hit := x.tags.filter (fun e => decide (e.1 < off + n ∧ off < e.1 + 64))
  hit.foldl (fun c e =>
    let live := c.kerns.any (fun k => k.clusters.contains kc && decide (k.tagbase ≤ e.1) && (e.1 - k.tagbase) % 128 == 0
      && decide ((e.1 - k.tagbase) / 128 < 4096))
    let x := c.cl kc
    if live then
      { c.setCl kc { x with tags := Map.put {} x.tags e.1 { dirty := false } } with
        mem := c.mem.write (cisKey kc (e.1 + 64)) tagZero }
    else c.setCl kc { x with tags := Map.put {} x.tags e.1 {} }) c

/-- A software write over the NONFINITE word of a tag record sets the harvest reference to the value written (R99). -/
def Chip.tagNf (c : Chip) (kc off n : Nat) : Chip :=
  let x := c.cl kc
  let hit := x.tags.filter (fun e => decide (e.1 + 88 < off + n ∧ off < e.1 + 96) && !e.2.dirty)
  hit.foldl (fun c e =>
    let x := c.cl kc
    let v := leNat (c.mem.reads (cisKey kc (e.1 + 88)) 6)
    c.setCl kc { x with tags := Map.put {} x.tags e.1 { e.2 with nfRef := v } }) c

/-- Bytes written to HBM, granule by granule: one that is poisoned and not covered whole keeps its contents; a write
that covers it clears the poison (R245, R247). A write of a whole group row makes its parity good again (R245). -/
def Chip.wrHbm (c : Chip) (k : Nat) (bs : List Byte) : Chip :=
  let n := bs.length
  let keep (a : Nat) : Bool := c.poison.contains (a / 64) && !decide (k ≤ a / 64 * 64 ∧ a / 64 * 64 + 64 ≤ k + n)
  let m := if c.poison = [] then c.mem.write k bs
    else (bs.zipIdx).foldl (fun m e => if keep (k + e.2) then m else m.write1 (k + e.2) e.1) c.mem
  { c with mem := m, poison := c.poison.filter (fun g => !decide (k ≤ g * 64 ∧ g * 64 + 64 ≤ k + n)),
           parityBad := c.parityBad.filter (fun g => !decide (k ≤ g ∧ g + 3840 ≤ k + n)) }

/-- A write reached bytes that a weight tile is loaded from between the issue of its MLOAD and the end of its load: the tile is
undefined (R43, R238). The interlock of R237 keeps the issuing sequencer's own writes out of that time. -/
def Chip.weightTouch (c : Chip) (kc off n : Nat) : Chip :=
  let x := c.cl kc
  let a := x.arr
  let q := a.q.map (fun i => match i with
    | .load cr nc f d r u b => ACmd.load cr nc f d r (u || dTouch d r cr off n) b
    | i => i)
  let l := a.loading.map (fun e => ({ e.1 with undef := e.1.undef || dTouch e.2.1 e.2.2 e.1.crows off n }, e.2))
  if q = a.q ∧ l = a.loading then c else c.setCl kc { x with arr := { a with q := q, loading := l } }

/-- Bytes written at a place. -/
def Chip.wr (c : Chip) (p : Place) (bs : List Byte) : Chip :=
  match p with
  | .hbm k => c.wrHbm k bs
  | .cis kc off => ((({ c with mem := c.mem.write (cisKey kc off) bs }).tagTouch kc off bs.length).tagNf kc off bs.length).weightTouch kc off bs.length

/-- A number written as `n` bytes. -/
def Chip.wrn (c : Chip) (p : Place) (n v : Nat) : Chip := c.wr p (leBytes n v)

/-- A range of contents becomes undefined (R5, R22). -/
def Chip.lose (c : Chip) (key len : Nat) : Chip :=
  { c with mem := c.mem.lose key len (c.losses + 1), losses := c.losses + 1 }

/-- The cistern of a cluster becomes undefined (R22). -/
def Chip.loseCistern (c : Chip) (kc : Nat) : Chip :=
  let c := c.lose (cisKey kc 0) cisSize
  c.setCl kc { c.cl kc with tags := [] }

/-! ### Latches (R176-R178, R430) -/

/-- The place of basin latch `l`. -/
def Chip.latchPlace (c : Chip) (b l : Nat) : Option Place :=
  match c.roleCl b (l / 1024) (l / 256 % 4) with
  | some kc => if l < 5120 then some (.cis kc (latchOfs + 8 * (l % 256))) else none
  | none => none

def Chip.latch (c : Chip) (b l : Nat) : Nat :=
  match c.latchPlace b l with
  | some p => c.rdn p 8
  | none => 0

/-- The notifications that a change of latch `l` of basin `b` fires (R430). -/
def Chip.notify (c : Chip) (b l : Nat) : Chip :=
  (List.range 256).foldl (fun c j =>
    if c.on (HUB_NOTIFY.ARM j) && c.get (HUB_NOTIFY.BASIN j) == b && c.get (HUB_NOTIFY.LATCH j) == l then
      (c.put (HUB_NOTIFY.ARM j) 0).fire (256 + j)
    else c) c

/-- A latch operation is applied, written through to the shadow first (R177, R178). A shadow outside the basin's own HBM
is not written (log entry 10). -/
def Chip.latchApply (c : Chip) (b l : Nat) (isSet : Bool) (v : Nat) : Chip :=
  match c.latchPlace b l with
  | some p =>
    let old := c.rdn p 8
    let new := if isSet then v % 2 ^ 64 else addMod 64 old v
    let c := match c.ownHbm b (c.get (BSN_LATCH_SHADOW.BASE b) + 8 * l) 8 with
      | some k => c.wrHbm k (leBytes 8 new)
      | none => c
    let c := { c with mem := c.mem.write p.key (leBytes 8 new) }
    if new = old then c else c.notify b l
  | none => c

/-! ### Bit fields of packets and descriptors -/

/-- Place a value in a field of a wider number. -/
def fld (lo len v : Nat) : Nat := (v % 2 ^ len) * 2 ^ lo

/-! ### The step, taint and step stamps (R103-R105) -/

def Chip.step (c : Chip) (b : Nat) : Nat := c.get (BSN_STEP.STEP b)

/-- Taint carried by runnel C packets of step `n` (R105), of a resolved step as it was left; none in Compatibility mode (R356). -/
def Chip.taintOf (c : Chip) (b n : Nat) : Bool :=
  if !c.modes.native then false
  else if n = c.step b then c.on (BSN_AGREE_STS.LOCAL_TAINT b) || c.on (BSN_AGREE_STS.TAINT_SEEN b)
  else if n + 1 = c.step b then c.on (BSN_AGREE_STS.SEALED_TAINT b) || (c.bs b).seenSealed || (c.bs b).tainted.contains n
  else (c.bs b).tainted.contains n

/-- Local taint of step STEP is set by a result stamped `n` (R104). -/
def Chip.taint (c : Chip) (b n : Nat) : Chip :=
  if n % 2 ^ 32 = c.step b % 2 ^ 32 then c.put (BSN_AGREE_STS.LOCAL_TAINT b) 1 else c

/-! ### Queues and kernels -/

def qClassSide (c : Chip) (b q : Nat) : Bool := c.on (BSN_Q_CFG.CLASS b q)

/-- A queue records an error (R163). -/
def Chip.qErr (c : Chip) (b q code : Nat) : Chip :=
  ((c.put (BSN_Q_STS.ERRCODE b q) code).put (BSN_Q_STS.ERR b q) 1).fireB b 4

/-- A queue halts on an error at packet `idx` (R161, R163). -/
def Chip.qHalt (c : Chip) (b q code : Nat) (idx : Option Nat) : Chip :=
  let c := (c.qErr b q code).put (BSN_Q_STS.STATE b q) 4
  c.setQu b q { c.qu b q with haltPkt := idx }

/-- The kernel that runs on a cluster. -/
def Chip.kernOf (c : Chip) (kc : Nat) : Option Kern := c.kerns.find? (fun k => k.clusters.contains kc)

def seqSrcs (cls : List Nat) : List Src := cls.flatMap (fun kc => [.seq kc 0, .seq kc 1])

/-- The clusters of a kernel stop: sequencers idle but for those already faulted or halted, array work dropped, latch
operations not yet applied dropped (R173, log entry 13). -/
def Chip.stopCluster (c : Chip) (kc : Nat) : Chip :=
  let x := c.cl kc
  let halt (c : Chip) (k : Nat) : Chip :=
    if c.get (CLS_SEQ_STS.STATE (kc / 4) (kc % 4) k) = 4 then c else c.put (CLS_SEQ_STS.STATE (kc / 4) (kc % 4) k) 0
  let q (s : Seqr) : Seqr := { s with hold := .none, loads := [], loops := [] }
  let st := c.get (CLS_ARRAY_STS.STATE (kc / 4) (kc % 4))
  let c := if st = 1 then c.put (CLS_ARRAY_STS.STATE (kc / 4) (kc % 4)) 0 else c
  halt (halt (c.setCl kc { x with seq0 := q x.seq0, seq1 := q x.seq1, arr := {}, ag := [] }) 0) 1

/-! ### The issue level (R46, R398, R399) -/

/-- Whether a Whole-mode kernel that no safety limit has broken runs on die `n`. -/
def Chip.wholeOn (c : Chip) (n : Nat) : Bool := c.kerns.any (fun k => k.whole && !k.broken && k.clusters.any (fun kc => kc / 4 == n))

/-- The terms of R399 as they act on die `n`: power, thermal, slope clamp, droop hold. -/
def Chip.levelTerms (c : Chip) (n : Nat) : List Nat :=
  let d : DieP := Map.get {} c.dies n
  let w := c.wholeOn n
  [if w then 64 else d.pterm, if w then 64 else d.tterm,
   if d.clamp then max 1 (min 64 (c.get TMP_CTL.CLAMP_LVL)) else 64, if d.droop then 1 else 64]

/-- The level of die `n` follows its terms; of two equal terms the first in R399's table is reported. -/
def Chip.relevel (c : Chip) (n : Nat) : Chip :=
  let ts := c.levelTerms n
  let l := ts.foldl min 64
  let c := (c.put (PWR_DIE_STS.LEVEL n) l).put (PWR_DIE_STS.CAUSE n) (if l = 64 then 0 else ts.idxOf l + 1)
  let dies := List.range 26
  let c := c.put PWR_STS.LIMITED (b2n (dies.any (fun m => decide (c.get (PWR_DIE_STS.LEVEL m) < 64))))
  let b := c.dieBasin n
  if b < 6 then
    c.put (PWR_GRANT.LEVEL b) ((dies.filter (fun m => c.dieBasin m == b)).foldl (fun v m => min v (c.get (PWR_DIE_STS.LEVEL m))) 64)
  else c

/-- A safety limit holds issue on die `n`: the Whole-mode kernels that run there are broken (R46). -/
def Chip.breakWhole (c : Chip) (n : Nat) : Chip :=
  let hit (k : Kern) : Bool := k.whole && k.clusters.any (fun kc => kc / 4 == n)
  let cls := (c.kerns.filter hit).flatMap (fun k => k.clusters.filter (fun kc => kc / 4 == n))
  let c := cls.foldl (fun c kc => c.put (CLS_ARRAY_STS.WHOLE_BROKEN (kc / 4) (kc % 4)) 1) c
  { c with kerns := c.kerns.map (fun (k : Kern) => if hit k then { k with broken := true } else k) }

def Chip.stopKern (c : Chip) (k : Kern) : Chip :=
  let c := k.clusters.foldl (fun c kc => c.stopCluster kc) c
  let bs := c.bs k.basin
  let c := c.setBs k.basin { bs with lops := bs.lops.filter (fun o => !(seqSrcs k.clusters).contains o.src) }
  let c := { c with kerns := c.kerns.filter (fun x => x.id ≠ k.id) }
  k.clusters.foldl (fun c kc => if kc % 4 = 0 ∨ !k.clusters.contains (kc - 1) then c.relevel (kc / 4) else c) c

/-- The batch of a stopped or finished kernel leaves flight (R61, R65). -/
def Chip.batchEnd (c : Chip) (b bq num : Nat) (signal : Bool) : Chip :=
  let s := c.bs b
  let u : BatchQ := Map.get {} s.bqs bq
  match u.batches.find? (fun x => x.num = num) with
  | none => c
  | some bt =>
    let c := c.setBs b { s with bqs := Map.put {} s.bqs bq { u with batches := u.batches.filter (fun x => x.num ≠ num) } }
    let c := c.put (BSN_BATCH_STS.INFL b bq) (c.get (BSN_BATCH_STS.INFL b bq) - 1)
    let c := if c.get (BSN_BATCH_STS.INFL b bq) = 0 ∧ c.get (BSN_BATCH_STS.PENDING b bq) = 0 then
      c.put (BSN_BATCH_STS.IDLE b bq) 1 else c
    if signal then bt.reqs.foldl (fun c r => c.latchApply b r.2.1 false 1) c else c

/-- A kernel is stopped and its queue halts with an error code; a kernel of a batch takes its batch out of flight. -/
def Chip.killKern (c : Chip) (k : Kern) (code : Nat) : Chip :=
  let c := c.stopKern k
  let c := match k.batch with
    | some (bq, num) => c.batchEnd k.basin bq num false
    | none => c
  c.qHalt k.basin k.queue code (if k.batch.isNone then some k.pkt else none)

/-- A kernel fault at sequencer `sq` of a cluster, with its cause and trap code (R173, R207, R208). -/
def Chip.kernelFault (c : Chip) (kc sq cause code : Nat) : Chip :=
  let (n, m) := (kc / 4, kc % 4)
  let c := (c.put (CLS_SEQ_STS.CAUSE n m sq) cause).put (CLS_SEQ_STS.STATE n m sq) 4
  let c := if cause = 10 then c.put (CLS_SEQ_STS.TRAPCODE n m sq) code else c
  match c.kernOf kc with
  | some k => c.killKern k 8
  | none => c

/-- A fault during execution of what the bundle at offset `pc` issued: PC shows that bundle (R208). -/
def Chip.kernelFaultAt (c : Chip) (kc sq cause pc : Nat) : Chip :=
  (c.put (CLS_SEQ_STS.PC (kc / 4) (kc % 4) sq) pc).kernelFault kc sq cause 0

/-- Slow ticks counted so far (R393). -/
def Chip.ticks (c : Chip) : Nat := c.get HUB_TICKS.TICKS

end Sys2Proof.Machine
end

