-- ==== Sys2Proof/Machine/Streams.lean ====
section
/-! DEFINITION. Address-generator streams (02 R49-R51, R487; 07 R222): the rows and elements they deliver. -/
namespace Sys2Proof.Machine

/-- The bytes of row `r` as one number; zero for padding. -/
def Chip.row (c : Chip) (kc d r : Nat) : Nat :=
  let (a, pad) := dRow d r
  if pad then 0 else leNat (c.mem.reads (cisKey kc a.toNat) (dRowBytes d))

/-- The bytes of `n` rows from row `r`, as numbers. -/
def Chip.rows (c : Chip) (kc d r n : Nat) : List Nat := (List.range n).map (fun i => c.row kc d (r + i))

/-- The most negative finite value of a memory format (R50). -/
def Fmt.lowest (f : Fmt) (signed : Bool) : Nat :=
  if f.isInt then wrapInt f.width (f.intMin signed)
  else if f = .e8m0 then 0
  else let (m, e) := f.maxFin; encodeMag f true m e

/-- The next element of a stream: its row, its index in the row. -/
def Ag.next (g : Ag) : Ag :=
  if g.elem + 1 < dElems g.desc then { g with elem := g.elem + 1 } else { g with row := g.row + 1, elem := 0 }

/-- The number of elements consumed since iteration zero. -/
def Ag.pos (g : Ag) : Nat := g.row * dElems g.desc + g.elem

/-- The generator after `n` more elements. -/
def Ag.skip (g : Ag) (n : Nat) : Ag :=
  let p := g.pos + n
  { g with row := p / dElems g.desc, elem := p % dElems g.desc }

/-- The row after the last one that `n` elements from here touch. -/
def Ag.rowEnd (g : Ag) (n : Nat) : Nat := (g.pos + n + dElems g.desc - 1) / dElems g.desc

/-- The row at which a spout copy takes up a stream: the next whole one (log entry 149). -/
def Ag.spoutRow (g : Ag) : Nat := if g.elem = 0 then g.row else g.row + 1

/-- Whether the stream still has `n` elements, and every row they touch may be accessed. -/
def Ag.has (g : Ag) (n : Nat) : Bool := decide (g.rowEnd n ≤ dRows g.desc)
def Ag.rowsOk (g : Ag) (n : Nat) (write : Bool) : Bool := dRowsOk g.desc g.row (g.rowEnd n - g.row) write

/-- The codes of the next `n` elements of width `w`, a padding element as `pad` (R222). -/
def Chip.elems (c : Chip) (kc : Nat) (g : Ag) (w pad n : Nat) : List Nat :=
  let rs := (List.range (g.rowEnd n - g.row)).map (fun i => ((dRow g.desc (g.row + i)).2, c.row kc g.desc (g.row + i)))
  let per := dElems g.desc
  (List.range n).map (fun j =>
    let p := g.elem + j
    match rs[p / per]? with
    | some (true, _) => pad
    | some (false, r) => bits r (w * (p % per)) w
    | none => 0)

/-- One row written with the present elements of a list of codes from element index `e0` on; the bytes of absent elements,
and of every other element, keep their bits (R222). -/
def Chip.putRow (c : Chip) (kc d r w e0 : Nat) (codes : List (Option Nat)) : Chip :=
  let (a, pad) := dRow d r
  let present := codes.any (·.isSome)
  if pad || !present then c
  else
    let lo := e0 * w / 8
    let hi := ((e0 + codes.length) * w + 7) / 8
    let base := a.toNat + lo
    let old := leNat (c.mem.reads (cisKey kc base) (hi - lo))
    let new := codes.zipIdx.foldl (fun n e => match e.1 with
      | some v => setBits n (w * (e0 + e.2) - 8 * lo) w v
      | none => n) old
    c.wr (.cis kc base) (leBytes (hi - lo) new)

/-- The stream's next elements written, row by row. -/
def Chip.putElems (c : Chip) (kc : Nat) (g : Ag) (w : Nat) (codes : List (Option Nat)) : Nat → Chip
  | 0 => c
  | fuel + 1 =>
    if codes.isEmpty then c
    else
      let k := dElems g.desc - g.elem
      let c := c.putRow kc g.desc g.row w g.elem (codes.take k)
      Chip.putElems c kc { g with row := g.row + 1, elem := 0 } w (codes.drop k) fuel

end Sys2Proof.Machine
end

