-- ==== Sys2Proof/Machine/Tags.lean ====
section
/-! DEFINITION. Tensor tags and what a conversion into one does: the tag check (R175), the status record (R89-R91, R98),
the first-NaN trap (R92-R96), the harvest (R99), generators (R122, R123), and conversion under R80-R88. -/
namespace Sys2Proof.Machine

/-! ### Descriptors -/

/-- The format codes of a tag (R174). -/
def tagFmt (n : Nat) : Option Fmt :=
  match n with
  | 0 => some .fp64 | 1 => some .fp32 | 2 => some .w40 | 3 => some .bf16 | 4 => some .fp16 | 5 => some .e5m2
  | 6 => some .e4m3 | 7 => some .e3m2 | 8 => some .e2m3 | 9 => some .e2m1 | 10 => some .int32 | 11 => some .int16
  | 12 => some .int8 | 13 => some .int4 | _ => none

/-- Offset of tag `n` of a kernel (R174). -/
def tagOff (k : Kern) (n : Nat) : Nat := k.tagbase + 128 * n

/-- The format that an amax-history slot names (R100): 0 E4M3, 1 E5M2, 2 FP16, 3 BF16. -/
def slotFmt (n : Nat) : Option Fmt :=
  match n with
  | 0 => some .e4m3 | 1 => some .e5m2 | 2 => some .fp16 | 3 => some .bf16 | _ => none

/-- `n` bytes of a memory image at an offset of the slot table of basin `b`; zeros where the table does not lie in the
basin's own HBM (log entry 10). -/
def Chip.slotNat (c : Chip) (m : Mem) (b off n : Nat) : Nat :=
  match c.ownHbm b (c.get (BSN_AMAX_BASE.BASE b) + off) n with
  | some k => leNat (m.reads k n)
  | none => 0

/-- Bits [lo + len - 1 : lo] of amax-history slot `k` (R100). -/
def Chip.slotBits (c : Chip) (m : Mem) (b k lo len : Nat) : Nat := bits (c.slotNat m b (128 * k + lo / 8) 8) (lo % 8) len

/-- The scale tensor's address: SCALES, plus SCALE_OFS where RSCALE is in use too (R174, R222). -/
def tagScales (d : Nat) : Nat := bits d 448 48 + (if bits d 8 2 = 0 then 0 else bits d 160 32)

/-- The tag descriptor at a cistern offset, checked under R175; none is the tag-check failure. -/
def Chip.tagAt (c : Chip) (kc b off idx : Nat) : Option Tag :=
  let d := leNat (c.mem.reads (cisKey kc off) 64)
  let mx := bit d 7
  let slot := bits d 10 10
  match tagFmt (bits d 0 4) with
  | none => none
  | some f =>
    let mxOk := if mx then decide (f = .e4m3 ∨ f = .e5m2 ∨ f = .e3m2 ∨ f = .e2m3 ∨ f = .e2m1) else !f.mxOnly
    let slotOk := slot == 0 || slotFmt (c.slotBits c.mem b slot 512 4) == some f
    if mxOk && slotOk then
      some { off, idx, fmt := f, signed := bit d 4, stoch := bit d 5, ovf := if bit d 6 then .strict else .saturate, mx,
             slot, base := bits d 192 48, scales := tagScales d }
    else none

/-- The outcome of naming a tag (R175): an address fault where its 128 bytes leave the cistern, a tag fault, or the tag. -/
inductive TagRes where
  | addr
  | bad
  | ok (t : Tag)
  deriving DecidableEq, Repr

def Chip.tagOf (c : Chip) (kc : Nat) (k : Kern) (n : Nat) : TagRes :=
  let off := tagOff k n
  if off + 128 > cisSize then .addr
  else match c.tagAt kc k.basin off n with
    | some t => .ok t
    | none => .bad

/-- An instruction names a tag copy: a record that waits for its reset takes its reset values (R174, log entry 9). -/
def Chip.tagUse (c : Chip) (kc off : Nat) : Chip :=
  let x := c.cl kc
  let h : TagHid := Map.get {} x.tags off
  if h.dirty then
    { c.setCl kc { x with tags := Map.put {} x.tags off { dirty := false } } with
      mem := c.mem.write (cisKey kc (off + 64)) tagZero }
  else c

/-- SCALE(m mod 8) of the tag's slot as the kernel loaded it at launch (R100); 1.0 without a slot. -/
def Chip.tagScale (c : Chip) (k : Kern) (t : Tag) : Nat :=
  if t.slot = 0 then 0x3F800000 else c.slotBits k.slots k.basin t.slot (576 + 32 * (k.stamp % 8)) 32

/-! ### What a conversion adds to a record -/

/-- One converted element at a position. -/
def Tally.add (t : Tally) (pos : Nat) (r : Conv) : Tally :=
  { t with
    clamps := t.clamps + b2n r.clamp, flushes := t.flushes + b2n r.flush, nonfinite := t.nonfinite + b2n r.nonfinite,
    elements := t.elements + 1,
    first := if t.first.isNone && (r.nanRes || r.infRes) then some (pos, r.infRes) else t.first,
    trap := if t.trap.isNone && r.trap then some pos else t.trap }

/-- A finite magnitude joins the fold. -/
def Tally.fold (t : Tally) (v : Val) : Tally := if v.isFin && t.amax.lt v.abs then { t with amax := v.abs } else t

/-- A magnitude in FP32, rounded up, at most the largest finite (R98). -/
def upFp32 (v : Val) : Nat :=
  match v with
  | .fin _ m e =>
    if m = 0 then 0
    else
      let q := max (e + (bitLen m : Int) - 24) Fmt.fp32.qmin
      let n := if q ≤ e then m * 2 ^ (e - q).toNat else ceilDiv m (2 ^ (q - e).toNat)
      let (mm, me) := Fmt.fp32.maxFin
      if magLt mm me n q then 0x7F7FFFFF else encodeMag .fp32 false n q
  | _ => 0x7F7FFFFF

/-- One 48-bit counter of a record word adds `n`; true if it stops at its maximum now. R89 lets a counter that reaches 2^48 − 1 stop and
set its _SAT bit, R458 one that an addition would take past it; the model follows R458, which states the counters' common rule, so that a
count of exactly 2^48 − 1 leaves _SAT clear (DESIGN CHOICE, log entry 145). -/
def recAdd (w n : Nat) : Nat × Bool :=
  if bit w 63 ∨ n = 0 then (w, false)
  else if bits w 0 48 + n ≤ 2 ^ 48 - 1 then (setBits w 0 48 (bits w 0 48 + n), false)
  else (setBits (setBits w 0 48 (2 ^ 48 - 1)) 63 1 1, true)

/-- The counts of a tally go into the record of a tag copy (R89, R90). -/
def Chip.foldCounts (c : Chip) (kc b off : Nat) (t : Tally) : Chip :=
  [t.clamps, t.flushes, t.zeroBlocks, t.nonfinite, t.elements].zipIdx.foldl (fun c e =>
    let k := cisKey kc (off + 64 + 8 * e.2)
    let (w, ev) := recAdd (leNat (c.mem.reads k 8)) e.1
    let c := { c with mem := c.mem.write k (leBytes 8 w) }
    if ev then c.fireB b 11 else c) c

/-- The first non-finite position goes into the record while FIRST_VALID is 0 (R91); `pos` is laid out as FIRST_POS. -/
def Chip.foldFirst (c : Chip) (kc off : Nat) (first : Option (Nat × Bool)) : Chip :=
  let k := cisKey kc (off + 104)
  let w := leNat (c.mem.reads k 8)
  match first with
  | some (pos, inf) =>
    if bit w 49 then c
    else { c with mem := c.mem.write k (leBytes 8 (setBits (setBits (setBits w 0 48 pos) 48 1 (b2n inf)) 49 1 1)) }
  | none => c

/-- AMAX, AMAX_STEP and AMAX_MIX take a fold of magnitude bits `a` stamped `n` (R98). -/
def Chip.foldAmax (c : Chip) (kc off a n : Nat) : Chip :=
  let x := c.cl kc
  let h : TagHid := Map.get {} x.tags off
  let k := cisKey kc (off + 112)
  let w := leNat (c.mem.reads k 16)
  let w1 := setBits w 0 32 (max (bits w 0 32) a)
  let w2 := if h.fold then (if bits w 32 32 = n % 2 ^ 32 then w1 else setBits w1 64 1 1) else setBits w1 32 32 n
  let c := { c with mem := c.mem.write k (leBytes 16 w2) }
  c.setCl kc { x with tags := Map.put {} x.tags off { h with fold := true } }

/-- A whole tally is folded into a tag copy's record: counts, first position, and unless the kernel is of the side class or nothing
was converted the amax (R90, R98, R127, R132). -/
def Chip.foldTag (c : Chip) (kc b off : Nat) (t : Tally) (side : Bool) (stamp : Nat) : Chip :=
  let c := (c.foldCounts kc b off t).foldFirst kc off t.first
  if side || t.elements == 0 then c else c.foldAmax kc off (upFp32 t.amax) stamp

/-! ### The first-NaN trap (R92-R96) -/

/-- A NaN event in basin `b`: kernel identity, tag, queue, source, slot, cluster, bundle address and step. True in the
second component if it fired. -/
def Chip.nanEvent (c : Chip) (b kid tag q src slot cl bundle step : Nat) : Chip × Bool :=
  if c.on (BSN_NAN_TRAP_CTL.HELD b) then (c.incSat (BSN_NAN_TRAP_CTL.MISSED b) 1, false)
  else if !c.on (BSN_NAN_TRAP_CTL.ENABLE b) then (c, false)
  else
    let id0 := fld 0 32 kid + fld 32 16 tag + fld 48 6 q + fld 54 2 src + fld 56 3 slot + fld 59 2 cl
    let c := c.setWord (BSN_NAN_TRAP_ID0 b) id0
    let c := c.setWord (BSN_NAN_TRAP_ID1 b) (bundle % 2 ^ 48)
    let c := c.setWord (BSN_NAN_TRAP_ID2 b) (step % 2 ^ 32)
    let c := (c.put (BSN_NAN_TRAP_CTL.HELD b) 1).put (BSN_NAN_TRAP_CTL.ARMED b) 0
    (c.fireB b 1, true)

/-- A kernel is abandoned and its queue halts with STATE 3 (R92). -/
def Chip.nanStop (c : Chip) (k : Kern) : Chip :=
  let c := c.stopKern k
  let c := match k.batch with
    | some (bq, num) => c.batchEnd k.basin bq num false
    | none => c
  let c := c.put (BSN_Q_STS.STATE k.basin k.queue) 3
  c.setQu k.basin k.queue { c.qu k.basin k.queue with haltPkt := if k.batch.isNone then some k.pkt else none }

/-- The kernel of a cluster meets a NaN in a conversion (R92). `src`: 0 burnish, 1 rill. -/
def Chip.kernNan (c : Chip) (kc : Nat) (k : Kern) (tag src bundle step : Nat) : Chip :=
  let (c, fired) := c.nanEvent k.basin k.kid tag k.queue src (c.dieSlot (kc / 4)) (kc % 4) bundle step
  if fired && !c.on (BSN_NAN_TRAP_CTL.ACTION k.basin) then c.nanStop k else c

/-- A temper unit of die `n` meets a NaN in a conversion to a working copy (R92): with ACTION 0 the kernel that issued the command is
abandoned if it still runs, and the queue it came by halts; the command itself goes on. -/
def Chip.engNan (c : Chip) (n : Nat) (e : ECmd) (tag : Nat) : Chip :=
  let b := c.dieBasin n
  let (c, fired) := c.nanEvent b e.kid tag e.queue 2 (c.dieSlot n) (e.tkc % 4) e.bundle e.bstep
  if fired && !c.on (BSN_NAN_TRAP_CTL.ACTION b) then
    match c.kerns.find? (fun k => k.id == e.kern && e.kern != 0) with
    | some k => c.nanStop k
    | none => c.put (BSN_Q_STS.STATE b e.queue) 3
  else c

/-! ### The harvest (R99, R126, R467) -/

/-- The non-finite counter of slot `s` of basin `b` adds growth (R126), and the summary's growth with it (R467). -/
def Chip.nfAdd (c : Chip) (b s n : Nat) : Chip :=
  let x := c.bs b
  let w : Nat := Map.get 0 x.nf s
  let (w2, ev) := recAdd w n
  let c := c.setBs b { x with nf := Map.put 0 x.nf s w2,
                              nfGrow := if bit w 63 then x.nfGrow else Map.put 0 x.nfGrow s (Map.get 0 x.nfGrow s + n) }
  if ev then c.ctrEv ASY_NF_DATA.key 0 else c

/-- THARV of a tag copy for step `n` (R99, R107). -/
def Chip.harvest (c : Chip) (kc b : Nat) (t : Tag) (n : Nat) : Chip :=
  let x := c.cl kc
  let h : TagHid := Map.get {} x.tags t.off
  let k := cisKey kc (t.off + 112)
  let amax := leNat (c.mem.reads k 4)
  let nf := leNat (c.mem.reads (cisKey kc (t.off + 88)) 6)
  let c := if t.slot = 0 then c
    else match c.ownHbm b (c.get (BSN_AMAX_BASE.BASE b) + 0x20000 + 0x1000 * (n % 2) + 4 * t.slot) 4 with
      | some a => c.wrHbm a (leBytes 4 (max amax (leNat (c.mem.reads a 4))))
      | none => c
  let w := leNat (c.mem.reads k 16)
  let c := { c with mem := c.mem.write k (leBytes 16 (setBits w 0 65 0)) }
  let c := c.setCl kc { x with tags := Map.put {} x.tags t.off { h with fold := false, nfRef := nf } }
  if t.slot = 0 then c else c.nfAdd b t.slot (nf - h.nfRef)

/-! ### Generators (R122, R123) -/

def mix64 (z : Nat) : Nat :=
  let z := z ^^^ (z >>> 30)
  let z := (z * 0xBF58476D1CE4E5B9) % 2 ^ 64
  let z := z ^^^ (z >>> 27)
  let z := (z * 0x94D049BB133111EB) % 2 ^ 64
  z ^^^ (z >>> 31)

/-- The state a seeding gives the generator with lane identity `id` (R123). -/
def Seed.state (s : Seed) (id : Nat) : Nat :=
  match s with
  | .free e => mix64 (Config.entropy e % 2 ^ 64 ^^^ id)
  | .repro seed step kid => mix64 (seed ^^^ mix64 (step ^^^ mix64 (kid % 2 ^ 32 * 2 ^ 32 + id)))

def genNext (s : Nat) : Nat := (s * 0x5851F42D4C957F2D + 0x14057B7EF767814F) % 2 ^ 64

/-- Lane `l` of a bank whose lane identities start at `base` advances: its new state and the bank. -/
def GenBank.step (g : GenBank) (base l : Nat) : Nat × GenBank :=
  let s := genNext ((g.st.find l).getD (g.seed.state (base + l)))
  (s, { g with st := g.st.set l s })

/-- LANE_ID bases (R122): rill lanes, burnish columns, temper lanes. -/
def rillBase (role : Nat) : Nat := role / 4 * 8192 + role % 4 * 2048
def burnBase (role : Nat) : Nat := 65536 + role / 4 * 1024 + role % 4 * 256
def tempBase (slot : Nat) : Nat := 131072 + slot * 256

/-! ### Conversion of a list of values into a tag's format -/

/-- The tag's choices for a conversion. `stoch`: the tag is Stochastic and its format does not hold every source value
(log entry 23); `base`: the LANE_ID of the unit's lane 0. -/
structure ConvEnv where
  fmt : Fmt
  signed : Bool
  ovf : Ovf
  stoch : Bool
  base : Nat
  deriving DecidableEq, Repr

/-- The rounding of one element: a draw of lane `l` where the conversion rounds stochastically (R83, R122). -/
def ConvEnv.rnd (e : ConvEnv) (g : GenBank) (l : Nat) : Rnd × GenBank :=
  if e.stoch then
    let (s, g) := g.step e.base l
    (.stoch (s >>> 48), g)
  else (.nearest, g)

/-- Elements converted one by one (R84): each with its position, lane and value. -/
def convElems (e : ConvEnv) : List (Nat × Nat × Val) → GenBank → Tally → List Nat → List Nat × GenBank × Tally
  | [], g, t, acc => (acc.reverse, g, t)
  | (pos, l, v) :: rest, g, t, acc =>
    let (r, g) := e.rnd g l
    let x := convert e.fmt e.signed e.ovf r v
    let w := decodeVal e.fmt e.signed x.code
    convElems e rest g ((t.add pos x).fold w) (x.code :: acc)

/-- Elements of one MX block converted under its scale code (R80). -/
def mxElems (e : ConvEnv) (sc : Nat) : List (Nat × Nat × Val) → GenBank → Tally → List Nat → List Nat × GenBank × Tally
  | [], g, t, acc => (acc.reverse, g, t)
  | (pos, l, v) :: rest, g, t, acc =>
    let (r, g) := e.rnd g l
    let x := mxElem e.fmt r sc v
    let w := (decodeVal e.fmt e.signed x.code).scale ((sc : Int) - 127)
    mxElems e sc rest g ((t.add pos x).fold (if sc = 0xFF then .fin false 0 0 else w)) (x.code :: acc)

/-- One MX block (R80): its scale code and its elements' codes. -/
def mxBlock (e : ConvEnv) (xs : List (Nat × Nat × Val)) (g : GenBank) (t : Tally) : Nat × List Nat × GenBank × Tally :=
  let (sc, zero) := mxScale e.fmt (xs.map (·.2.2))
  let (cs, g, t) := mxElems e sc xs g { t with zeroBlocks := t.zeroBlocks + b2n zero } []
  (sc, cs, g, t)

end Sys2Proof.Machine
end

