-- ==== Sys2Proof/Machine/Trans.lean ====
section
/-! DEFINITION. The special functions and activations whose results the spec bounds but does not state (02 R53; 05 R133): exact values
to more than 100 significant bits, and the FP32 results within a bound of them, among which the choice is free (log entry 21). -/
namespace Sys2Proof.Machine

/-! ### Fixed point with 256 fraction bits -/

def fxOne : Int := 2 ^ 256

/-- The product, quotient and rational n / d in fixed point, rounded down. -/
def fxMul (a b : Int) : Int := a * b / 2 ^ 256
def fxDiv (a b : Int) : Int := a * 2 ^ 256 / b

/-- A finite value in fixed point, rounded down. -/
def fxOf (s : Bool) (m : Nat) (e : Int) : Int := signedMag s (if e + 256 ≥ 0 then m * 2 ^ (e + 256).toNat else m >>> (-(e + 256)).toNat) 0 0

/-- A power series in `z` by Horner-like summation: terms t(0) = `t0`, t(k + 1) = t(k) × `z` × num k / den k, and their sum. -/
def fxSeries (z : Int) (num den : Nat → Int) : Nat → Nat → Int → Int → Int
  | 0, _, _, s => s
  | n + 1, k, t, s =>
    let t2 := fxMul t z * num k / den k
    fxSeries z num den n (k + 1) t2 (s + t2)

/-- atanh of a fixed-point number of magnitude at most 1/3, by its series. -/
def fxAtanh (z : Int) : Int :=
  fxSeries (fxMul z z) (fun k => 2 * (k : Int) + 1) (fun k => 2 * (k : Int) + 3) 90 0 z z

/-- ln 2 = 2 atanh (1/3). -/
def fxLn2 : Int := 2 * fxAtanh (fxOne / 3)

/-- arctan (1 / n), and π by Machin's formula. -/
def fxAtanInv (n : Int) : Int :=
  fxSeries (fxOne / (n * n)) (fun k => -(2 * (k : Int) + 1)) (fun k => 2 * (k : Int) + 3) 120 0 (fxOne / n) (fxOne / n)
def fxPi : Int := 16 * fxAtanInv 5 - 4 * fxAtanInv 239

/-- e^r for a fixed-point r of magnitude below 1. -/
def fxExpSmall (r : Int) : Int := fxSeries r (fun _ => 1) (fun k => (k : Int) + 1) 70 0 fxOne fxOne

/-- A positive fixed-point number times 2^n as a value of 120 significant bits; the errors of this file lie beyond them. -/
def fxVal (a n : Int) : Val :=
  if a = 0 then .fin false 0 0
  else
    let (m, q) := roundMag .nearest 119 (-1000000) a.natAbs (n - 256)
    .fin (decide (a < 0)) m q

/-! ### The functions, of a finite operand -/

/-- e^y for a fixed-point y, as a fixed-point number in [1, 2) and a power of two. -/
def fxExp (y : Int) : Int × Int := let n := y / fxLn2; (fxExpSmall (y - n * fxLn2), n)

/-- Whether |v| is at least the natural number k. -/
def magGe (m : Nat) (e : Int) (k : Nat) : Bool := !magLt m e k 0

/-- e^x and 2^x. The magnitude is held at 1,024: beyond it the result overflows, or lies below half the smallest subnormal. -/
def realExp (s : Bool) (m : Nat) (e : Int) : Val :=
  let (a, n) := fxExp (if magGe m e 1024 then signedMag s 1024 256 0 else fxOf s m e)
  fxVal a n
def realExp2 (s : Bool) (m : Nat) (e : Int) : Val :=
  let y := if magGe m e 1024 then signedMag s 1024 256 0 else fxOf s m e
  let n := y / fxOne
  fxVal (fxExpSmall (fxMul (y - n * fxOne) fxLn2)) n

/-- ln x and log2 x for x = m × 2^e > 0. -/
def fxLn (m : Nat) (e : Int) : Int :=
  let k : Int := (bitLen m : Int) - 1
  let f : Int := fxOf false m (-k)
  2 * fxAtanh (fxDiv (f - fxOne) (f + fxOne)) + (k + e) * fxLn2
def realLn (m : Nat) (e : Int) : Val := fxVal (fxLn m e) 0
def realLog2 (m : Nat) (e : Int) : Val :=
  if m = 2 ^ (bitLen m - 1) then fxVal (((bitLen m : Int) - 1 + e) * fxOne) 0 else fxVal (fxDiv (fxLn m e) fxLn2) 0

/-- The sine of a fixed-point number: reduced to [−π, π), then the series. -/
def fxSin (x : Int) : Int :=
  let r := (x + fxPi) % (2 * fxPi) - fxPi
  fxSeries (fxMul r r) (fun _ => -1) (fun k => (2 * (k : Int) + 2) * (2 * (k : Int) + 3)) 45 0 r r
def realSin (s : Bool) (m : Nat) (e : Int) : Val := fxVal (fxSin (fxOf s m e)) 0
def realCos (s : Bool) (m : Nat) (e : Int) : Val := fxVal (fxSin (fxOf s m e + fxPi / 2)) 0

/-- The logistic function of a fixed-point y, held at magnitude 1,024. -/
def fxSig (y : Int) : Val :=
  let y := max (-(2 ^ 266)) (min (2 ^ 266) y)
  if y < 0 then
    (let (a, n) := fxExp y
    let d := if n ≥ -256 then a / 2 ^ (-n).toNat else 0
    fxVal (fxDiv a (fxOne + d)) n)
  else
    let (a, n) := fxExp (-y)
    let d := if n ≥ -256 then a / 2 ^ (-n).toNat else 0
    fxVal (fxDiv fxOne (fxOne + d)) 0
def realSig (s : Bool) (m : Nat) (e : Int) : Val :=
  fxSig (if magGe m e 1024 then signedMag s 1024 256 0 else fxOf s m e)

/-- tanh x = (e^2x − 1) / (e^2x + 1), by the series of e^2x − 1 where x is small. -/
def realTanh (s : Bool) (m : Nat) (e : Int) : Val :=
  if magGe m e 64 then fxVal (signedMag s 1 256 0) 0
  else if !magGe (4 * m) e 1 then
    -- below 1/4: the operand as it stands times (1 − x²/3 + …), its power of two kept apart
    let y := 2 * fxOf false m e
    let q := fxSeries y (fun _ => 1) (fun k => (k : Int) + 2) 70 0 fxOne fxOne
    let t := fxDiv (2 * q) (2 * fxOne + fxMul y q)
    match (Val.fin s m e).mul (fxVal t 0) with
    | .fin s m e => let (n, d) := roundMag .nearest 119 (-1000000) m e; .fin s n d
    | v => v
  else
    let (a, n) := fxExp (2 * fxOf false m e)
    let b := a * 2 ^ n.toNat
    fxVal (if s then -(fxDiv (b - fxOne) (b + fxOne)) else fxDiv (b - fxOne) (b + fxOne)) 0

/-- The square root of a fixed-point number, bit by bit. -/
def fxSqrt (a : Int) : Int := (isqrt (a.toNat * 2 ^ 256) : Int)

/-- erf x = 2/√π × x × (1 − x²/3 + x⁴/10 − …); beyond 8 it is 1 to more than 90 bits. -/
def realErf (s : Bool) (m : Nat) (e : Int) : Val :=
  if magGe m e 8 then fxVal (signedMag s 1 256 0) 0
  else
    let x := fxOf false m e
    let t := fxSeries (fxMul x x) (fun k => -(2 * (k : Int) + 1)) (fun k => ((k : Int) + 1) * (2 * (k : Int) + 3)) 300 0 fxOne fxOne
    match (Val.fin s m e).mul (fxVal (fxDiv (2 * t) (fxSqrt fxPi)) 0) with
    | .fin s m e => let (n, d) := roundMag .nearest 119 (-1000000) m e; .fin s n d
    | v => v

/-- GELU in its tanh form, x / (1 + e^−2u) with u = 0.7978846 (x + 0.044715 x³), and SiLU (R53). -/
def realGelu (s : Bool) (m : Nat) (e : Int) : Val :=
  let g := if magGe m e 64 then fxSig (signedMag s 1024 256 0)
    else
      let x := fxOf s m e
      fxSig (2 * (x + fxMul (fxMul x x) x * 44715 / 1000000) * 7978846 / 10000000)
  (Val.fin s m e).mul g
def realSilu (s : Bool) (m : Nat) (e : Int) : Val := (Val.fin s m e).mul (realSig s m e)

/-! ### The results within a bound -/

/-- A bound on an error: `n` ulp of FP32 at the exact value, an absolute 2^−n, or the greater of 2^−a relative and 2^−b absolute. -/
inductive Bound where
  | ulp (n : Nat)
  | abs (n : Nat)
  | rel (a b : Nat)
  deriving DecidableEq, Repr

/-- The bound as a magnitude, at exact value m × 2^e. -/
def Bound.at (b : Bound) (m : Nat) (e : Int) : Nat × Int :=
  match b with
  | .ulp n => (n, if m = 0 then Fmt.fp32.qmin else max (e + (bitLen m : Int) - 24) Fmt.fp32.qmin)
  | .abs n => (1, -(n : Int))
  | .rel a b => if magLt m (e - a) 1 (-(b : Int)) then (1, -(b : Int)) else (m, e - a)

/-- Whether an FP32 code is within a bound of an exact value; the bound is widened by 2^−80 of itself for the error of this file. -/
def within (b : Bound) (v : Val) (code : Nat) : Bool :=
  match v, fp32 code with
  | .fin s m e, .fin t n d =>
    (match (Val.fin s m e).sub (.fin t n d) with
    | .fin _ k l => let (p, q) := b.at m e; !magLt (p * (2 ^ 80 + 1)) (q - 80) k l
    | _ => false)
  | _, _ => false

/-- The FP32 result of a function whose exact value is `v`: the free choice where it is within the bound, else the nearest. A value
whose nearest FP32 is an infinity overflows. -/
def boundFp32 (b : Bound) (v : Val) (choice : Nat) : Nat :=
  let near := toFp32 v
  let c := choice % 2 ^ 32
  if (fp32 near).isFin && within b v c then c else near

end Sys2Proof.Machine
end

