-- ==== Sys2Proof/Machine/Rill.lean ====
section
/-! DEFINITION. The rill unit and the V slot (05 R128-R133; 07 R215-R222). -/
namespace Sys2Proof.Machine

/-- What issuing one slot gives: the next state with the tag of a NaN event, if any; a wait of the whole bundle (R206);
or a fault with its cause and trap code (R207). -/
inductive Res where
  | ok (c : Chip) (nan : Option Nat)
  | wait
  | fault (cause code : Nat)
  deriving DecidableEq, Repr

/-- s-register `r` of a sequencer as the bundle reads it (R205). -/
def Seqr.reg (s : Seqr) (r : Nat) : Nat := Map.get 0 s.s r

/-- s-register `r` takes a value. -/
def Chip.setS (c : Chip) (kc sq r v : Nat) : Chip :=
  let s := c.seqr kc sq
  c.setSeqr kc sq { s with s := Map.put 0 s.s r (v % 2 ^ 64) }

/-! ### Views (R129, R216) -/

/-- The element type that TY names (R216). -/
def tyFmt (ty : Nat) : Fmt :=
  [Fmt.fp32, .bf16, .fp16, .fp64, .w40, .int32, .int16, .int8, .int4].getD ty .fp32

/-- Whether TY uses the pair view. -/
def tyPair (ty : Nat) : Bool := ty == 3 || ty == 4

/-- Element width in bits, elements held in one lane, elements of the view. -/
def tyW (ty : Nat) : Nat := (tyFmt ty).width
def tyPer (ty : Nat) : Nat := if tyPair ty then 1 else 32 / tyW ty
def tyE (ty : Nat) : Nat := 2048 * tyPer ty

/-- A register's contents; what a reset left undefined is free (R128). -/
def Cluster.vreg (x : Cluster) (kc r : Nat) : Nat :=
  (x.v.find r).getD (if x.rillEpoch = 0 then 0 else Config.freeReg x.rillEpoch kc r % 2 ^ 65536)

/-- A predicate register's contents; p0 reads as all ones (R128). -/
def Cluster.preg (x : Cluster) (kc r : Nat) : Nat :=
  if r = 0 then 2 ^ 2048 - 1
  else (x.p.find r).getD (if x.rillEpoch = 0 then 0 else Config.freeReg x.rillEpoch kc (64 + r) % 2 ^ 2048)

/-- A number from fields of `w` bits, the first least significant. -/
def pack (w : Nat) (xs : List Nat) : Nat := xs.foldr (fun v a => v % 2 ^ w + a * 2 ^ w) 0

/-- The element codes of a register in the view of `ty`. -/
def Cluster.elems (x : Cluster) (kc ty r : Nat) : List Nat :=
  let v := x.vreg kc r
  if tyPair ty then
    let h := x.vreg kc (r + 1)
    (List.range 2048).map (fun j => bits v (32 * j) 32 + bits h (32 * j) (tyW ty - 32) * 2 ^ 32)
  else (List.range (tyE ty)).map (fun j => bits v (tyW ty * j) (tyW ty))

/-- A register written in the view of `ty`; an absent element keeps its lane (R132). -/
def Cluster.setElems (x : Cluster) (kc ty r : Nat) (xs : List (Option Nat)) : Cluster :=
  let old := x.elems kc ty r
  let new := List.zipWith (fun o n => n.getD o) old xs
  if tyPair ty then
    let hi := (List.zipWith (fun o n => match n with
      | some v => v / 2 ^ 32
      | none => o) ((List.range 2048).map (fun j => bits (x.vreg kc (r + 1)) (32 * j) 32)) xs)
    { x with v := (x.v.set r (pack 32 (new.map (· % 2 ^ 32)))).set (r + 1) (pack 32 hi) }
  else { x with v := x.v.set r (pack (tyW ty) new) }

/-- Whether lane `l` is present under the effective predicate (R132, R215). -/
def laneOn (mask : Nat) (l : Nat) : Bool := bit mask l

/-- The effective predicate of an instruction. -/
def Cluster.mask (x : Cluster) (kc pred : Nat) (pneg : Bool) : Nat :=
  let p := x.preg kc pred
  if pneg then (2 ^ 2048 - 1) - p else p

/-- Elements masked by lane. -/
def maskBy (mask per : Nat) (xs : List Nat) : List (Option Nat) :=
  xs.zipIdx.map (fun e => if laneOn mask (e.2 / per) then some e.1 else none)

/-! ### Arithmetic (R131, R216, R217) -/

/-- An integer result wrapped, or saturated (R131, R216). -/
def fitInt (w : Nat) (sgn sat : Bool) (i : Int) : Nat :=
  let (lo, hi) : Int × Int := if sgn then (-2 ^ (w - 1), 2 ^ (w - 1) - 1) else (0, 2 ^ w - 1)
  wrapInt w (if sat then (if i < lo then lo else if i > hi then hi else i) else i)

/-- Minimum and maximum (R131): NaN if either input is, +0 above −0. -/
def vMin (a b : Val) : Val :=
  if a.isNaN || b.isNaN then .nan else if a.lt b || (a.isZero && b.isZero && a.isNeg) then a else b
def vMax (a b : Val) : Val :=
  if a.isNaN || b.isNaN then .nan else if b.lt a || (a.isZero && b.isZero && !a.isNeg) then a else b

/-- The two- and three-operand arithmetic on values. -/
def fOp (op : VOp) (a b d : Val) : Val :=
  match op with
  | .vadd => a.add b
  | .vsub => a.sub b
  | .vmul => a.mul b
  | .vfma => a.fma b d
  | .vfms => a.fma b d.neg
  | .vfnma => a.neg.fma b d
  | .vmin => vMin a b
  | _ => vMax a b

/-- The same on integers. -/
def iOp (op : VOp) (a b d : Int) : Int :=
  match op with
  | .vadd => a + b
  | .vsub => a - b
  | .vmul => a * b
  | .vfma => a * b + d
  | .vfms => a * b - d
  | .vfnma => -(a * b) + d
  | .vmin => min a b
  | _ => max a b

/-- One element of an arithmetic instruction. -/
def arith1 (op : VOp) (ty : Nat) (sgn sat : Bool) (a b d : Nat) : Nat :=
  let f := tyFmt ty
  if f.isInt then
    let i (c : Nat) : Int := if sgn then sext f.width c else (c : Int)
    fitInt f.width sgn sat (iOp op (i a) (i b) (i d))
  else roundArith f (fOp op (decodeVal f sgn a) (decodeVal f sgn b) (decodeVal f sgn d))

/-- One element of a logical, sign or shift instruction; shifts by VB modulo the width (R217). -/
def logic1 (op : VOp) (ty : Nat) (a b : Nat) : Nat :=
  let w := tyW ty
  match op with
  | .vand => a &&& b
  | .vor => a ||| b
  | .vxor => a ^^^ b
  | .vnot => 2 ^ w - 1 - a
  | .vshl => (a * 2 ^ (b % w)) % 2 ^ w
  | .vshr => a >>> (b % w)
  | .vsra => wrapInt w (sext w a / 2 ^ (b % w))
  | .vabs => setBits a (w - 1) 1 0
  | _ => setBits a (w - 1) 1 (1 - bits a (w - 1) 1)

/-- One comparison (R217). -/
def cmp1 (op : VOp) (ty : Nat) (sgn : Bool) (a b : Nat) : Bool :=
  let f := tyFmt ty
  let (x, y) := (decodeVal f sgn a, decodeVal f sgn b)
  match op with
  | .vceq => x.eq y
  | .vcne => !x.eq y
  | .vclt => x.lt y
  | _ => x.lt y || x.eq y

/-! ### Special functions (R133) -/

/-- The exact value of special function `fn` (its opcode) of a finite operand, with the bound of R133. -/
def specialReal (fn : Nat) (s : Bool) (m : Nat) (e : Int) : Val × Bound :=
  match fn with
  | 0x40 => (Val.div (.fin false 1 0) (.fin s m e), .ulp 1)
  | 0x41 => (Val.sqrt (Val.div (.fin false 1 0) (.fin s m e)), .ulp 1)
  | 0x43 => (realExp2 s m e, .ulp 1)
  | 0x44 => (realExp s m e, .ulp 2)
  | 0x45 => (realLog2 m e, .ulp 1)
  | 0x46 => (realLn m e, .ulp 2)
  | 0x47 => (realSin s m e, if magLt (2 ^ 20) 0 m e then .abs 20 else .ulp 2)
  | 0x48 => (realCos s m e, if magLt (2 ^ 20) 0 m e then .abs 20 else .ulp 2)
  | 0x49 => (realTanh s m e, .ulp 2)
  | 0x4A => (realSig s m e, .ulp 2)
  | _ => (realErf s m e, .ulp 2)

/-- The FP32 result of special function `fn` (its opcode) of FP32 bits `x`: the special cases exactly, a square root
correctly rounded, every other result free within the function's bound (log entry 21). -/
def special1 (fn x : Nat) : Nat :=
  let v := fp32 x
  let inf (s : Bool) : Nat := Fmt.fp32.infCode s
  let nan := Fmt.fp32.canonNaN
  let one := 0x3F800000
  match v with
  | .nan => nan
  | .inf s =>
    match fn with
    | 0x40 => b2n s * 2 ^ 31
    | 0x41 => if s then nan else 0
    | 0x42 => if s then nan else inf false
    | 0x43 => if s then 0 else inf false
    | 0x44 => if s then 0 else inf false
    | 0x45 => if s then nan else inf false
    | 0x46 => if s then nan else inf false
    | 0x47 => nan
    | 0x48 => nan
    | 0x49 => if s then one + 2 ^ 31 else one
    | 0x4A => if s then 0 else one
    | _ => if s then one + 2 ^ 31 else one
  | .fin s m e =>
    let (r, b) := specialReal fn s m e
    let res := boundFp32 b r (Config.special fn x)
    match fn with
    | 0x40 => if m = 0 then inf s else res
    | 0x41 => if m = 0 then inf s else if s then nan else res
    | 0x42 => toFp32 v.sqrt
    | 0x45 => if m = 0 then inf true else if s then nan else res
    | 0x46 => if m = 0 then inf true else if s then nan else res
    | _ => res

/-- A special function in TY: BF16 and FP16 are widened and rounded once (R133). -/
def specialTy (fn ty x : Nat) : Nat :=
  if ty = 0 then special1 fn x
  else
    let f := tyFmt ty
    roundArith f (fp32 (special1 fn (toFp32 (decodeVal f true x))))

/-! ### Conversion between views (R218) -/

/-- One element of VCVT from type `src` to type `dst` (R218). -/
def cvt1 (src dst : Nat) (sgn sat : Bool) (a : Nat) : Nat :=
  let (f, g) := (tyFmt src, tyFmt dst)
  match decodeVal f sgn a with
  | .fin s m e =>
    if g.isInt && !sat then wrapInt g.width (roundInt .nearest s m e) else (convert g sgn .saturate .nearest (.fin s m e)).code
  | v => (convert g sgn .saturate .nearest v).code

/-- VCVT: the new elements of VD in the view of TY (R218); `h` is the position H. -/
def cvtElems (src dst : Nat) (sgn sat : Bool) (h : Nat) (xs old : List Nat) : List (Option Nat) :=
  if tyPer dst > 1 then
    let per := tyPer dst
    (List.range (tyE dst)).map (fun j =>
      if j % per = h then some (cvt1 src dst sgn sat (xs.getD (j / per) 0)) else some (old.getD j 0))
  else if tyPer src > 1 then
    (List.range 2048).map (fun j => some (cvt1 src dst sgn sat (xs.getD (j * tyPer src + h) 0)))
  else xs.map (fun a => some (cvt1 src dst sgn sat a))

/-! ### Reductions (R97, R219) -/

def accFmt (a : Nat) : Fmt := if a = 0 then .fp32 else if a = 1 then .w40 else .fp64

/-- Whether ACC may hold the view of TY (R219). -/
def accOk (ty acc : Nat) : Bool :=
  if ty = 3 then acc == 2 else if ty = 4 then acc == 1 || acc == 2 else if ty = 5 then acc == 1 || acc == 2 else true

/-- One join of the tree. -/
def join1 (f : Fmt) (isMax : Bool) (a b : Option Nat) : Option Nat :=
  match a, b with
  | none, x => x
  | x, none => x
  | some x, some y =>
    let (v, w) := (decodeVal f true x, decodeVal f true y)
    some (roundArith f (if isMax then vMax v w else v.add w))

/-- The fixed tree (R219): element i joins element i + E/2, level by level. -/
def tree (f : Fmt) (isMax : Bool) : Nat → List (Option Nat) → Option Nat
  | 0, xs => xs.headD none
  | n + 1, xs =>
    let h := xs.length / 2
    if h = 0 then xs.headD none else tree f isMax n (List.zipWith (join1 f isMax) (xs.take h) (xs.drop h))

/-- A reduction's result bits (R132, R219). -/
def reduce (op : VOp) (ty acc : Nat) (sgn : Bool) (as bs : List (Option Nat)) : Nat :=
  let f := accFmt acc
  let g := tyFmt ty
  let isMax := decide (op = .vredMax)
  let leaf (a b : Option Nat) : Option Nat :=
    match a with
    | none => none
    | some x =>
      let v := decodeVal g sgn x
      if op = .vredDot then some (roundArith f (v.mul (decodeVal g sgn (b.getD 0)))) else some (roundArith f v)
  (tree f isMax 16 (List.zipWith leaf as bs)).getD (if isMax then f.lowest true else 0)

/-! ### Streams (R222) -/

/-- Whether format `g` represents every value of format `f` exactly (R222). -/
def holds (g : Fmt) (sgn : Bool) (f : Fmt) (fsigned : Bool) : Bool :=
  if g.isInt then f.isInt && decide (g.intMin sgn ≤ f.intMin fsigned) && decide (f.intMax fsigned ≤ g.intMax sgn)
  else if f.isInt then
    decide (f.width ≤ g.fbits + 1 + b2n fsigned) && (g != .fp16 || decide (f.width ≤ 11))
  else
    decide (f.fbits ≤ g.fbits) && decide (g.qmin ≤ f.qmin)
      && (let (m, e) := f.maxFin; let (n, d) := g.maxFin; !magLt n d m e)

/-- One element loaded with conversion: widened exactly to TY (R222). -/
def widen (f : Fmt) (fsigned : Bool) (ty : Nat) (a : Nat) : Nat :=
  let g := tyFmt ty
  let v := decodeVal f fsigned a
  if g.isInt then (match v with
    | .fin s m e => wrapInt g.width (roundInt .nearest s m e)
    | _ => 0)
  else roundArith g v

/-- Whether the rows that the present elements of a stream instruction lie in may be accessed; masked lanes touch nothing that can
fault (R132). -/
def Ag.maskOk (g : Ag) (mask per n : Nat) (write : Bool) : Bool :=
  (List.range (g.rowEnd n - g.row)).all (fun i =>
    dRowOk g.desc (g.row + i) write ||
      !(List.range (dElems g.desc)).any (fun j =>
        let q := i * dElems g.desc + j
        decide (g.elem ≤ q ∧ q < g.elem + n) && laneOn mask ((q - g.elem) / per)))

/-- The stream of AG4 or AG5 that a rill instruction consumes: none is CAUSE 1, an inner none CAUSE 6 (R487). -/
def Cluster.rillAg (x : Cluster) (k w n mask per : Nat) (write : Bool) : Option (Option Ag) :=
  match x.ag.find k with
  | none => some none
  | some g =>
    if dEbits g.desc ≠ w ∨ dKvalid g.desc > dHolds g.desc then none
    else if g.has n && g.maskOk mask per n write then some (some g) else some none

/-- VLD (R222). -/
def execVld (c : Chip) (kc : Nat) (k : Kern) (vd mask ty : Nat) (sgn raw : Bool) (tag : Nat) : Res :=
  let x := c.cl kc
  let n := tyE ty
  if raw then
    match x.rillAg 4 (tyW ty) n mask (tyPer ty) false with
    | none => .fault 1 0
    | some none => .fault 6 0
    | some (some g) =>
      let pad := if dPadv g.desc then (tyFmt ty).lowest sgn else 0
      let cs := c.elems kc g (tyW ty) pad n
      .ok (c.setCl kc { x.setElems kc ty vd (maskBy mask (tyPer ty) cs) with ag := x.ag.set 4 (g.skip n) }) none
  else
    match c.tagOf kc k tag with
    | .addr => .fault 6 0
    | .bad => .fault 7 0
    | .ok t =>
      if !holds (tyFmt ty) sgn t.fmt t.signed then .fault 7 0
      else
        let c := c.tagUse kc t.off
        let x := c.cl kc
        match x.rillAg 4 t.fmt.width n mask (tyPer ty) false with
        | none => .fault 1 0
        | some none => .fault 6 0
        | some (some g) =>
          let pad := if dPadv g.desc then t.fmt.lowest t.signed else 0
          let cs := (c.elems kc g t.fmt.width pad n).map (widen t.fmt t.signed ty)
          .ok (c.setCl kc { x.setElems kc ty vd (maskBy mask (tyPer ty) cs) with ag := x.ag.set 4 (g.skip n) }) none

/-- VLDS (R217). -/
def execVlds (c : Chip) (kc vd mask : Nat) : Res :=
  let x := c.cl kc
  match x.rillAg 4 8 2048 mask 1 false with
  | none => .fault 1 0
  | some none => .fault 6 0
  | some (some g) =>
    let cs := (c.elems kc g 8 0 2048).map (fun b => toFp32 (decodeVal .e8m0 false b))
    .ok (c.setCl kc { x.setElems kc 0 vd (maskBy mask 1 cs) with ag := x.ag.set 4 (g.skip 2048) }) none

/-- The MX blocks of a store from stream position `pos`, of elements (index, value): the scale codes by block index, and
the elements' codes (R80, R222). A block with no present element gives neither. -/
def mxStore (e : ConvEnv) (per : Nat) :
    Nat → Nat → List (Nat × Option Val) → GenBank → Tally → List (Nat × Nat) → List (Option Nat) →
      List (Nat × Nat) × List (Option Nat) × GenBank × Tally
  | 0, _, _, g, t, ss, cs => (ss, cs, g, t)
  | fuel + 1, pos, xs, g, t, ss, cs =>
    if xs.isEmpty then (ss, cs, g, t)
    else
      let n := 32 - pos % 32
      let blk := xs.take n
      let pres := blk.filterMap (fun (b : Nat × Option Val) => b.2.map (fun v => (b.1, b.1 / per, v)))
      if pres.isEmpty then mxStore e per fuel (pos + n) (xs.drop n) g t ss (cs ++ blk.map (fun _ => none))
      else
        let (sc, codes, g, t) := mxBlock e pres g t
        let put (r : List Nat × List (Option Nat)) (b : Nat × Option Val) : List Nat × List (Option Nat) :=
          match b.2, r.1 with
          | some _, y :: ys => (ys, r.2 ++ [some y])
          | _, ys => (ys, r.2 ++ [none])
        let out := (blk.foldl put (codes, [])).2
        mxStore e per fuel (pos + n) (xs.drop n) g t (ss ++ [(pos / 32, sc)]) (cs ++ out)

/-- VST (R222). The position of a non-finite result is its index among the instruction's elements (R91). -/
def execVst (c : Chip) (kc : Nat) (k : Kern) (vd mask ty : Nat) (sgn raw : Bool) (tag : Nat) : Res :=
  let n := tyE ty
  let x := c.cl kc
  let codes := x.elems kc ty vd
  if raw then
    match x.rillAg 5 (tyW ty) n mask (tyPer ty) true with
    | none => .fault 1 0
    | some none => .fault 6 0
    | some (some g) =>
      let c := c.putElems kc g (tyW ty) (maskBy mask (tyPer ty) codes) (n + 1)
      let x := c.cl kc
      .ok (c.setCl kc { x with ag := x.ag.set 5 (g.skip n) }) none
  else
    match c.tagOf kc k tag with
    | .addr => .fault 6 0
    | .bad => .fault 7 0
    | .ok t =>
      let c := c.tagUse kc t.off
      let x := c.cl kc
      match x.rillAg 5 t.fmt.width n mask (tyPer ty) true with
      | none => .fault 1 0
      | some none => .fault 6 0
      | some (some g) =>
        let f := tyFmt ty
        let env : ConvEnv := { fmt := t.fmt, signed := t.signed, ovf := t.ovf, base := rillBase (c.clRole kc),
                               stoch := t.stoch && (t.mx || !holds t.fmt t.signed f sgn) }
        let vals := codes.zipIdx.map (fun e =>
          (e.2, if laneOn mask (e.2 / tyPer ty) then some (decodeVal f sgn e.1) else none))
        if t.mx then
          let nblk := (g.pos + n + 31) / 32 - g.pos / 32
          match c.reach k.basin (t.scales + g.pos / 32) nblk true with
          | some (.cis kc2 off) =>
            if kc2 ≠ kc ∨ off + nblk > latchOfs then .fault 6 0
            else
              let (ss, cs, gen, tl) := mxStore env (tyPer ty) (n + 1) g.pos vals x.rill {} [] []
              let c := c.putElems kc g t.fmt.width cs (n + 1)
              let c := ss.foldl (fun c e => c.wr (.cis kc (off + (e.1 - g.pos / 32))) [BitVec.ofNat 8 e.2]) c
              let x := c.cl kc
              let c := c.setCl kc { x with ag := x.ag.set 5 (g.skip n), rill := gen }
              let c := c.foldTag kc k.basin t.off tl k.side k.stamp
              let c := if tl.nonfinite > 0 && !k.side then c.taint k.basin k.stamp else c
              .ok c (tl.trap.map (fun _ => tag))
          | _ => .fault 6 0
        else
          let pres := vals.filterMap (fun e => e.2.map (fun v => (e.1, e.1 / tyPer ty, v)))
          let (out, gen, tl) := convElems env pres x.rill {} []
          let put (r : List Nat × List (Option Nat)) (b : Nat × Option Val) : List Nat × List (Option Nat) :=
            match b.2, r.1 with
            | some _, y :: ys => (ys, some y :: r.2)
            | _, ys => (ys, none :: r.2)
          let cs := (vals.foldl put (out, [])).2.reverse
          let c := c.putElems kc g t.fmt.width cs (n + 1)
          let x := c.cl kc
          let c := c.setCl kc { x with ag := x.ag.set 5 (g.skip n), rill := gen }
          let c := c.foldTag kc k.basin t.off tl k.side k.stamp
          let c := if tl.nonfinite > 0 && !k.side then c.taint k.basin k.stamp else c
          .ok c (tl.trap.map (fun _ => tag))

/-! ### The V slot -/

/-- Whether an operation names VA, VB, VC and VD as vector registers, for the pair check of R216 (CAUSE 11). -/
def vUses (op : VOp) (bs : Bool) : Bool × Bool × Bool × Bool :=
  match op with
  | .vadd | .vsub | .vmul | .vmin | .vmax | .vand | .vor | .vxor | .vshl | .vshr | .vsra | .vperm | .vscl =>
    (true, !bs, false, true)
  | .vfma | .vfms | .vfnma => (true, !bs, true, true)
  | .vabs | .vneg | .vnot | .vrcp | .vrsq | .vsqrt | .vexp2 | .vexp | .vlog2 | .vln | .vsin | .vcos | .vtanh | .vsig
  | .verf => (true, false, false, true)
  | .vceq | .vcne | .vclt | .vcle => (true, !bs, false, false)
  | .vsel => (true, !bs, false, true)
  | .vbcast | .viota | .vgen => (false, false, false, true)
  | .vext => (true, false, false, false)
  | .vredSum | .vredMax => (true, false, false, false)
  | .vredDot => (true, !bs, false, false)
  | _ => (false, false, false, false)

/-- Whether an odd register is named under a pair view (R216, R218). -/
def oddPair (op : VOp) (vd va vb vc ty : Nat) (bs : Bool) : Bool :=
  if op = .vcvt then (tyPair (bits vb 0 4) && va % 2 == 1) || (tyPair ty && vd % 2 == 1)
  else
    let (a, b, d, e) := vUses op bs
    tyPair ty && ((a && va % 2 == 1) || (b && vb % 2 == 1) || (d && vc % 2 == 1) || (e && vd % 2 == 1))

/-- Whether TY is allowed for an operation (R207 cause 1, R217-R221). -/
def tyOk (op : VOp) (vb vc ty acc : Nat) (sgn : Bool) : Bool :=
  match op with
  | .vshl | .vshr | .vsra | .viota => (tyFmt ty).isInt
  | .vceq | .vcne | .vclt | .vcle => tyPer ty == 1
  | .vscl => ty == 0
  | .vgen => ty == 5 && !sgn
  | .vredSum | .vredMax | .vredDot => accOk ty acc
  | .vrcp | .vrsq | .vsqrt | .vexp2 | .vexp | .vlog2 | .vln | .vsin | .vcos | .vtanh | .vsig | .verf => decide (ty < 3)
  | .vcvt =>
    let src := bits vb 0 4
    decide (src ≤ 8) && !(tyPer src > 1 && tyPer ty > 1) && decide (bits vc 0 3 < max (tyPer src) (tyPer ty))
  | _ => true

/-- The lane predicates of a result list, packed. -/
def packBools (xs : List Bool) : Nat := pack 1 (xs.map b2n)

/-- A predicate register takes a value; writes to p0 are ignored (R128). -/
def Cluster.setP (x : Cluster) (r v : Nat) : Cluster := if r = 0 then x else { x with p := x.p.set r v }

/-- VGEN: each present lane's generator advances and the lane takes bits [63:32] (R221). -/
def vgenLanes (base mask : Nat) : Nat → Nat → GenBank → List (Option Nat) → List (Option Nat) × GenBank
  | 0, _, g, acc => (acc.reverse, g)
  | n + 1, l, g, acc =>
    if laneOn mask l then
      let (s, g) := g.step base l
      vgenLanes base mask n (l + 1) g (some (s >>> 32) :: acc)
    else vgenLanes base mask n (l + 1) g (none :: acc)

/-- A V.R instruction on the cluster; `x0` holds the sources as the bundle reads them (R205). -/
def execVr (c : Chip) (kc sq : Nat) (x0 : Cluster) (op : VOp) (vd va vb vc mask ty : Nat) (sgn sat : Bool) (acc : Nat)
    (bs : Bool) : Res :=
  let x := c.cl kc
  let e := tyE ty
  let s := (x0.seq sq).reg
  let A := x0.elems kc ty va
  let B := if bs then (List.range e).map (fun j => bits (s (vb % 32)) (tyW ty * (j % tyPer ty)) (tyW ty)) else x0.elems kc ty vb
  let put (xs : List Nat) : Res := .ok (c.setCl kc (x.setElems kc ty vd (maskBy mask (tyPer ty) xs))) none
  match op with
  | .vadd | .vsub | .vmul | .vfma | .vfms | .vfnma | .vmin | .vmax =>
    let D := if op = .vfma ∨ op = .vfms ∨ op = .vfnma then x0.elems kc ty vc else B
    put (List.zipWith (fun (p : Nat × Nat) d => arith1 op ty sgn sat p.1 p.2 d) (A.zip B) D)
  | .vabs | .vneg | .vnot => put (A.map (fun a => logic1 op ty a 0))
  | .vand | .vor | .vxor | .vshl | .vshr | .vsra => put (List.zipWith (logic1 op ty) A B)
  | .vceq | .vcne | .vclt | .vcle =>
    let old := x.preg kc (vd % 8)
    let r := (List.zipWith (cmp1 op ty sgn) A B).zipIdx.map (fun p => if laneOn mask p.2 then p.1 else bit old p.2)
    .ok (c.setCl kc (x.setP (vd % 8) (packBools r))) none
  | .vsel =>
    let p := x0.preg kc (vc % 8)
    put ((A.zip B).zipIdx.map (fun q => if bit p (q.2 / tyPer ty) then q.1.1 else q.1.2))
  | .vcvt =>
    let src := bits vb 0 4
    let h := bits vc 0 3
    let xs := cvtElems src ty sgn sat h (x0.elems kc src va) (x.elems kc ty vd)
    let xs := xs.zipIdx.map (fun q => if laneOn mask (q.2 / tyPer ty) then q.1 else none)
    .ok (c.setCl kc (x.setElems kc ty vd xs)) none
  | .vperm => put (B.map (fun i => A.getD (i % e) 0))
  | .vbcast => put (List.replicate e (s (va % 32) % 2 ^ tyW ty))
  | .vext =>
    let j := s (vb % 32) % e
    if laneOn mask (j / tyPer ty) then .ok (c.setS kc sq (vd % 32) (A.getD j 0)) none else .ok c none
  | .vscl => put ((List.range 2048).map (fun j => toFp32 ((fp32 (A.getD j 0)).mul (fp32 (B.getD (j / 32) 0)))))
  | .viota => put (List.range e)
  | .vredSum | .vredMax | .vredDot =>
    .ok (c.setS kc sq (vd % 32) (reduce op ty acc sgn (maskBy mask (tyPer ty) A) (maskBy mask (tyPer ty) B))) none
  | .pand => .ok (c.setCl kc (x.setP (vd % 8) (x0.preg kc (va % 8) &&& x0.preg kc (vb % 8)))) none
  | .por => .ok (c.setCl kc (x.setP (vd % 8) (x0.preg kc (va % 8) ||| x0.preg kc (vb % 8)))) none
  | .pxor => .ok (c.setCl kc (x.setP (vd % 8) (x0.preg kc (va % 8) ^^^ x0.preg kc (vb % 8)))) none
  | .pnot => .ok (c.setCl kc (x.setP (vd % 8) (2 ^ 2048 - 1 - x0.preg kc (va % 8)))) none
  | .pfirst => .ok (c.setCl kc (x.setP (vd % 8) (2 ^ (min (s (va % 32)) 2048) - 1))) none
  | .pcnt =>
    let p := x0.preg kc (va % 8)
    .ok (c.setS kc sq (vd % 32) ((List.range 2048).foldl (fun n l => n + bits p l 1) 0)) none
  | .vgen =>
    let (xs, g) := vgenLanes (rillBase (c.clRole kc)) mask 2048 0 x.rill []
    .ok (c.setCl kc { x.setElems kc 5 vd xs with rill := g }) none
  | .vagb =>
    let d := Map.get 0 x0.a (va % 16)
    let g := 4 + vd % 2
    if dOk g d then .ok (c.setCl kc { x with ag := x.ag.set g { desc := d } }) none else .fault 1 0
  | _ => put (A.map (specialTy op.code ty))

/-- The V slot of a bundle (R215-R222). -/
def execV (c : Chip) (kc sq : Nat) (k : Kern) (x0 : Cluster) (i : VInst) : Res :=
  match i with
  | .empty => .ok c none
  | .r op vd va vb vc pred pneg ty sgn sat acc bs =>
    if !tyOk op vb vc ty acc sgn then .fault 1 0
    else if oddPair op vd va vb vc ty bs then .fault 11 0
    else execVr c kc sq x0 op vd va vb vc (x0.mask kc pred pneg) ty sgn sat acc bs
  | .m op vd pred pneg ty sgn raw tag =>
    if tyPair ty && vd % 2 == 1 then .fault 11 0
    else
      let mask := x0.mask kc pred pneg
      match op with
      | .vld => execVld c kc k vd mask ty sgn raw tag
      | .vst => execVst c kc k vd mask ty sgn raw tag
      | .vlds => execVlds c kc vd mask

end Sys2Proof.Machine
end

