-- ==== Sys2Proof/Machine/Array.lean ====
section
/-! DEFINITION. The matrix array, the burnish stage and the M slot (02 R39-R58, R486; 03 R73-R80; 07 R224-R226). -/
namespace Sys2Proof.Machine

/-! ### Operand pairs and tiles -/

/-- Formats of the 8-bit float class (R73). -/
def isF8 (f : Fmt) : Bool := f == .e2m1 || f == .e3m2 || f == .e2m3 || f == .e4m3 || f == .e5m2
def isF16 (f : Fmt) : Bool := f == .bf16 || f == .fp16
def isI8 (f : Fmt) : Bool := f == .int8 || f == .int4

/-- The rate class of an operand pair, 4, 8 or 16 bits; none where the arrays do not accept it (R73). -/
def pairCls (a w : Fmt) : Option Nat :=
  if (a = .e2m1 ∧ w = .e2m1) ∨ (a = .int4 ∧ w = .int4) then some 4
  else if (isF8 a && isF8 w) || (isI8 a && isI8 w) then some 8
  else if isF16 a && isF16 w then some 16
  else none

/-- K elements of a tile of `n` cell rows (R40). -/
def tileK (cls n : Nat) : Nat := if cls = 4 then 2 * n else if cls = 8 then n else n / 2

/-- The weight code at K index `k` of column `n` (R486, R40; log entry 16 for 16 bits). -/
def Tile.at (t : Tile) (cls k n : Nat) : Nat :=
  let w := t.fmt.fmt.width
  if cls = 4 then bits (t.rows.getD (k / 2) 0) (w * (2 * n + k % 2)) w
  else if cls = 8 then bits (t.rows.getD k 0) (w * n) w
  else bits (t.rows.getD (2 * k + n / 128) 0) (w * (n % 128)) w

/-- An E8M0 scale code as a value. -/
def e8 (c : Nat) : Val := decodeVal .e8m0 false c

/-! ### Group sums (R75, R76, R78) -/

/-- The exact sum of a list of products, no +0 before the first (R75). -/
def sumVals : List Val → Val
  | [] => .fin false 0 0
  | v :: t => t.foldl Val.add v

/-- The K indices of group `g0` below the K extent, and whether the group reaches beyond it (R47, R75). -/
def groupIdx (g0 G ext : Nat) : List Nat × Bool :=
  ((List.range G).filterMap (fun i => if g0 + i < ext then some (g0 + i) else none), decide (ext < g0 + G))

/-- One output element of a pass: row operand codes `a`, its block scales `sa`, column `n` (R75, R76, R78). -/
def accEl (t : Tile) (fmt : OpFmt) (cls : Nat) (a sa : List Nat) (ext n : Nat) (isInt signed : Bool) (acc : Acc) : Acc :=
  let G := if cls = 16 then 16 else 32
  (List.range ((ext + G - 1) / G)).foldl (fun (acc : Acc) gi =>
    let (ks, edge) := groupIdx (gi * G) G ext
    let av (k : Nat) : Val := decodeVal fmt.fmt fmt.signed (a.getD k 0)
    let wv (k : Nat) : Val := decodeVal t.fmt.fmt t.fmt.signed (t.at cls k n)
    let prods := ks.map (fun k => (av k).mul (wv k))
    let sum := if edge then (sumVals prods).add (.fin false 0 0) else sumVals prods
    if isInt then
      if acc.held then acc
      else
        let cur : Int := if signed then sext 32 acc.v else (acc.v : Int)
        let add : Int := match sum with
          | .fin s m e => if s then -((m * 2 ^ e.toNat : Nat) : Int) else ((m * 2 ^ e.toNat : Nat) : Int)
          | _ => 0
        let (lo, hi) : Int × Int := if signed then (-2 ^ 31, 2 ^ 31 - 1) else (0, 2 ^ 32 - 1)
        let r := cur + add
        if r < lo then { v := wrapInt 32 lo, any := true, held := true }
        else if r > hi then { v := wrapInt 32 hi, any := true, held := true }
        else { v := wrapInt 32 r, any := true }
    else
      let s1 := if fmt.mx then sum.mul (e8 (sa.getD gi 0)) else sum
      let s2 := if t.fmt.mx then s1.mul (e8 ((t.scale.getD gi []).getD n 0)) else s1
      let g := toFp32 s2
      { acc with v := if acc.any then toFp32 ((fp32 acc.v).add (fp32 g)) else g, any := true }) acc

/-! ### Streams of the array -/

/-- Row codes of `n` elements of width `w`. -/
def rowCodes (w n r : Nat) : List Nat := (List.range n).map (fun j => bits r (w * j) w)

/-- The block-scale bytes of stream row `r` (log entry 15): block `k` of row `r` of the operand stream has byte index
r × ceil(elements / 32) + k of the scale tensor. Poison there stops the kernel as a bad address does (R248). -/
def Chip.opScales (c : Chip) (b : Nat) (f : OpFmt) (r n : Nat) : Option (List Nat) :=
  let nb := ceilDiv n 32
  if !f.mx then some []
  else match c.reach b (f.scales + r * nb) nb true with
    | some p => if c.poisonAt p nb then none else some ((c.rd p nb).map (·.toNat))
    | none => none

/-- The block scales of a weight tile whose first cell row is stream row `r` (log entry 15): K block `i` of the tile, for
all columns, at byte index (K block number from iteration zero) × elements + column. -/
def Chip.tileScales (c : Chip) (b : Nat) (f : OpFmt) (cls r crows n : Nat) : Option (List (List Nat)) :=
  let nb := ceilDiv (tileK cls crows) 32
  let first := tileK cls r / 32
  if !f.mx then some []
  else (List.range nb).mapM (fun i =>
    match c.reach b (f.scales + (first + i) * n) n true with
    | some p => if c.poisonAt p n then none else some ((c.rd p n).map (·.toNat))
    | none => none)

/-! ### Issue of M-slot instructions (R224-R226) -/

/-- The format an instruction takes from a tag (R174, R78). -/
def Tag.opFmt (t : Tag) : OpFmt := { fmt := t.fmt, signed := t.signed, mx := t.mx, scales := t.scales }

/-- `n` rows claimed from AG `g` for elements of width `w` (0: ESIZE is not looked at): none is CAUSE 1, an inner none
CAUSE 6 (R487); otherwise descriptor, first row, and the generator after them. -/
def Cluster.claim (x : Cluster) (g w n : Nat) : Option (Option (Nat × Nat × Cluster)) :=
  match x.ag.find g with
  | none => some none
  | some a =>
    if w ≠ 0 ∧ dEbits a.desc ≠ w then none
    else if a.row + n > dRows a.desc then some none
    else some (some (a.desc, a.row, { x with ag := x.ag.set g { a with row := a.row + n } }))

/-- The issue-order state of a set: rows and columns of its tile (R226). -/
def Arr.fill (a : Arr) (s : Nat) : Option (Nat × Nat) := if s = 0 then a.fill0 else a.fill1
def Arr.setFill (a : Arr) (s : Nat) (v : Option (Nat × Nat)) : Arr := if s = 0 then { a with fill0 := v } else { a with fill1 := v }
def Arr.set (a : Arr) (s : Nat) : AccSet := if s = 0 then a.set0 else a.set1
def Arr.setSet (a : Arr) (s : Nat) (v : AccSet) : Arr := if s = 0 then { a with set0 := v } else { a with set1 := v }

/-- MLOAD at issue. -/
def issueMload (c : Chip) (kc : Nat) (k : Kern) (bundle crows ncol wtag : Nat) : Res :=
  let x := c.cl kc
  if x.arr.q.length ≥ 4 then .wait
  else match c.tagOf kc k wtag with
    | .addr => .fault 6 0
    | .bad => .fault 7 0
    | .ok t =>
      if x.arr.fresh then .fault 8 0
      else match x.claim 1 t.fmt.width (crows + 1) with
        | none => .fault 1 0
        | some none => .fault 6 0
        | some (some (d, r, x)) =>
          let a := x.arr
          let a := { a with q := a.q ++ [ACmd.load (crows + 1) (ncol + 1) t.opFmt d r false bundle], fresh := true,
                            last := some (t.opFmt, crows + 1, ncol + 1), issued := { a.issued with loads := a.issued.loads + 1 } }
          .ok ((c.setCl kc { x with arr := a }).tagUse kc t.off) none

/-- MPASS at issue; `n` is the row count. -/
def issueMpass (c : Chip) (kc : Nat) (k : Kern) (bundle n set otag : Nat) : Res :=
  let x := c.cl kc
  if x.arr.q.length ≥ 4 then .wait
  else match x.arr.last with
    | none => .fault 8 0
    | some (w, _, ncol) =>
      if n = 0 ∨ n > 256 then .fault 8 0
      else match c.tagOf kc k otag with
        | .addr => .fault 6 0
        | .bad => .fault 7 0
        | .ok t =>
          match pairCls t.fmt w.fmt with
          | none => .fault 7 0
          | some cls =>
            let broken := match x.arr.fill set with
              | some (m, nc) => x.arr.lastSet != set || m != n || nc != ncol
              | none => false
            if broken then .fault 8 0
            else match x.claim 0 t.fmt.width n with
              | none => .fault 1 0
              | some none => .fault 6 0
              | some (some (d, r, x)) =>
                let a := x.arr
                let a := ({ a with q := a.q ++ [ACmd.pass n set t.opFmt d r a.fresh cls bundle], fresh := false, lastSet := set,
                                   int0 := if set = 0 then t.fmt.isInt else a.int0, int1 := if set = 0 then a.int1 else t.fmt.isInt,
                                   issued := { a.issued with passes := a.issued.passes + 1 } }).setFill set (some (n, ncol))
                .ok ((c.setCl kc { x with arr := a }).tagUse kc t.off) none

/-- AG3 rows that a drain's vectors take (R224): each selected vector starts a new row. -/
def vecRows (rb rows ncol rsc csc : Nat) (bias : Bool) : Nat :=
  let sz (k : Nat) : Nat := if k = 1 then 1 else if k = 2 then 4 else 0
  ceilDiv (ncol * sz csc) rb + (if bias then ceilDiv (4 * ncol) rb else 0) + ceilDiv (rows * sz rsc) rb

/-- Whether the tile that a set holds in issue order is of integers (R226): by the operand of the last pass into it. -/
def Arr.fillInt (a : Arr) (s : Nat) : Bool := if s = 0 then a.int0 else a.int1

/-- MDRAIN at issue (R224-R226). -/
def issueMdrain (c : Chip) (kc : Nat) (k : Kern) (s : Nat → Nat) (bundle set otag : Nat) (raw : Bool) (act lsh : Nat)
    (clo chi bias : Bool) (rsc csc rc rt : Nat) : Res :=
  let x := c.cl kc
  if x.arr.q.length ≥ 4 then .wait
  else match x.arr.fill set with
    | none => .fault 8 0
    | some (m, n) =>
      match c.tagOf kc k otag with
      | .addr => .fault 6 0
      | .bad => .fault 7 0
      | .ok t =>
        let isInt := x.arr.fillInt set
        if (raw && (t.fmt != (if isInt then .int32 else .fp32))) || (!raw && t.fmt == .int32) then .fault 1 0
        else match x.claim 2 t.fmt.width m with
          | none => .fault 1 0
          | some none => .fault 6 0
          | some (some (d, r, x)) =>
            let need := rsc ≠ 0 ∨ csc ≠ 0 ∨ bias
            let v := if need then (match x.ag.find 3 with
                | none => none
                | some g => match x.claim 3 0 (vecRows (dRowBytes g.desc) m n rsc csc bias) with
                  | some (some (d3, r3, x)) => some (some (d3, r3), x)
                  | _ => none)
              else some (none, x)
            match v with
            | none => .fault 6 0
            | some (vec, x) =>
              let a := x.arr
              let cmd : DrainCmd :=
                { set := set, tag := otag, raw := raw, act := act, lsh := lsh, clo := clo, chi := chi, bias := bias,
                  rsc := rsc, csc := csc, rows := m, ncol := n, desc := d, row := r, vec := vec, clip := s rc,
                  rt := if raw then 0 else s rt, bundle := bundle, step := c.step k.basin }
              let iss := if set = 0 then { a.issued with drains0 := a.issued.drains0 + 1 }
                else { a.issued with drains1 := a.issued.drains1 + 1 }
              let a := ({ a with q := a.q ++ [ACmd.drain cmd], issued := iss }).setFill set none
              .ok ((c.setCl kc { x with arr := a }).tagUse kc t.off) none

/-- The M slot of a bundle (R224-R226); `x0` holds the sources as the bundle reads them. -/
def execM (c : Chip) (kc sq : Nat) (k : Kern) (x0 : Cluster) (bundle : Nat) (i : MInst) : Res :=
  let s := (x0.seq sq).reg
  match i with
  | .empty => .ok c none
  | .agb an g =>
    let d := Map.get 0 x0.a an
    let x := c.cl kc
    if dOk g d then .ok (c.setCl kc { x with ag := x.ag.set g { desc := d } }) none else .fault 1 0
  | .mload crows ncol wtag => issueMload c kc k bundle crows ncol wtag
  | .mpass rows rs rr set otag => issueMpass c kc k bundle (if rs then s rr else rows + 1) set otag
  | .mdrain set otag raw act lsh clo chi bias rsc csc rc rt =>
    issueMdrain c kc k s bundle set otag raw act lsh clo chi bias rsc csc rc rt

/-! ### Array events -/

/-- Whether a cluster's array may start work: a kernel runs there and no fault or test holds the array (R55). -/
def Chip.arrLive (c : Chip) (kc : Nat) : Option Kern :=
  if c.get (CLS_ARRAY_STS.STATE (kc / 4) (kc % 4)) < 2 ∧ !(c.bs (c.clBasin kc)).frozen then c.kernOf kc else none

/-- An array command meets an address fault (R51): the kernel stops, recorded at the sequencer that owns the array. A load, pass or drain
of which any row reaches outside moves none of its rows (DESIGN CHOICE, log entry 141: R51 does not say whether those before it move). -/
def Chip.arrFault (c : Chip) (kc : Nat) (k : Kern) (bundle : Nat) : Chip := c.kernelFaultAt kc k.mown 6 (bundle % 2 ^ 25)

/-- A tile's rows: masked to the elements KVALID names (R47). -/
def Chip.tileRows (c : Chip) (kc d r n : Nat) : List Nat :=
  (c.rows kc d r n).map (fun v => v % 2 ^ (dEbits d * dElems d))

/-- The class a tile takes from its own format; a mixed pair's is decided by the pass (R74), and changes only the shape of
4-bit tiles. -/
def fmtCls (f : Fmt) : Nat := if f.width = 4 then 4 else if f.width = 16 then 16 else 8

/-- STATE of an array that no fault or test holds (R58): 1 while a command waits, a tile loads, a pass is in flight or a set drains. -/
def Chip.arrSettle (c : Chip) (kc : Nat) : Chip :=
  let a := (c.cl kc).arr
  let st := CLS_ARRAY_STS.STATE (kc / 4) (kc % 4)
  if c.get st < 2 then
    c.put st (b2n (!(a.q.isEmpty && a.loading.isNone && a.flights.isEmpty && a.drains.isEmpty)))
  else c

/-- The array streams that are active in a cluster, each with its descriptor (R260). -/
def Arr.arrStreams (a : Arr) : List (BankReq × Nat) :=
  (a.loading.toList.map (fun l => (BankReq.weight, l.2.1))) ++ a.flights.map (fun f => (BankReq.operand, f.desc))
    ++ a.drains.map (fun d => (BankReq.burnish, d.cmd.desc))

/-- A stream of kind `r` with descriptor `d` starts; in `n` cycles it and those already active wait on one another (R260, R271, log
entry 153). Streams that R261 shows never to conflict count nothing. -/
def Chip.conflict (c : Chip) (kc : Nat) (r : BankReq) (d n : Nat) : Chip :=
  if (c.cl kc).arr.arrStreams.any (fun e => e.1 != r && !neverConflict d e.2) then c.count (CLS_STREAM_CONFLICT (kc / 4) (kc % 4)) n else c

/-- TILE_LOAD_START (R42, R44, R48, R225). The first load of a kernel begins a staged start after a wake of the cluster, or where
`staged` says that 1,024 core cycles have passed without a pass; `confl`: the cycles lost to conflicts with active streams (R260). -/
def tileLoadStart (kc : Nat) (staged : Bool) (confl : Nat) (c : Chip) : Chip :=
  match c.arrLive kc with
  | none => c
  | some k =>
    let x := c.cl kc
    match x.arr.q with
    | .load crows ncol f d r u bn :: rest =>
      if x.arr.shadow.isSome ∨ x.arr.loading.isSome then c
      else if !dRowsOk d r crows false then c.arrFault kc k bn
      else
        let t : Tile := { row0 := r, crows := crows, ncol := ncol, fmt := f, rows := c.tileRows kc d r crows, scale := [], undef := u }
        let c := (c.conflict kc .weight d confl).setCl kc { x with arr := { x.arr with q := rest, loading := some (t, d, r) } }
        let (n, m) := (kc / 4, kc % 4)
        let c := (c.arrSettle kc).put (CLS_ARRAY_STS.MODE n m) (b2n k.whole)
        if x.arr.done.loads = 0 ∧ (staged ∨ x.woken) then c.put (CLS_ARRAY_STS.STAGING n m) 1 else c
    | _ => c

/-- TILE_LOAD_COMPLETE (R42). -/
def tileLoadComplete (kc : Nat) (c : Chip) : Chip :=
  let x := c.cl kc
  match x.arr.loading with
  | none => c
  | some (t, _, _) =>
    let a := x.arr
    (c.setCl kc { x with arr := { a with loading := none, shadow := some t,
                                         done := { a.done with loads := a.done.loads + 1 } } }).arrSettle kc

/-- STAGED_START_END (R48). -/
def stagedStartEnd (kc : Nat) (c : Chip) : Chip := c.put (CLS_ARRAY_STS.STAGING (kc / 4) (kc % 4)) 0

/-- The operand stream's rows and their block scales. -/
def Chip.passData (c : Chip) (b kc : Nat) (f : OpFmt) (d r n : Nat) : Option (List (List Nat) × List (List Nat)) :=
  let rows := (c.rows kc d r n).map (rowCodes f.fmt.width (dElems d))
  match (List.range n).mapM (fun i => c.opScales b f (r + i) (dElems d)) with
  | some s => some (rows, s)
  | none => none

/-- PASS_START (R41, R42, R44, R75, R225, R226). `waited`: the core cycles it waited at the head of the queue (R470);
`confl`: the cycles lost to conflicts with active streams (R260). All rows of the pass enter in this step. -/
def passStart (kc waited confl : Nat) (c : Chip) : Chip :=
  match c.arrLive kc with
  | none => c
  | some k =>
    let x := c.cl kc
    let a := x.arr
    let (nn, m) := (kc / 4, kc % 4)
    match a.q with
    | .pass n s f d r swap cls bn :: rest =>
      let tile := if swap then a.shadow else a.active
      match tile with
      | none => c
      | some t =>
        if (a.set s).st = .draining ∨ c.on (CLS_ARRAY_STS.STAGING nn m) then c
        else if !dRowsOk d r n false then c.arrFault kc k bn
        else
          match c.tileScales k.basin t.fmt cls t.row0 t.crows t.ncol, c.passData k.basin kc f d r n with
          | some sc, some (data, osc) =>
            let t := { t with scale := sc }
            let old := a.set s
            let acc : AccSet := if old.st = .empty then
                { st := .filling, isInt := f.fmt.isInt, signed := f.signed || t.fmt.signed,
                  rows := List.replicate n (List.replicate t.ncol {}) }
              else old
            let fl : Flight := { set := s, desc := d, tile := t, fmt := f, cls, kvalid := dElems d, data, scale := osc }
            let a := { a with q := rest, active := some t, shadow := if swap then none else a.shadow,
                              flights := a.flights ++ [fl], done := { a.done with passes := a.done.passes + 1 } }
            let c := ((c.conflict kc .operand d confl).setCl kc { x with arr := a.setSet s acc, woken := false }).arrSettle kc
            let c := c.put (CLS_ARRAY_STS.MODE nn m) (b2n k.whole)
            let c := (c.put (CLS_ARRAY_STS.ACC_SET nn m) s).count (CLS_PASSES nn m) 1
            c.count (CLS_PASS_WAIT nn m) waited
          | _, _ => c.arrFault kc k bn
    | _ => c

/-- The sums of one pass. -/
def Flight.sum (f : Flight) (u : AccSet) : AccSet :=
  let ext := min f.kvalid (tileK f.cls f.tile.crows)
  { u with rows := u.rows.zipIdx.map (fun r => r.1.zipIdx.map (fun e =>
      accEl f.tile f.fmt f.cls (f.data.getD r.2 []) (f.scale.getD r.2 []) ext e.2 u.isInt u.signed e.1)) }

/-- Every accumulator of a set takes a free value: the weights were undefined (R43, R238). -/
def Chip.freeSums (c : Chip) (u : AccSet) : AccSet × Chip :=
  let n := u.rows.foldl (fun n r => n + r.length) 0
  let w := (u.rows.headD []).length
  ({ u with rows := u.rows.zipIdx.map (fun r => r.1.zipIdx.map (fun e =>
      { e.1 with v := Config.freeNat (c.free + r.2 * w + e.2) % 2 ^ 32, any := true })) }, { c with free := c.free + n })

/-- PASS_SUMS_COMPLETE (R43, R55). `bad`: the physical column of a residue mismatch. -/
def passSumsComplete (kc : Nat) (bad : Option Nat) (c : Chip) : Chip :=
  let x := c.cl kc
  let a := x.arr
  match a.flights with
  | [] => c
  | f :: rest =>
    let acc := a.set f.set
    match bad with
    | some col =>
      let (n, m) := (kc / 4, kc % 4)
      let c := c.setCl kc { x with arr := ({ a with flights := rest, sums := a.sums + 1 }).setSet f.set { acc with stop := true } }
      let c := if c.on (CLS_ARRAY_STS.ARRAY_FAULT n m) then c else c.put (CLS_ARRAY_STS.FAULT_COL n m) col
      let c := (c.put (CLS_ARRAY_STS.ARRAY_FAULT n m) 1).put (CLS_ARRAY_STS.STATE n m) 2
      let c := c.count (CLS_ARRAY_FAULTS n m) 1
      let b := c.clBasin kc
      c.setBs b { c.bs b with frozen := true }
    | none =>
      if f.tile.undef then
        let (acc, c) := c.freeSums acc
        (c.setCl kc { x with arr := ({ a with flights := rest, sums := a.sums + 1 }).setSet f.set acc }).arrSettle kc
      else (c.setCl kc { x with arr := ({ a with flights := rest, sums := a.sums + 1 }).setSet f.set (f.sum acc) }).arrSettle kc

/-- One vector that AG3 delivers: `n` elements of `sz` bytes from row `r`, and the next row (R224). -/
def Chip.vec (c : Chip) (kc d r n sz : Nat) : List Nat × Nat :=
  let rb := dRowBytes d
  let k := ceilDiv (n * sz) rb
  let all := (c.rows kc d r k).zipIdx.foldl (fun a e => a + e.1 * 2 ^ (8 * rb * e.2)) 0
  ((List.range n).map (fun i => bits all (8 * sz * i) (8 * sz)), r + k)

/-- DRAIN_START (R41, R54, R224, R225, R226); `confl`: the cycles lost to conflicts with active streams (R260). -/
def drainStart (kc confl : Nat) (c : Chip) : Chip :=
  match c.arrLive kc with
  | none => c
  | some k =>
    let x := c.cl kc
    let a := x.arr
    match a.q with
    | .drain d :: rest =>
      let sz (m : Nat) : Nat := if m = 1 then 1 else 4
      let put (cs bs rs : List Nat) : Chip :=
        let dr : Drain := { cmd := d, cscv := cs, biasv := bs, rscv := rs }
        let u : AccSet := { a.set d.set with st := .draining }
        let a2 : Arr := { a with q := rest, drains := a.drains ++ [dr] }
        (c.conflict kc .burnish d.desc confl).setCl kc { x with arr := a2.setSet d.set u }
      match d.vec with
      | none => put [] [] []
      | some (d3, r3) =>
        if !dRowsOk d3 r3 (vecRows (dRowBytes d3) d.rows d.ncol d.rsc d.csc d.bias) false then c.arrFault kc k d.bundle
        else
          let (cs, r) := if d.csc ≠ 0 then c.vec kc d3 r3 d.ncol (sz d.csc) else ([], r3)
          let (bs, r) := if d.bias then c.vec kc d3 r d.ncol 4 else ([], r)
          let rs := if d.rsc ≠ 0 then (c.vec kc d3 r d.rows (sz d.rsc)).1 else []
          put cs bs rs
    | _ => c

/-! ### The burnish stage (R52-R54) -/

/-- A per-row or per-column scale of format code `f` (R77). -/
def scaleVal (f : Nat) (code : Nat) : Val := if f = 1 then e8 code else fp32 code

/-- The exact value of activation codes 3 to 6 (R53). -/
def actReal (act : Nat) (s : Bool) (m : Nat) (e : Int) : Val :=
  match act with
  | 3 => realGelu s m e
  | 4 => realSilu s m e
  | 5 => realSig s m e
  | _ => realTanh s m e

/-- The activation functions of R53; codes 3-6 are free within their error bound (log entry 21). -/
def activate (act lsh x : Nat) : Nat :=
  let v := fp32 x
  match v with
  | .nan => Fmt.fp32.canonNaN
  | .inf s =>
    match act with
    | 1 => if s then 0 else x
    | 3 => if s then 2 ^ 31 else x
    | 4 => if s then 2 ^ 31 else x
    | 5 => if s then 0 else 0x3F800000
    | 6 => if s then 0xBF800000 else 0x3F800000
    | _ => x
  | .fin s m e =>
    match act with
    | 0 => x
    | 1 => if s then 0 else x
    | 2 => if s && m ≠ 0 then toFp32 (.fin s m (e - lsh)) else x
    | _ => boundFp32 (.rel 16 24) (actReal act s m e) (Config.special (256 + act) x)

/-- Steps 1-4 of the burnish stage on one accumulator (R52). A scale that is absent is 1.0 and a bias that is absent is 0. The product
of the two scales rounds to FP32 before the value is multiplied by it (DESIGN CHOICE, log entry 140: R52 gives no order of roundings). -/
def burnish (d : Drain) (isInt signed : Bool) (acc : Nat) (i j : Nat) : Nat :=
  let x := if isInt then toFp32 (decodeVal .int32 signed acc) else acc
  let r := if d.cmd.rsc = 0 then Val.fin false 1 0 else scaleVal d.cmd.rsc (d.rscv.getD i 0)
  let s := if d.cmd.csc = 0 then Val.fin false 1 0 else scaleVal d.cmd.csc (d.cscv.getD j 0)
  let x := toFp32 ((fp32 x).mul (fp32 (toFp32 (r.mul s))))
  let x := toFp32 ((fp32 x).add (fp32 (if d.cmd.bias then d.biasv.getD j 0 else 0)))
  let x := if d.cmd.clo then toFp32 (vMax (fp32 x) (fp32 (bits d.cmd.clip 0 32))) else x
  let x := if d.cmd.chi then toFp32 (vMin (fp32 x) (fp32 (bits d.cmd.clip 32 32))) else x
  activate d.cmd.act d.cmd.lsh x

/-- FIRST_POS of the burnish stage (R91): TILE_M, TILE_N, ROW and COLUMN. -/
def burnPos (rt i j : Nat) : Nat := fld 0 16 rt + fld 16 16 (rt >>> 16) + fld 32 8 i + fld 40 8 j

/-- The MX blocks of one output row. -/
def mxRow (e : ConvEnv) : Nat → List (Nat × Nat × Val) → GenBank → Tally → List Nat → List Nat →
    List Nat × List Nat × GenBank × Tally
  | 0, _, g, t, ss, cs => (ss, cs, g, t)
  | fuel + 1, xs, g, t, ss, cs =>
    if xs.isEmpty then (ss, cs, g, t)
    else
      let (sc, codes, g, t) := mxBlock e (xs.take 32) g t
      mxRow e fuel (xs.drop 32) g t (ss ++ [sc]) (cs ++ codes)

/-- Steps 5-8 on one row, and its write through AG2: the tally goes on, and its trap tells whether the row held a NaN, in a value that
enters step 7 or in a result (R52 step 8, R92). A raw drain converts nothing and adds nothing to ELEMENTS (DESIGN CHOICE, log entry 146:
R89 says elements written, R54 that steps 1-7 are left out). -/
def Chip.burnRow (c : Chip) (kc b : Nat) (side : Bool) (t : Tag) (scale : Nat) (d : Drain) (isInt signed : Bool) (i : Nat) (row : List Acc)
    (tl : Tally) : Chip × Tally :=
  let base := burnBase (c.clRole kc)
  let r := d.cmd.row + i
  if d.cmd.raw then
    let codes := row.map (fun a => a.v)
    let tl := if isInt then tl else codes.zipIdx.foldl (fun (tl : Tally) e =>
      let v := fp32 e.1
      { tl with first := if tl.first.isNone && !v.isFin then some (burnPos 0 i e.2, !v.isNaN) else tl.first,
                trap := if tl.trap.isNone && v.isNaN then some i else tl.trap }) tl
    (c.putRow kc d.cmd.desc r 32 0 (codes.map some), tl)
  else
    let pre := row.zipIdx.map (fun a => burnish d isInt signed a.1.v i a.2)
    let tl := if side then tl else pre.foldl (fun (tl : Tally) x => tl.fold (fp32 x)) tl
    let post := pre.map (fun x => if t.slot = 0 then x else toFp32 ((fp32 x).mul (fp32 scale)))
    let env : ConvEnv := { fmt := t.fmt, signed := t.signed, ovf := t.ovf, base,
                           stoch := t.stoch && (t.mx || !holds t.fmt t.signed .fp32 true) }
    let xs := post.zipIdx.map (fun x => (burnPos d.cmd.rt i x.2, x.2, fp32 x.1))
    let keep := tl.amax
    let x := c.cl kc
    let (ss, cs, g, tl2) := if t.mx then mxRow env 64 xs x.burn tl [] []
      else (let (cs, g, tl) := convElems env xs x.burn tl []; ([], cs, g, tl))
    let c := c.setCl kc { x with burn := g }
    let first := if tl2.first.isSome then tl2.first
      else (post.zipIdx.find? (fun x => !(fp32 x.1).isFin)).map (fun x => (burnPos d.cmd.rt i x.2, !(fp32 x.1).isNaN))
    let c := c.putRow kc d.cmd.desc r t.fmt.width 0 (cs.map some)
    let c := match (if t.mx then c.reach b (t.scales + r * ceilDiv (dElems d.cmd.desc) 32) ss.length true else none) with
      | some p => c.wr p (ss.map (BitVec.ofNat 8))
      | none => c
    let trap := if tl2.trap.isSome then tl2.trap else (post.zipIdx.find? (fun x => (fp32 x.1).isNaN)).map (·.2)
    (c, { tl2 with amax := keep, first, trap })

/-- Whether the rows a drain writes may be written, its scale tensor among them (R51, R176, R222). -/
def Chip.drainOk (c : Chip) (kc b : Nat) (t : Tag) (d : DrainCmd) : Bool :=
  dRowsOk d.desc d.row d.rows true
    && (!t.mx || (let n := d.rows * ceilDiv (dElems d.desc) 32
      match c.reach b (t.scales + d.row * ceilDiv (dElems d.desc) 32) n true with
      | some (.cis kc2 off) => decide (off + n ≤ latchOfs) && kc2 == kc
      | _ => false))

/-- All rows of a drain. -/
def Chip.burnAll (c : Chip) (kc b : Nat) (side : Bool) (t : Tag) (scale : Nat) (d : Drain) (set : AccSet) : Chip × Tally × Nat :=
  set.rows.zipIdx.foldl (fun (s : Chip × Tally × Nat) r =>
    let tl0 := { s.2.1 with trap := none }
    let (c, tl) := s.1.burnRow kc b side t scale d set.isInt set.signed r.2 r.1 tl0
    (c, tl, s.2.2 + b2n tl.trap.isSome)) (c, {}, 0)

/-- DRAIN_COMPLETE (R52-R54, R76, R90, R91, R226): the rows are converted and written, the record is folded, and the set
becomes Empty. Each row that holds a NaN is one NaN event (log entry 25). -/
def drainComplete (kc : Nat) (c : Chip) : Chip :=
  match c.arrLive kc with
  | none => c
  | some k =>
    let x := c.cl kc
    let a := x.arr
    match a.drains with
    | [] => c
    | d :: rest =>
      let set := a.set d.cmd.set
      if a.flights.any (fun f => f.set = d.cmd.set) ∨ set.stop then c
      else
        let b := k.basin
        let off := tagOff k d.cmd.tag
        match c.tagAt kc b off d.cmd.tag with
        | none => c.kernelFaultAt kc k.mown 7 (d.cmd.bundle % 2 ^ 25)
        | some t =>
          if !c.drainOk kc b t d.cmd then c.arrFault kc k d.cmd.bundle
          else
            let done := if d.cmd.set = 0 then { a.done with drains0 := a.done.drains0 + 1 }
              else { a.done with drains1 := a.done.drains1 + 1 }
            let c := c.setCl kc { x with arr := ({ a with drains := rest, done }).setSet d.cmd.set {} }
            let (c, tl, nans) := c.burnAll kc b k.side t (c.tagScale k t) d set
            let held := if set.isInt then set.rows.foldl (fun n r => n + (r.filter (·.held)).length) 0 else 0
            let tl := { tl with clamps := tl.clamps + held }
            let c := c.foldTag kc b off tl (k.side || d.cmd.raw) k.stamp
            let c := if tl.first.isSome && !k.side then c.taint b k.stamp else c
            let c := c.arrSettle kc
            (List.range nans).foldl (fun c _ => c.kernNan kc k d.cmd.tag 0 d.cmd.bundle d.cmd.step) c

end Sys2Proof.Machine
end

