-- ==== Sys2Proof/Machine/Fabric.lean ====
section
/-! DEFINITION. The sending side of the fabric: packet headers (10 R307-R310), flow tables (R324, R329), and what issuing an
operation does (R103-R106, R192, R230, R311, R312, R328; R349, R354, R356). -/
namespace Sys2Proof.Machine

/-! ### Headers (R308) -/

/-- The fields of a packet header. -/
structure Hdr where
  opc : Nat := 0
  run : Nat := 0
  lane : Nat := 0
  resend : Bool := false
  taint : Bool := false
  ref : Bool := false
  ord : Bool := false
  rfmt : Nat := 0
  maxis : Nat := 0
  dst : Nat := 0
  dbasin : Nat := 0
  src : Nat := 0
  sbasin : Nat := 0
  addr : Nat := 0
  len : Nat := 0
  seq : Nat := 0
  slice : Nat := 0
  step : Nat := 0
  mspan : Nat := 0
  xid : Nat := 0
  deriving DecidableEq, Repr

/-- Bits [239:0] of the header. -/
def Hdr.low (h : Hdr) : Nat :=
  fld 0 4 h.opc + fld 4 2 h.run + fld 6 1 h.lane + fld 7 1 (b2n h.resend) + fld 8 1 (b2n h.taint) + fld 9 1 (b2n h.ref)
    + fld 10 1 (b2n h.ord) + fld 11 4 h.rfmt + fld 15 2 h.maxis + fld 17 18 h.dst + fld 35 3 h.dbasin + fld 38 18 h.src
    + fld 56 3 h.sbasin + fld 64 48 h.addr + fld 112 13 h.len + fld 128 16 h.seq + fld 144 16 h.slice + fld 160 32 h.step
    + fld 192 6 h.mspan + fld 198 16 h.xid

/-- The HCRC of bits [239:0] (R308). -/
def hcrc (low : Nat) : Nat := crc16 (leBytes 30 low)

/-- The 256-bit header. -/
def Hdr.enc (h : Hdr) : Nat := h.low + fld 240 16 (hcrc h.low)

/-- The fields of a 256-bit header. -/
def decHdr (w : Nat) : Hdr :=
  { opc := bits w 0 4, run := bits w 4 2, lane := bits w 6 1, resend := bit w 7, taint := bit w 8, ref := bit w 9,
    ord := bit w 10, rfmt := bits w 11 4, maxis := bits w 15 2, dst := bits w 17 18, dbasin := bits w 35 3,
    src := bits w 38 18, sbasin := bits w 56 3, addr := bits w 64 48, len := bits w 112 13, seq := bits w 128 16,
    slice := bits w 144 16, step := bits w 160 32, mspan := bits w 192 6, xid := bits w 198 16 }

/-- Whether a header's check holds (R309). -/
def hdrOk (w : Nat) : Bool := bits w 240 16 == hcrc (bits w 0 240)

/-- Bytes of a packet: a header of 32 bytes, or of 24 in Compatibility mode (R356), the payload, and a trailer when there is a payload
(R307). -/
def pktBytes (native : Bool) (n : Nat) : Nat := (if native then 32 else 24) + if n = 0 then 0 else 4 + n

/-! ### Coordinates and flows -/

def cX (w : Nat) : Nat := bits w 0 6
def cY (w : Nat) : Nat := bits w 6 6
def cZ (w : Nat) : Nat := bits w 12 6

/-- This package's coordinate: logical (R333); in Compatibility mode the physical one (R356). -/
def Chip.coord (c : Chip) : Nat := if c.modes.native then bits (c.word FAB_SHAPE) 0 18 else bits (c.word FAB_PHYS) 0 18

/-- DST after the relocation entries (R349); none in Compatibility mode (R356). -/
def Chip.relocate (c : Chip) (dst : Nat) : Nat :=
  if !c.modes.native then dst
  else match (List.range 8).find? (fun j => c.on (FAB_RELOC.VALID j) && c.get (FAB_RELOC.FROM j) == dst) with
    | some j => c.get (FAB_RELOC.TO j)
    | none => dst

/-- The appliance entry that names a coordinate (R354). -/
def Chip.appliance (c : Chip) (dst : Nat) : Option Nat :=
  if !c.modes.native then none
  else (List.range 4).find? (fun j => c.on (FAB_APPL.VALID j) && c.get (FAB_APPL.ACOORD j) == dst)

/-- Whether basin `b` may address a coordinate: an appliance only through a port enabled for the basin (R33, R200). -/
def Chip.mayReach (c : Chip) (b dst : Nat) : Bool :=
  match c.appliance dst with
  | some j => if c.on (FAB_APPL.PORT j) then c.on (BSN_PORT_EN.S1 b) else c.on (BSN_PORT_EN.S0 b)
  | none => true

/-- Index of a peer's entry in a flow table (R329). -/
def flowIdx (coord basin run : Nat) : Nat := ((cX coord + 32 * cY coord + 1024 * cZ coord) * 6 + basin) * 3 + run

/-- Place of a flow-table entry of basin `b`: `recv` the receive table. None where the tables do not lie in the basin's own
HBM (log entry 10). -/
def Chip.flowPlace (c : Chip) (b idx : Nat) (recv : Bool) : Option Nat :=
  c.ownHbm b (c.get (BSN_FLOW_BASE.BASE b) + (if recv then 0x120000 else 0) + 2 * idx) 2

/-- An entry of the send table, or of the receive table. -/
def Chip.flowEnt (c : Chip) (b idx : Nat) (recv : Bool) : Nat :=
  match c.flowPlace b idx recv with
  | some k => leNat (c.mem.reads k 2)
  | none => if recv then Map.get 0 (c.bs b).recvTab idx else Map.get 0 (c.bs b).sendTab idx

def Chip.setFlowEnt (c : Chip) (b idx : Nat) (recv : Bool) (v : Nat) : Chip :=
  match c.flowPlace b idx recv with
  | some k => { c with mem := c.mem.write k (leBytes 2 v) }
  | none =>
    let s := c.bs b
    if recv then c.setBs b { s with recvTab := Map.put 0 s.recvTab idx (v % 65536) }
    else c.setBs b { s with sendTab := Map.put 0 s.sendTab idx (v % 65536) }

/-- Unacknowledged packets of a flow, in order. -/
def Chip.pendingOf (c : Chip) (f : Flow) : List Unacked := c.unacked.filter (fun u => u.flow = f)

/-- Slice tag and step as a header carries them (R308, R356). -/
def Chip.hdrSlice (c : Chip) (b : Nat) : Nat := if c.modes.native then c.get (BSN_SLICE.TAG b) else c.get (BSN_SLICE.TAG b) % 256
def Chip.hdrStep (c : Chip) (n : Nat) : Nat := if c.modes.native then n % 2 ^ 32 else n % 65536

/-- The volume counters of a basin (R470): bytes sent on a runnel. -/
def Chip.txVol (c : Chip) (b run n : Nat) : Chip := if run < 3 then c.volume (BSN_TXVOL b run) (BSN_TXVOLE.EPOCH b run) n else c
def Chip.rxVol (c : Chip) (b run n : Nat) : Chip := if run < 3 then c.volume (BSN_RXVOL b run) (BSN_RXVOLE.EPOCH b run) n else c

/-! ### End points of the mesh (R14; log entry 157) -/

/-- The end point at an address of basin `b`: the stack, or the die of the cistern, that holds it; else the basin's queue unit. -/
def Chip.placeEnd (c : Chip) (b addr : Nat) : Nat :=
  match c.reach b addr 1 false with
  | some (.hbm k) => 40 + k / 0x2000000000
  | some (.cis kc _) => kc / 4
  | none => 60 + b

/-- The end point of a source: the die of its sequencer or ladle, the queue unit of its basin, or the primary hub. -/
def Chip.srcEnd (c : Chip) (s : Src) : Nat :=
  match s with
  | .seq kc _ => kc / 4
  | .pkt b _ _ => 60 + b
  | .ladle n _ _ => n
  | .hub => 30 + c.get HUB_ROLE.PRIMARY

/-- The end point of a packet: the way out to another package, the memory that a request names, or the source that an answer is for. -/
def Chip.meshEnd (c : Chip) (h : Hdr) : Nat :=
  let f : Flow := { basin := h.dbasin, coord := h.src, dbasin := h.sbasin, run := h.run }
  let mine (o : Op) : Bool := o.flow == f && (if h.opc = 2 then o.kind == .get && o.seqs.contains (subMod 16 h.xid o.xid)
    else o.kind != .get && o.seqs.contains h.seq)
  if h.dst ≠ c.coord then 100 + h.dst
  else if h.opc = 2 ∨ h.opc = 7 then
    (match c.ops.find? mine with
    | some o => c.srcEnd o.src
    | none => 60 + h.dbasin)
  else if h.opc = 8 then 60 + h.dbasin
  else c.placeEnd h.dbasin h.addr

/-- A packet leaves the basin by end point `at'`, and is on the mesh (R14). -/
def Chip.inject (c : Chip) (b : Nat) (h : Hdr) (payload : List Byte) (at' : Nat) : Chip :=
  let k : MeshPkt := { src := at', dst := c.meshEnd h, hdr := h.enc, payload := payload }
  (({ c with mesh := c.mesh ++ [k] } : Chip).emit (.packet h.enc payload)).txVol b h.run payload.length

/-- A sequenced packet takes the next number of its flow and is kept until acknowledged (R324). -/
def Chip.sendSeq (c : Chip) (f : Flow) (h : Hdr) (payload : List Byte) (at' : Nat) : Chip × Nat :=
  let i := flowIdx f.coord f.dbasin f.run
  let n := c.flowEnt f.basin i false
  let h := { h with seq := n, len := payload.length }
  let c := c.setFlowEnt f.basin i false ((n + 1) % 65536)
  let u : Unacked := { flow := f, seq := n, hdr := h.enc, payload := payload }
  let c := { c with unacked := c.unacked ++ [u] }
  (c.inject f.basin h payload at', n)

/-- Sequenced packets that carry a run of bytes to consecutive addresses, each of at most `m` bytes. -/
def Chip.sendSplit (c : Chip) (f : Flow) (h : Hdr) (m at' : Nat) : Nat → List Byte → Chip × List Nat
  | 0, _ => (c, [])
  | fuel + 1, bs =>
    let (c, n) := c.sendSeq f h (bs.take m) at'
    if bs.length ≤ m then (c, [n])
    else
      let (c, ns) := Chip.sendSplit c f { h with addr := h.addr + m } m at' fuel (bs.drop m)
      (c, n :: ns)

/-- Payload bytes of the largest packet (R307, R356). -/
def Chip.maxPay (c : Chip) : Nat := if c.modes.native then 4096 else 2048

/-! ### Replay accounting (R192) -/

/-- How the history of a queue names the released LAUNCH of a batch: beyond every packet index. -/
def batchKey (bq num : Nat) : Nat := 65536 + 2 ^ 32 * bq + num * 2 ^ 40

/-- The packet of a kernel, which may be the released LAUNCH of a batch, or of a queue packet. -/
def Chip.ownPkt (c : Chip) : Src → Option (Nat × Nat × Nat)
  | .seq kc _ => match c.kernOf kc with
    | some k => some (k.basin, k.queue, match k.batch with
      | some (bq, num) => batchKey bq num
      | none => k.pkt)
    | none => none
  | .pkt b q i => some (b, q, i)
  | _ => none

/-- The queue packet on whose behalf a source acts; a ladle command acts for its issuer. -/
def Chip.srcPkt (c : Chip) (s : Src) : Option (Nat × Nat × Nat) :=
  match s with
  | .ladle n id _ =>
    let l := c.lu n
    let pick (r : Option LRun) : Option (Nat × Nat × Nat) := match r with
      | some r => if r.cmd.id = id then c.ownPkt r.cmd.src else none
      | none => none
    match pick l.runG with
    | some x => some x
    | none => pick l.runU
  | s => c.ownPkt s

/-- One operation of the counted sequence: true if it is suppressed; otherwise it is counted. -/
def Chip.gate (c : Chip) (src : Src) : Bool × Chip :=
  match c.srcPkt src with
  | none => (false, c)
  | some (b, q, i) =>
    let u := c.qu b q
    if Map.get 0 u.bsupp i > 0 then (true, c.setQu b q { u with bsupp := Map.put 0 u.bsupp i (Map.get 0 u.bsupp i - 1) }) else
    let left : Nat := match u.replay with
      | some r => Map.get 0 r.supp i
      | none => 0
    match u.replay with
    | some r =>
      if left > 0 then (true, c.setQu b q { u with replay := some { r with supp := Map.put 0 r.supp i (left - 1) } })
      else (false, c.setQu b q { u with hist := Map.put 0 u.hist i (Map.get 0 u.hist i + 1) })
    | none => (false, c.setQu b q { u with hist := Map.put 0 u.hist i (Map.get 0 u.hist i + 1) })

/-- The SIGEN latch of an operation that is not counted: its add is counted as a latch operation (R192). -/
def Chip.gateSig (c : Chip) (src : Src) (counted : Bool) (sig : Option Nat) : Option Nat × Chip :=
  if counted || sig.isNone then (sig, c)
  else
    let (s, c) := c.gate src
    (if s then none else sig, c)

/-! ### Issue -/

/-- What an operation asks for (R230): issuer, class and step stamp, header fields, destination, data and completion latch. -/
structure SendReq where
  b : Nat
  src : Src
  side : Bool
  stamp : Nat
  kind : OpKind
  opc : Nat
  run : Nat
  rfmt : Nat := 0
  maxis : Nat := 0
  mspan : Nat := 0
  coord : Nat
  dbasin : Nat
  addr : Nat
  payload : List Byte := []
  get : Option (Nat × Nat) := none
  sig : Option Nat := none
  pc : Nat := 0
  deriving DecidableEq, Repr

/-- The destination coordinate in force: 0x3_FFFF is the sender's own package (R230), and relocations apply (R349). -/
def Chip.dest (c : Chip) (coord : Nat) : Nat := if coord = 0x3FFFF then c.coord else c.relocate coord

/-- Whether an operation is counted under R192. -/
def Chip.counted (c : Chip) (r : SendReq) : Bool :=
  r.opc != 1 && !(c.dest r.coord == c.coord && r.dbasin == r.b) && !(r.run == 2 && r.stamp == c.step r.b)

/-- Whether the origin drops an operation after the seal of its step (R106, R107). -/
def Chip.sealDrop (c : Chip) (r : SendReq) : Bool :=
  r.run == 2 && !r.side && decide (r.stamp < c.step r.b) && (r.opc == 3 || r.opc == 4 || (r.opc == 5 && r.rfmt != 6))

/-- A latch receives the completion add of an operation (R230). -/
def Chip.signal (c : Chip) (b : Nat) (sig : Option Nat) : Chip :=
  match sig with
  | some l => c.latchApply b l false 1
  | none => c

/-- The header of a request. -/
def Chip.reqHdr (c : Chip) (r : SendReq) : Hdr :=
  { opc := r.opc, run := r.run, taint := r.run == 2 && !r.side && c.taintOf r.b r.stamp, rfmt := r.rfmt, maxis := r.maxis,
    dst := c.dest r.coord, dbasin := r.dbasin, src := c.coord, sbasin := r.b, addr := r.addr % 2 ^ 48,
    slice := c.hdrSlice r.b, step := c.hdrStep r.stamp, mspan := r.mspan }

/-- GET packets for `n` bytes, each of at most `m`, under consecutive transaction identities (R308, R328). -/
def Chip.sendGets (c : Chip) (b : Nat) (h : Hdr) (m at' : Nat) : Nat → Nat → Nat → Chip
  | 0, _, _ => c
  | fuel + 1, x, n =>
    let c := c.inject b { h with xid := x % 65536, len := min n m } [] at'
    if n ≤ m then c else Chip.sendGets c b { h with addr := h.addr + m } m at' fuel (x + 1) (n - m)

/-- An operation is issued: suppressed (R192), dropped after the seal (R106), or sent. -/
def Chip.send (c : Chip) (r : SendReq) : Chip :=
  let counted := c.counted r
  let (supp, c) := if counted then c.gate r.src else (false, c)
  if supp then c
  else
    let (sig, c) := c.gateSig r.src counted r.sig
    if c.sealDrop r then (c.count (BSN_SEAL_DROPS r.b) 1).signal r.b sig
    else
      let f : Flow := { basin := r.b, coord := c.dest r.coord, dbasin := r.dbasin, run := r.run }
      let h := c.reqHdr r
      let c := if (r.opc = 3 ∨ r.opc = 4 ∨ r.opc = 5) ∧ r.stamp = c.step r.b then c.setBs r.b { c.bs r.b with sentGrad := true } else c
      let (id, c) := c.newId
      let m := c.maxPay
      match r.get with
      | some (loc, n) =>
        let ps := c.pendingOf f
        let h := match ps.getLast? with
          | some u => { h with ord := true, seq := u.seq }
          | none => h
        let chunks := ceilDiv n m
        let op : Op :=
          { id := id, src := r.src, kind := .get, flow := f, seqs := List.range chunks, xid := id % 65536, loc := loc, len := n,
            hdr := h.enc, sig := sig, pc := r.pc }
        ({ c with ops := c.ops ++ [op], nextId := c.nextId + (chunks - 1) }).sendGets r.b h m (c.srcEnd r.src) (chunks + 1) id n
      | none =>
        let h := { h with xid := if r.kind = .mcast then id % 65536 else 0 }
        let (c, ns) := c.sendSplit f h m (c.srcEnd r.src) (ceilDiv r.payload.length m + 1) r.payload
        let op : Op :=
          { id := id, src := r.src, kind := r.kind, flow := f, seqs := ns, acks := if r.kind = .mcast then r.mspan + 1 else 0,
            xid := if r.kind = .mcast then id % 65536 else 0, len := r.payload.length, hdr := h.enc, sig := sig,
            counted := counted, pc := r.pc }
        { c with ops := c.ops ++ [op] }

/-- Whether a flow has numbers left for `n` more packets (R324). -/
def Chip.flowRoom (c : Chip) (b coord dbasin run n : Nat) : Bool :=
  decide ((c.pendingOf { basin := b, coord := c.dest coord, dbasin := dbasin, run := run }).length + n ≤ 32768)

/-! ### Operand checks (R230, R231, R312, R356) -/

/-- Bytes of an element of a reduce format (R231); none is reserved. -/
def rfmtSize (f : Nat) : Option Nat :=
  match f with
  | 0 => some 4 | 1 => some 5 | 2 => some 8 | 3 => some 4 | 4 => some 8 | 5 => some 4 | 6 => some 4 | 7 => some 2 | _ => none

/-- Whether a multicast span fits its axis from the destination (R312). -/
def Chip.spanOk (c : Chip) (dst axis span : Nat) : Bool :=
  let ext := if axis = 1 then c.get FAB_SHAPE.EX else if axis = 2 then c.get FAB_SHAPE.EY else c.get FAB_SHAPE.EZ
  let wrap := if axis = 1 then c.on FAB_SHAPE.WX else if axis = 2 then c.on FAB_SHAPE.WY else c.on FAB_SHAPE.WZ
  let at0 := if axis = 1 then cX dst else if axis = 2 then cY dst else cZ dst
  decide (axis ≠ 0) && decide (span ≤ ext) && (wrap || decide (at0 + span ≤ ext))

/-- Whether the operands of a fabric instruction are in range; a failure is CAUSE 9 (R230). -/
def Chip.sendOk (c : Chip) (opc run rc rl rr n rfmt axis : Nat) : Bool :=
  let dst := c.dest (bits rc 0 18)
  decide (rc < 2 ^ 27) && decide (run < 3) && decide (bits rc 18 3 < 6)
  && (c.modes.native || (opc != 4 && opc != 6 && (opc != 5 || rfmt == 0 || rfmt == 3 || rfmt == 5 || rfmt == 7)))
  && (match opc with
    | 0 => decide (8 ≤ n ∧ n ≤ 4096 ∧ n % 8 = 0 ∧ rl % 8 = 0 ∧ rr % 8 = 0)
    | 1 => decide (8 ≤ n ∧ n ≤ 4096 ∧ n % 8 = 0 ∧ rl % 8 = 0 ∧ rr % 8 = 0 ∧ (run = 0 → n ≤ 512))
    | 3 => decide (rr % 8 = 0)
    | 4 => decide (rr % 4 = 0)
    | 5 => (match rfmtSize rfmt with
      | some e => decide (n ≤ 4096 ∧ n % e = 0 ∧ rl % e = 0 ∧ rr % e = 0)
          && (rfmt != 6 || n == 0 || rr / 4096 == (rr + n - 1) / 4096)
      | none => false)
    | _ => decide (8 ≤ n ∧ n ≤ 4096 ∧ n % 8 = 0 ∧ rl % 8 = 0 ∧ rr % 8 = 0) && c.spanOk dst axis (bits rc 21 6))

end Sys2Proof.Machine
end

