-- ==== Sys2Proof/Machine/Image.lean ====
section
/-! DEFINITION. Commit records (12 R373, R374), secure descriptors, slots and the state image (12 R380, R381). -/
namespace Sys2Proof.Machine

/-! ### Commit records (R373, R374) -/

/-- A commit record as a 512-bit number. -/
def commitRec (kind seq step count : Nat) (digest : List Byte) : Nat :=
  let w := 0x7C0A5E12 + fld 32 8 kind + fld 64 64 seq + fld 128 64 step + fld 192 16 count + fld 224 256 (leNat digest)
  w + fld 480 32 (crc32 (leBytes 60 w))

/-- Whether a record is valid for its kind and the digest of what it covers. -/
def commitOk (w kind : Nat) (digest : List Byte) : Bool :=
  bits w 0 32 == 0x7C0A5E12 && bits w 32 8 == kind && bits w 480 32 == crc32 (leBytes 60 w) && bits w 224 256 == leNat digest

/-- SEQ of the next record after the newest valid one; free where there is none. -/
def Chip.nextSeq (c : Chip) (newest : Option Nat) : Nat × Chip :=
  match newest with
  | some s => (s + 1, c)
  | none => let (v, c) := c.fresh; (v % 2 ^ 63, c)

/-! ### Secure descriptors and slots (R380) -/

/-- Bytes of an ingot, of a state image and of a slot's header. -/
def ingotLen : Nat := 0x4000000
def imageLen : Nat := 0x40000
def slotHdr : Nat := 0x10000

/-- A secure descriptor: regions as base and bytes. -/
structure SecDesc where
  slotIngots : Nat
  keep : Nat
  repl : Nat
  transit : Nat
  regions : List (Nat × Nat)
  deriving DecidableEq, Repr

/-- Bytes of one slot. -/
def SecDesc.slotLen (d : SecDesc) : Nat := d.slotIngots * ingotLen + slotHdr

/-- Ingots of the basin's set. -/
def SecDesc.ingots (d : SecDesc) : Nat := ceilDiv (imageLen + d.regions.foldl (fun n r => n + r.2) 0) ingotLen

/-- The secure descriptor of basin `b`, where it is valid. -/
def Chip.secDesc (c : Chip) (b : Nat) : Option SecDesc :=
  let base := c.get (BSN_SECURE_BASE.BASE b)
  match c.ownHbm b base 4096 with
  | none => none
  | some k =>
    let w := leNat (c.mem.reads k 4096)
    let n := bits w 0 6
    let rs := (List.range n).map (fun j => (bits w (512 + 128 * j) 48, 4096 * bits w (576 + 128 * j) 32))
    let d : SecDesc :=
      { slotIngots := bits w 32 11, keep := bits w 64 48, repl := bits w 128 48, transit := bits w 192 48, regions := rs }
    let own (a m : Nat) : Bool := (c.ownHbm b a m).isSome
    if base % 4096 = 0 ∧ 1 ≤ n ∧ 1 ≤ d.slotIngots ∧ d.slotIngots ≤ 1024 ∧ d.ingots ≤ d.slotIngots
        ∧ rs.all (fun r => r.1 % 4096 == 0 && decide (r.2 > 0) && own r.1 r.2) ∧ own d.keep d.slotLen
        ∧ own (d.keep + d.slotLen) d.slotLen ∧ own d.repl d.slotLen ∧ own (d.repl + d.slotLen) d.slotLen then some d
    else none

/-- A committed slot: its base, and its record's SEQ, STEP and COUNT. -/
structure Slot where
  base : Nat
  seq : Nat
  step : Nat
  count : Nat
  deriving DecidableEq, Repr

/-- The slot at `k`, where its commit record is valid for `kind`. -/
def Chip.slotAt (c : Chip) (kind k : Nat) : Option Slot :=
  let w := leNat (c.mem.reads (k + 0xFFC0) 64)
  let n := bits w 192 16
  if n ≤ 1024 ∧ commitOk w kind (sha3 (c.mem.reads k (32 * n))) then
    some { base := k, seq := bits w 64 64, step := bits w 128 64, count := n }
  else none

/-- The committed slots of a pair at `k`. -/
def Chip.slotPair (c : Chip) (kind k len : Nat) : List Slot := (c.slotAt kind k).toList ++ (c.slotAt kind (k + len)).toList

/-- The newest committed slot of a pair. -/
def Chip.newestSlot (c : Chip) (kind k len : Nat) : Option Slot :=
  (c.slotPair kind k len).foldl (fun m s => match m with
    | none => some s
    | some t => if t.seq < s.seq then some s else some t) none

/-- The slot of a pair that a writer targets: the one without the newest record (R373). -/
def Chip.targetSlot (c : Chip) (kind k len : Nat) : Nat :=
  match c.newestSlot kind k len with
  | some s => if s.base = k then k + len else k
  | none => k

/-! ### The state image (R381) -/

/-- The words of the image, in the order of R381, as they stand. -/
def Chip.imageWords (c : Chip) (b : Nat) : List Nat :=
  [c.word (BSN_STEP b), c.word (BSN_TEMPER_T b), c.word (BSN_LOSS_SCALE b), c.word (BSN_GEN_SEED b), c.word (BSN_GEN_CTL b),
   c.word (BSN_AGREE_STS b)]

/-- The state image written at `k`: the words from offset 0, the history slots from 0x20000, the rest undefined. -/
def Chip.writeImage (c : Chip) (b k : Nat) : Chip :=
  let ws := c.imageWords b
  let hist := (c.ownHbm b (c.get (BSN_AMAX_BASE.BASE b)) 0x20000).map (fun a => c.mem.reads a 0x20000)
  let c := (c.lose k imageLen).wrHbm k (ws.flatMap (leBytes 8))
  match hist with
  | some bs => c.wrHbm (k + 0x20000) bs
  | none => c

/-- The state image at `k` applied to basin `b` (R387). -/
def Chip.applyImage (c : Chip) (b k : Nat) : Chip :=
  let w (i : Nat) : Nat := leNat (c.mem.reads (k + 8 * i) 8)
  let hist := c.mem.reads (k + 0x20000) 0x20000
  let put (c : Chip) (r : Reg) (i : Nat) : Chip := c.setWord r (w i)
  let c := put (put (put (put (put c (BSN_STEP b) 0) (BSN_TEMPER_T b) 1) (BSN_LOSS_SCALE b) 2) (BSN_GEN_SEED b) 3) (BSN_GEN_CTL b) 4
  let c := put c (BSN_AGREE_STS b) 5
  match c.ownHbm b (c.get (BSN_AMAX_BASE.BASE b)) 0x20000 with
  | some a => c.wrHbm a hist
  | none => c

/-- A secure operation ends with a result (R383); event 6 of the basin. -/
def Chip.secureEnd (c : Chip) (b res : Nat) : Chip :=
  (((c.put (BSN_SECURE_STS.STATE b) 0).put (BSN_SECURE_STS.RESULT b) res).put (BSN_SECURE_STS.EV b) 1).fireB b 6

/-- At the resolution of the armed secure step, the image goes to the target KEEP slot, whose record is cleared (R381). -/
def Chip.secureAt (c : Chip) (b n : Nat) : Chip :=
  if c.get (BSN_SECURE_STS.STATE b) ≠ 1 ∨ c.get (BSN_SECURE_STS.STEP_LO b) ≠ n % 2 ^ 32 then c
  else match c.secDesc b with
    | none => c.secureEnd b 2
    | some d =>
      let t := c.targetSlot 2 d.keep d.slotLen
      (c.wrHbm (t + 0xFFC0) (leBytes 64 0)).writeImage b (t + slotHdr)

/-- While a copy-out of step s runs, temper commands and updating scatter-adds stamped s + 1 wait (R381). -/
def Chip.copyHold (c : Chip) (b stamp : Nat) : Bool :=
  c.get (BSN_SECURE_STS.STATE b) == 2 && stamp % 2 ^ 32 == (c.get (BSN_SECURE_STS.STEP_LO b) + 1) % 2 ^ 32

end Sys2Proof.Machine
end

