-- ==== Sys2Proof/Machine/Queues.lean ====
section
/-! DEFINITION. Command queues, packets, launches, retirement and pour points (06 R160-R173, R189-R195, R214). -/
namespace Sys2Proof.Machine

/-! ### Rings -/

/-- Ring entries (R161). -/
def Chip.qSize (c : Chip) (b q : Nat) : Nat := 64 * 2 ^ c.get (BSN_Q_CFG.SIZE b q)

/-- Place of ring entry `i` (R160); none where the ring leaves the basin's own HBM. -/
def Chip.ringPlace (c : Chip) (b q i : Nat) : Option Nat :=
  c.ownHbm b (c.get (BSN_Q_CFG.BASE b q) + 64 * (i % c.qSize b q)) 64

/-- The packet of index `i`; none where it cannot be read. -/
def Chip.ringPkt (c : Chip) (b q i : Nat) : Option Nat :=
  match c.ringPlace b q i with
  | some k => if c.poisoned k 64 then none else some (leNat (c.mem.reads k 64))
  | none => none

/-- Whether a basin starts no packets: quenched, out of service, or frozen by a fault (R23, R363, R367). -/
def Chip.basinOff (c : Chip) (b : Nat) : Bool :=
  let s := c.bs b
  s.quenched || s.outOfService || s.frozen

/-- A doorbell write of TAIL (R162). -/
def Chip.ringDoorbell (c : Chip) (b q tail : Nat) : Chip :=
  let s := c.bs b
  if !c.on (BSN_Q_CFG.ENABLE b q) || s.quenched || s.outOfService then c.qErr b q 2
  else
    let r := c.get (BSN_Q_STS.RETIRED b q)
    let new := subMod 16 tail r
    if new > c.qSize b q ∨ new < subMod 16 (c.get (BSN_Q_STS.TAIL b q)) r then c.qErr b q 1
    else
      let c := c.put (BSN_Q_STS.TAIL b q) tail
      if c.get (BSN_Q_STS.STATE b q) = 0 ∧ tail % 65536 ≠ c.get (BSN_Q_STS.HEAD b q) then c.put (BSN_Q_STS.STATE b q) 1 else c

/-- QPOST (R233): a status and, on status 0, the packet in the ring and TAIL advanced. -/
def Chip.qPost (c : Chip) (b q pkt : Nat) : Chip × Nat :=
  let s := c.bs b
  if !c.on (BSN_Q_CFG.ENABLE b q) || s.quenched || s.outOfService then (c, 2)
  else if bits pkt 0 8 > 0x0B then (c, 3)
  else
    let t := c.get (BSN_Q_STS.TAIL b q)
    if subMod 16 t (c.get (BSN_Q_STS.RETIRED b q)) ≥ c.qSize b q then (c, 1)
    else
      let c := match c.ringPlace b q t with
        | some k => c.wrHbm k (leBytes 64 pkt)
        | none => c
      (c.ringDoorbell b q ((t + 1) % 65536), 0)

/-! ### Retirement (R169, R170) -/

/-- Whether a kernel of queue `q` runs for a released batch. -/
def Chip.batchKern (c : Chip) (b q : Nat) : Bool := c.kerns.any (fun k => k.basin == b && k.queue == q && k.batch.isSome)

/-- STATE of a queue that is not halted, after a change (R163). -/
def Chip.qSettle (c : Chip) (b q : Nat) : Chip :=
  let st := c.get (BSN_Q_STS.STATE b q)
  let h := c.get (BSN_Q_STS.HEAD b q)
  let u := c.qu b q
  if st = 3 ∨ st = 4 then c
  else if st = 5 then
    (match u.replay with
    | some r => if h = r.upto then c.put (BSN_Q_STS.STATE b q) 1 else c
    | none => c.put (BSN_Q_STS.STATE b q) 1)
  else if c.get (BSN_Q_STS.RETIRED b q) = c.get (BSN_Q_STS.TAIL b q) ∧ u.ins = [] ∧ !c.batchKern b q then
    c.put (BSN_Q_STS.STATE b q) 0
  else c

/-- The replay flag of the basin falls when no queue replays any more (R195). -/
def Chip.replaySettle (c : Chip) (b : Nat) : Chip :=
  if (List.range 64).any (fun q => c.get (BSN_Q_STS.STATE b q) == 5) then c else c.put (BSN_POUR_STS.REPLAY b) 0

/-- Completed packets retire in index order (R170); the replay of a queue is over once the last packet before its end retires (R191). -/
def Chip.retire (c : Chip) (b q : Nat) : Nat → Chip
  | 0 => c
  | fuel + 1 =>
    let u := c.qu b q
    match u.win with
    | s :: rest =>
      if s.done then
        let replay := u.replay.filter (fun r => r.upto != (s.idx + 1) % 65536)
        let c := (c.setQu b q { u with win := rest, replay := replay }).put (BSN_Q_STS.RETIRED b q) (s.idx + 1)
        Chip.retire (c.retireTick b) b q fuel
      else c
    | [] => c

/-- Packet `i` of a queue is marked completed, and completed packets retire. -/
def Chip.pktMark (c : Chip) (b q i : Nat) : Chip :=
  let u := c.qu b q
  let u := { u with win := u.win.map (fun s => if s.idx = i then { s with done := true } else s),
                    histDone := if u.histDone.contains i then u.histDone else u.histDone ++ [i] }
  (((c.setQu b q u).retire b q 33).qSettle b q).replaySettle b

/-- A packet started before a fault completes before the replay reaches it (a BARRIER or AGREE, whose contexts are not rolled
back, or a counted spout copy; R191): its signal is applied, and the replay passes it. -/
def Chip.doneEarly (c : Chip) (b q i : Nat) : Chip :=
  let u := c.qu b q
  match u.replay, c.ringPkt b q i with
  | some r, some p =>
    if u.histDone.contains i ∨ subMod 16 r.upto (c.get (BSN_Q_STS.HEAD b q)) ≤ subMod 16 i (c.get (BSN_Q_STS.HEAD b q)) then c
    else
      let c := c.setQu b q { u with replay := some { r with doneAt := i :: r.doneAt }, histDone := i :: u.histDone }
      if bit p 10 then c.latchApply b (bits p 29 13) false (bits p 448 32) else c
  | _, _ => c

/-- Packet `i` of a queue completes, unless it has halted the queue: its signal is applied, unless the engine applies it (R165) or a replay repeats what had
completed before the fault (R191). -/
def Chip.pktDone (c : Chip) (b q i : Nat) : Chip :=
  let u := c.qu b q
  match u.win.find? (fun s => s.idx = i) with
  | none => c.doneEarly b q i
  | some s =>
    if u.haltPkt = some i then c else
    let old := match u.replay with
      | some r => r.doneAt.contains i
      | none => false
    let t := bits s.pkt 0 8
    let c := if bit s.pkt 10 && t != 3 && t != 4 && !old then c.latchApply b (bits s.pkt 29 13) false (bits s.pkt 448 32) else c
    c.pktMark b q i

/-- An outstanding operation completes (R230, R311): its latch add, the count of a refusal (R470), its packet. -/
def Chip.opDone (c : Chip) (o : Op) (refused : Bool) : Chip :=
  let c := { c with ops := c.ops.filter (fun x => x.id ≠ o.id) }
  let c := match o.src, refused with
    | .seq kc k, true => c.count (CLS_SEQ_REFUSED (kc / 4) (kc % 4) k) 1
    | _, _ => c
  let c := c.signal o.flow.basin o.sig
  match o.src with
  | .pkt b q i => c.pktDone b q i
  | _ => c

/-! ### Starting the packet at HEAD (R165, R169, R171, R191) -/

/-- What looking at the packet at HEAD gives: a state in which nothing starts, or the packet and its index. -/
inductive Start where
  | no (c : Chip)
  | go (c : Chip) (idx pkt : Nat)

/-- A queue waits (R163). -/
def Chip.qWait (c : Chip) (b q : Nat) : Chip :=
  if c.get (BSN_Q_STS.STATE b q) = 5 then c else c.put (BSN_Q_STS.STATE b q) 2

/-- The packet at HEAD starts. -/
def Chip.begin (c : Chip) (b q idx pkt : Nat) : Chip :=
  let c := c.put (BSN_Q_STS.HEAD b q) (idx + 1)
  let c := if c.get (BSN_Q_STS.STATE b q) = 5 then c else c.put (BSN_Q_STS.STATE b q) 1
  let u := c.qu b q
  (c.setQu b q { u with win := u.win ++ [{ idx := idx, pkt := pkt }] }).qSettle b q

/-- Types that a side-class queue refuses (R165). -/
def sideRefused (t : Nat) : Bool := t == 3 || t == 5 || t == 8 || t == 9 || t == 11

/-- Whether the common fields of a packet are in range, and its class allows its type (R164, R165). -/
def Chip.pktOk (c : Chip) (b q pkt : Nat) : Bool :=
  !(bit pkt 9 && decide (bits pkt 16 13 ≥ 5120)) && !(bit pkt 10 && decide (bits pkt 29 13 ≥ 5120))
  && !(qClassSide c b q && sideRefused (bits pkt 0 8))

/-- Packets of a queue that have started and not retired, running released LAUNCHes among them (R167, R169). -/
def Chip.started (c : Chip) (b q : Nat) : Nat :=
  (c.qu b q).win.length + (c.kerns.filter (fun k => k.basin == b && k.queue == q && k.batch.isSome)).length

/-- Whether the WAIT, SERIAL and window conditions of a packet hold (R169). -/
def Chip.pktReady (c : Chip) (b q idx pkt : Nat) : Bool :=
  (!bit pkt 8 || (c.get (BSN_Q_STS.RETIRED b q) == idx && !c.batchKern b q))
  && (!bit pkt 9 || decide (bits pkt 384 64 ≤ c.latch b (bits pkt 16 13)))
  && decide (c.started b q < 32)

/-- Whether queue `q` may start packets at all. -/
def Chip.qLive (c : Chip) (b q : Nat) : Bool :=
  let st := c.get (BSN_Q_STS.STATE b q)
  c.on (BSN_Q_CFG.ENABLE b q) && st != 3 && st != 4 && !c.basinOff b

/-- A packet that had completed before the fault is passed in a replay with no effect (R191). -/
def Chip.passPkt (c : Chip) (b q idx pkt : Nat) : Chip :=
  let c := if bits pkt 0 8 = 8 then c.setBs b { c.bs b with rstamp := (c.bs b).rstamp + 1 } else c
  (c.begin b q idx pkt).pktMark b q idx

/-- Whether a packet's completion before the fault is what the replay passes over. -/
def Chip.passed (c : Chip) (b q idx pkt : Nat) : Bool :=
  c.get (BSN_Q_STS.STATE b q) == 5 && bits pkt 0 8 != 1
    && (match (c.qu b q).replay with
      | some r => r.doneAt.contains idx
      | none => false)

/-- The packet at HEAD is looked at for a start as type `ty`. -/
def Chip.headStart (c : Chip) (b q ty : Nat) : Start :=
  let h := c.get (BSN_Q_STS.HEAD b q)
  if !c.qLive b q || h == c.get (BSN_Q_STS.TAIL b q) || (c.qu b q).ins != [] then .no c
  else
    match c.ringPkt b q h with
    | none => .no (c.qHalt b q 4 (some h))
    | some p =>
      let t := bits p 0 8
      if t > 0x0B then .no (c.qHalt b q 3 (some h))
      else if t ≠ ty then .no c
      else if !c.pktOk b q p then .no (c.qHalt b q 4 (some h))
      else if c.passed b q h p then .no (c.passPkt b q h p)
      else if !c.pktReady b q h p then .no (c.qWait b q)
      else .go c h p

/-- NOP (R165): completes at its start. -/
def nop (b q : Nat) (c : Chip) : Chip :=
  match c.headStart b q 0 with
  | .no c => c
  | .go c i p => (c.begin b q i p).pktDone b q i

/-! ### Launches (R166, R171, R400) -/

/-- The LAUNCH fields of a packet (R166). -/
structure LaunchF where
  entry : Nat
  kid : Nat
  cmask : Nat
  whole : Bool
  vown : Nat
  mown : Nat
  budget : Nat
  tagbase : Nat
  a0 : Nat
  a1 : Nat
  deriving DecidableEq, Repr

def decLaunch (p : Nat) : LaunchF :=
  { entry := bits p 64 25, kid := bits p 96 32, cmask := bits p 128 20, whole := bit p 148, vown := bits p 149 1,
    mown := bits p 150 1, budget := bits p 160 32, tagbase := bits p 192 25, a0 := bits p 256 64, a1 := bits p 320 64 }

/-- The roles that a cluster mask names. -/
def maskRoles (m : Nat) : List Nat := (List.range 20).filter (fun i => bit m i)

/-- The clusters of a mask; none where it names an empty slot (R166). -/
def Chip.maskCls (c : Chip) (b m : Nat) : Option (List Nat) :=
  (maskRoles m).mapM (fun i => c.roleCl b (i / 4) (i % 4))

/-- Whether a cluster is free: no kernel on it, its clock running, not under test (R169, R396). -/
def Chip.clFree (c : Chip) (kc : Nat) : Bool :=
  let x := c.cl kc
  (c.kernOf kc).isNone && x.pllOn && x.testing.isNone && c.get (HUB_FORGE_STATUS.STATE (kc / 4)) == 1

/-- Whether a main-class head LAUNCH that is held only by its clusters, a released one included, names any cluster of a mask (R171). -/
def Chip.mainWants (c : Chip) (b m : Nat) : Bool :=
  (List.range 64).any (fun q =>
    let h := c.get (BSN_Q_STS.HEAD b q)
    !qClassSide c b q && c.qLive b q && (match (c.qu b q).ins with
      | (p, _) :: _ => decide (c.started b q < 32) && (decLaunch p).cmask &&& m != 0
      | [] => h != c.get (BSN_Q_STS.TAIL b q) && (match c.ringPkt b q h with
        | some p => bits p 0 8 == 1 && c.pktReady b q h p && (decLaunch p).cmask &&& m != 0
        | none => false)))

/-- Whether the power and thermal terms allow a Whole-mode launch on these clusters (R400). -/
def Chip.wholeOk (c : Chip) (b : Nat) (cls : List Nat) : Bool :=
  !(c.bs b).debtOver && cls.all (fun kc =>
    let d : DieP := Map.get {} c.dies (kc / 4)
    d.pterm == 64 && d.tterm == 64)

/-- The amax-history slots as they stand (R100). -/
def Chip.slotsNow (c : Chip) (b : Nat) : Mem :=
  match c.ownHbm b (c.get (BSN_AMAX_BASE.BASE b)) 0x20000 with
  | some k => c.mem.slice k 0x20000
  | none => {}

/-- One cluster of a kernel starts: both sequencers at ENTRY with s0 to s3 (R166), nothing bound, the array empty (R225,
R226), and in Reproducible mode its generators seeded (R123). -/
def Chip.startCluster (c : Chip) (kc : Nat) (l : LaunchF) (stamp : Nat) (b : Nat) : Chip :=
  let x := c.cl kc
  let (n, m) := (kc / 4, kc % 4)
  let sq (q : Seqr) : Seqr :=
    { s := Map.put 0 (Map.put 0 (Map.put 0 (Map.put 0 q.s 0 (c.clRole kc)) 1 (stamp % 2 ^ 64)) 2 l.a0) 3 l.a1 }
  let repro := c.on (BSN_GEN_CTL.MODE b)
  let seed : Seed := .repro (c.get (BSN_GEN_SEED.SEED b)) (stamp % 2 ^ 64) l.kid
  let x := { x with seq0 := sq x.seq0, seq1 := sq x.seq1, ag := [], arr := {}, gated := false, woken := x.woken || x.gated,
                    rill := if repro then { seed := seed } else x.rill, burn := if repro then { seed := seed } else x.burn }
  let c := c.setCl kc x
  let c := (c.put (CLS_SEQ_STS.STATE n m 0) 1).put (CLS_SEQ_STS.PC n m 0) l.entry
  let c := (c.put (CLS_SEQ_STS.STATE n m 1) 1).put (CLS_SEQ_STS.PC n m 1) l.entry
  c.put (CLS_ARRAY_STS.MODE n m) (b2n l.whole)

/-- A kernel starts (R103, R123, R166, R213); one in Whole mode on a die that a safety limit holds is broken from its start (R46). -/
def Chip.launchKern (c : Chip) (b q idx : Nat) (l : LaunchF) (cls : List Nat) (batch : Option (Nat × Nat)) : Chip :=
  let stamp := if c.get (BSN_Q_STS.STATE b q) = 5 then (c.bs b).rstamp else c.step b
  let (id, c) := c.newId
  let side := qClassSide c b q
  let k : Kern :=
    { id := id, basin := b, queue := q, pkt := idx, kid := l.kid, stamp := stamp, side := side, cmask := l.cmask,
      clusters := cls, whole := l.whole, vown := l.vown, mown := l.mown, tagbase := l.tagbase, budget := l.budget,
      slots := c.slotsNow b, batch := batch }
  let c := cls.foldl (fun c kc => c.startCluster kc l stamp b) c
  let c := { c with kerns := c.kerns ++ [k] }
  cls.foldl (fun c kc =>
    let d : DieP := Map.get {} c.dies (kc / 4)
    let c := if d.clamp || d.droop then c.breakWhole (kc / 4) else c
    c.relevel (kc / 4)) c

/-- What a LAUNCH meets: refusal, a wait for its resources, or its clusters. -/
inductive LaunchRes where
  | refuse
  | hold (whole : Bool)
  | run (cls : List Nat)
  deriving DecidableEq, Repr

/-- The checks of a LAUNCH (R166, R171, R400). -/
def Chip.launchRes (c : Chip) (b q : Nat) (l : LaunchF) : LaunchRes :=
  let side := qClassSide c b q
  match c.maskCls b l.cmask with
  | none => .refuse
  | some cls =>
    if l.cmask = 0 ∨ l.tagbase % 128 ≠ 0 ∨ (side ∧ (l.budget = 0 ∨ l.budget > c.get (BSN_SIDE_MAX.BUDGET b))) then .refuse
    else if !cls.all c.clFree ∨ (side ∧ c.mainWants b l.cmask) then .hold false
    else if l.whole ∧ !c.wholeOk b cls then .hold true
    else .run cls

/-- LAUNCH (R166, R169, R171): the next released batch of the queue first (R167), else the packet at HEAD. -/
def launch (b q : Nat) (c : Chip) : Chip :=
  let u := c.qu b q
  match u.ins with
  | (p, bq, num) :: rest =>
    if !c.qLive b q then c
    else if c.started b q ≥ 32 then c.qWait b q
    else
      let l := decLaunch p
      match c.launchRes b q l with
      | .refuse => ((c.setQu b q { u with ins := rest }).batchEnd b bq num false).qHalt b q 4 none
      | .hold w => (if w then c.put (PWR_GRANT.WHOLE_WAIT b) 1 else c).qWait b q
      | .run cls =>
        let c := c.setQu b q { u with ins := rest }
        let c := if c.get (BSN_Q_STS.STATE b q) = 5 then c else c.put (BSN_Q_STS.STATE b q) 1
        (c.put (PWR_GRANT.WHOLE_WAIT b) 0).launchKern b q 0 l cls (some (bq, num))
  | [] =>
    match c.headStart b q 1 with
    | .no c => c
    | .go c i p =>
      let l := decLaunch p
      match c.launchRes b q l with
      | .refuse => c.qHalt b q 4 (some i)
      | .hold w => (if w then c.put (PWR_GRANT.WHOLE_WAIT b) 1 else c).qWait b q
      | .run cls => ((c.put (PWR_GRANT.WHOLE_WAIT b) 0).launchKern b q i l cls none).begin b q i p

/-- Whether a kernel has halted everywhere and all of its writes are performed (R186, R214). -/
def Chip.kernIdle (c : Chip) (k : Kern) : Bool :=
  let srcs := seqSrcs k.clusters
  k.clusters.all (fun kc =>
    let x := c.cl kc
    let (n, m) := (kc / 4, kc % 4)
    let halted (i : Nat) : Bool := c.get (CLS_SEQ_STS.STATE n m i) == 3
    halted 0 && halted 1 && x.seq0.loads.isEmpty && x.seq1.loads.isEmpty && x.arr.q.isEmpty && x.arr.flights.isEmpty
      && x.arr.drains.isEmpty && x.arr.loading.isNone)
  && !c.ops.any (fun o => srcs.contains o.src) && !(c.bs k.basin).lops.any (fun o => srcs.contains o.src)

/-- KERNEL_COMPLETE (R166, R214): the kernel on cluster `kc` ends. -/
def kernelComplete (kc : Nat) (c : Chip) : Chip :=
  match c.kernOf kc with
  | none => c
  | some k =>
    if !c.kernIdle k then c
    else
      let c := c.stopKern k
      match k.batch with
      | some (bq, num) => (c.batchEnd k.basin bq num true).qSettle k.basin k.queue
      | none => c.pktDone k.basin k.queue k.pkt

/-- SIDE_BUDGET_EXPIRY (R171): the side-class kernel on cluster `kc` has run for BUDGET core cycles. -/
def sideBudgetExpiry (kc : Nat) (c : Chip) : Chip :=
  match c.kernOf kc with
  | none => c
  | some k => if k.side then c.killKern k 5 else c

/-! ### Spout copies (R168, R231, R232) -/

/-- Whether a spout's destination operand is in range: own package within reach, or another package. -/
def Chip.spoutDst (c : Chip) (b coord dst len : Nat) : Bool :=
  if c.dest coord = c.coord then
    (match c.reach b dst len false with
    | some p => !inLatches p len
    | none => false)
  else c.mayReach b (c.dest coord)

/-- `len` bytes of a stream, every byte of each row (R487); a padding row gives zeros. -/
def Chip.streamBytes (c : Chip) (kc : Nat) (g : Ag) (len : Nat) : List Byte :=
  let n := dRowBytes g.desc
  ((c.rows kc g.desc g.spoutRow (ceilDiv len n)).flatMap (leBytes n)).take len

/-- Bytes written through a stream, row by row (R487); a padding row takes its bytes and writes nothing. -/
def Chip.streamWrite (c : Chip) (kc : Nat) (g : Ag) (bs : List Byte) : Chip :=
  let n := dRowBytes g.desc
  (List.range (ceilDiv bs.length n)).foldl (fun c i =>
    let (a, pad) := dRow g.desc (g.spoutRow + i)
    if pad then c else c.wr (.cis kc a.toNat) ((bs.drop (n * i)).take n)) c

/-- A spout copy is issued (R232): within the package it waits for its completion; beyond it, its data is read and sent as
PUTs (log entry 17). `ags` and `agd`: the streams that stand for source and destination. -/
def Chip.spout (c : Chip) (r : SendReq) (src dst len : Nat) (ags agd : Option (Nat × Ag)) : Chip :=
  if c.dest r.coord = c.coord then
    let counted := agd.isNone && (match c.placeN dst (max len 1) with
      | some p => c.placeBasin p != r.b
      | none => false)
    let (supp, c) := if counted then c.gate r.src else (false, c)
    if supp then c
    else
      let (sig, c) := c.gateSig r.src counted r.sig
      let (id, c) := c.newId
      let op : Op :=
        { id := id, src := r.src, kind := .spout, flow := { basin := r.b, coord := c.coord, dbasin := r.dbasin, run := r.run },
          loc := src, dst := dst, len := len, sig := sig, counted := counted, agSrc := ags, agDst := agd, pc := r.pc }
      { c with ops := c.ops ++ [op] }
  else
    let bs := match ags, c.reach r.b src len true with
      | some (kc, g), _ => c.streamBytes kc g len
      | none, some p => c.rd p len
      | none, none => []
    c.send { r with kind := .spout, opc := 0, addr := dst, payload := bs }

/-- SPOUT packet (R168). -/
def spoutPacket (b q : Nat) (c : Chip) : Chip :=
  match c.headStart b q 2 with
  | .no c => c
  | .go c i p =>
    let (src, dst, coord, len) := (bits p 64 48, bits p 128 48, bits p 192 18, bits p 256 40)
    let (db, run) := (bits p 210 3, bits p 213 2)
    if db > 5 ∨ run > 2 ∨ len % 64 ≠ 0 ∨ len = 0 ∨ (c.reach b src len true).isNone ∨ !c.spoutDst b coord dst len then
      c.qHalt b q 4 (some i)
    else
      let bad : Bool := match c.reach b src len true with
        | some (.hbm k) => c.poisoned k len
        | _ => false
      if bad ∧ c.dest coord ≠ c.coord then (c.begin b q i p).qHalt b q 8 (some i)
      else
        let stamp := if c.get (BSN_Q_STS.STATE b q) = 5 then (c.bs b).rstamp else c.step b
        let r : SendReq :=
          { b := b, src := .pkt b q i, side := qClassSide c b q, stamp := stamp, kind := .spout, opc := 0, run := run,
            coord := coord, dbasin := db, addr := dst }
        let n := c.ops.length
        let c := (c.begin b q i p).spout r src dst len none none
        if c.ops.length = n then c.pktDone b q i else c

/-- A spout copy stops on poison, and its issuer with it (R247, R248). -/
def Chip.spoutFail (c : Chip) (o : Op) : Chip :=
  let c := { c with ops := c.ops.filter (fun x => x.id ≠ o.id) }
  match o.src with
  | .pkt b q i => c.qHalt b q 8 (some i)
  | .seq kc k => c.kernelFaultAt kc k 6 o.pc
  | _ => c

/-- SPOUT_COPY_COMPLETE (R232): a copy within the package is performed at its destination. A poisoned source stops the
copy and its issuer (R248). -/
def spoutCopyComplete (id : Nat) (c : Chip) : Chip :=
  match c.ops.find? (fun o => o.id = id && o.kind = .spout && o.seqs.isEmpty) with
  | none => c
  | some o =>
    let src := match o.agSrc with
      | some _ => some (none : Option Place)
      | none => (c.reach o.flow.basin o.loc o.len true).map some
    let dst := match o.agDst with
      | some _ => some (none : Option Place)
      | none => (c.reach o.flow.basin o.dst o.len false).map some
    match src, dst with
    | some s, some d =>
      let bad : Bool := match s with
        | some (.hbm k) => c.poisoned k o.len
        | _ => false
      if bad then c.spoutFail o
      else
        let bs := match s, o.agSrc with
          | some p, _ => c.rd p o.len
          | none, some (kc, g) => c.streamBytes kc g o.len
          | none, none => []
        if (match d with
            | some p => c.partPoisonAt p o.len
            | none => false) then c.spoutFail o else
        let c := match d, o.agDst with
          | some p, _ => c.wr p bs
          | none, some (kc, g) => c.streamWrite kc g bs
          | none, none => c
        c.opDone o false
    | _, _ => c.opDone o true

/-! ### Engine commands (R136, R168, R233) -/

/-- Whether a command's step is older than the last resolved one (R111). -/
def Chip.lateCmd (c : Chip) (b stamp : Nat) : Bool :=
  match (c.bs b).resolved with
  | r :: _ => decide (stamp < r.step)
  | [] => false

/-- A temper command enters the FIFO of die `n`'s unit. -/
def Chip.enqT (c : Chip) (n : Nat) (e : ECmd) : Chip :=
  let x := c.tu n
  (c.setTu n { x with q := x.q ++ [{ e with late := c.lateCmd (c.dieBasin n) e.stamp }] }).put (FGE_TEMPER_STS.QDEPTH n) (x.q.length + 1)

/-- A ladle command enters a FIFO of die `n`'s ladle: `upd` the update FIFO. -/
def Chip.enqL (c : Chip) (n : Nat) (upd : Bool) (e : ECmd) : Chip :=
  let x := c.lu n
  let e := { e with late := c.lateCmd (c.dieBasin n) e.stamp }
  if upd then (c.setLu n { x with u := x.u ++ [e] }).put (FGE_LADLE_STS.QDEPTH_U n) (x.u.length + 1)
  else (c.setLu n { x with g := x.g ++ [e] }).put (FGE_LADLE_STS.QDEPTH_G n) (x.g.length + 1)

/-- Step stamp of a packet (R103, R191). -/
def Chip.pktStamp (c : Chip) (b q : Nat) : Nat := if c.get (BSN_Q_STS.STATE b q) = 5 then (c.bs b).rstamp else c.step b

/-- The latch of an engine command from a packet: SIG_LATCH and SIG_ADD (R165). -/
def pktSig (p : Nat) : Option (Nat × Nat) := if bit p 10 then some (bits p 29 13, bits p 448 32) else none

/-- TEMPER (R136, R168): the command enters the unit of slot `s` (the spec names no unit for a packet; log entry 28). -/
def temper (b q s : Nat) (c : Chip) : Chip :=
  match c.headStart b q 3 with
  | .no c => c
  | .go c i p =>
    let n := c.slotDie b s
    let (desc, comp) := (bits p 64 48, bits p 128 48)
    if n ≥ 26 then c.qWait b q
    else if (c.reach b desc 64 true).isNone ∨ (c.reach b comp 16 true).isNone then c.qHalt b q 4 (some i)
    else if (c.tu n).q.length ≥ 32 then c.qWait b q
    else
      let (id, c) := c.newId
      let skip := match (c.qu b q).replay with
        | some r => Map.get 0 r.chunks i
        | none => 0
      let e : ECmd := { id := id, desc := desc, comp := comp, sig := pktSig p, stamp := c.pktStamp b q, side := false,
                        src := .pkt b q i, skipTo := skip, tkc := 4 * n, queue := q, bstep := c.step b }
      (c.enqT n e).begin b q i p

/-- LADLE (R136, R155, R168): as TEMPER; the command's OP chooses the FIFO. -/
def ladle (b q s : Nat) (c : Chip) : Chip :=
  match c.headStart b q 4 with
  | .no c => c
  | .go c i p =>
    let n := c.slotDie b s
    let desc := bits p 64 48
    if n ≥ 26 then c.qWait b q
    else match c.reach b desc 64 true with
      | none => c.qHalt b q 4 (some i)
      | some pl =>
        let d := c.rdn pl 64
        let upd := bits d 0 2 == 2
        if upd ∧ qClassSide c b q then c.qHalt b q 4 (some i)
        else if (if upd then (c.lu n).u.length else (c.lu n).g.length) ≥ 32 then c.qWait b q
        else
          let (id, c) := c.newId
          let e : ECmd := { id := id, desc := desc, comp := bits d 448 48, sig := pktSig p, stamp := c.pktStamp b q,
                            side := qClassSide c b q, src := .pkt b q i, queue := q, bstep := c.step b }
          (c.enqL n upd e).begin b q i p

/-! ### Halted queues (R161) -/

/-- RELEASE of a halted queue (R161): the packet that halted it retires with no effect. -/
def Chip.qRelease (c : Chip) (b q : Nat) : Chip :=
  let st := c.get (BSN_Q_STS.STATE b q)
  if st ≠ 3 ∧ st ≠ 4 then c
  else
    let u := c.qu b q
    let c := c.put (BSN_Q_STS.STATE b q) (match u.replay with
      | some r => if c.get (BSN_Q_STS.HEAD b q) = r.upto then 1 else 5
      | none => 1)
    let c := (c.setQu b q { u with haltPkt := none }).setBs b { (c.setQu b q { u with haltPkt := none }).bs b with stopped := false }
    let h := c.get (BSN_Q_STS.HEAD b q)
    let c := match u.haltPkt with
      | some i =>
        let c := if i = h ∧ h ≠ c.get (BSN_Q_STS.TAIL b q) ∧ !u.win.any (fun s => s.idx = i) then c.begin b q i 0 else c
        c.pktMark b q i
      | none => c
    c.qSettle b q

/-- DISCARD of a halted queue (R161): TAIL returns to HEAD, and released batches that have not started leave flight. -/
def Chip.qDiscard (c : Chip) (b q : Nat) : Chip :=
  let st := c.get (BSN_Q_STS.STATE b q)
  if st ≠ 3 ∧ st ≠ 4 then c
  else
    let h := c.get (BSN_Q_STS.HEAD b q)
    let u := c.qu b q
    let c := (c.put (BSN_Q_STS.TAIL b q) h).setQu b q { u with ins := [], haltPkt := if u.haltPkt = some h then none else u.haltPkt }
    u.ins.foldl (fun c e => c.batchEnd b e.2.1 e.2.2 false) c

/-! ### Pour points (R189-R191) -/

/-- The queues of the pour set: main-class ones (R189). -/
def Chip.pourSet (c : Chip) (b : Nat) : List Nat :=
  (List.range 64).filter (fun q => bit (c.get (BSN_POUR_SET.SET b)) q && !qClassSide c b q)

/-- The number of a POUR that waits at the head of a queue. -/
def Chip.headPour (c : Chip) (b q : Nat) : Option Nat :=
  let h := c.get (BSN_Q_STS.HEAD b q)
  if h ≠ c.get (BSN_Q_STS.TAIL b q) ∧ (c.qu b q).ins = [] then
    (match c.ringPkt b q h with
    | some p => if bits p 0 8 = 11 then some (bits p 64 32) else none
    | none => none)
  else none

/-- The number of a POUR at the head of a queue that may start: every earlier packet has retired, and its conditions hold (R169, R189). -/
def Chip.pourAt (c : Chip) (b q : Nat) : Option Nat :=
  let h := c.get (BSN_Q_STS.HEAD b q)
  match c.ringPkt b q h with
  | some p =>
    if c.qLive b q && h == c.get (BSN_Q_STS.RETIRED b q) && !c.batchKern b q && c.pktOk b q p && c.pktReady b q h p then c.headPour b q
    else none
  | none => none

/-- POUR (R189): it waits at HEAD; one outside the set, or with another number than a POUR that waits, halts the set. -/
def pour (b q : Nat) (c : Chip) : Chip :=
  match c.headStart b q 11 with
  | .no c => c
  | .go c _ p =>
    let qs := c.pourSet b
    let n := bits p 64 32
    let clash := qs.any (fun r => r != q && (match c.headPour b r with
      | some m => m != n
      | none => false))
    if !qs.contains q ∨ clash then
      qs.foldl (fun c r =>
        let h := c.get (BSN_Q_STS.HEAD b r)
        c.qHalt b r 6 (if (c.headPour b r).isSome then some h else none)) c
    else c.qWait b q

/-- The slot of pour record `slot` of a basin. -/
def Chip.pourSlot (c : Chip) (b slot : Nat) : Option Nat := c.ownHbm b (c.get (BSN_POUR_BASE.BASE b) + 0x1000 * slot) 4096

/-- The commit word of a pour record: P and the slot's marker (R190). -/
def pourCommit (p slot : Nat) : Nat := fld 0 32 p + fld 32 32 (slot + 1)

/-- The bytes of a pour record (R190): P at 0, STEP at 8, the index after the POUR of queue q at 0x100 + 8 × q, and last the commit word
at 0xFF8 (DESIGN CHOICE, log entry 52: the spec names the contents and gives no places). -/
def Chip.pourWrite (c : Chip) (k slot : Nat) (r : PourRec) : Chip :=
  let c := (c.lose k 4096).wrHbm k (leBytes 8 r.p ++ leBytes 8 r.step)
  let c := r.idx.foldl (fun c e => c.wrHbm (k + 0x100 + 8 * e.1) (leBytes 8 e.2)) c
  c.wrHbm (k + 0xFF8) (leBytes 8 (pourCommit r.p slot))

/-- The last committed pour record as HBM holds it; none without one, or where it cannot be read (R190, R194). -/
def Chip.pourRec (c : Chip) (b : Nat) : Option PourRec :=
  let slot := c.get (BSN_POUR_STS.SLOT b)
  match c.pourSlot b slot with
  | some k =>
    let w (o : Nat) : Nat := leNat (c.mem.reads (k + o) 8)
    if c.on (BSN_POUR_STS.VALID b) && !c.poisoned k 4096 && w 0xFF8 == pourCommit (c.get (BSN_POUR_STS.P b)) slot then
      some { p := w 0 % 2 ^ 32, step := w 8, idx := (c.pourSet b).map (fun q => (q, w (0x100 + 8 * q) % 65536)) }
    else none
  | none => none

/-- POUR_TAKE (R190): with every queue of the set at its POUR, the record is written to the other slot and committed, and
the POURs complete. -/
def pourTake (b : Nat) (c : Chip) : Chip :=
  let qs := c.pourSet b
  let ns := qs.map (fun q => c.pourAt b q)
  match ns with
  | some n :: _ =>
    if !ns.all (fun m => m == some n) then c
    else
      let slot := if c.on (BSN_POUR_STS.VALID b) then 1 - c.get (BSN_POUR_STS.SLOT b) else 0
      let r : PourRec := { p := n, step := c.step b, idx := qs.map (fun q => (q, (c.get (BSN_Q_STS.HEAD b q) + 1) % 65536)) }
      let c := match c.pourSlot b slot with
        | some k => c.pourWrite k slot r
        | none => c
      let c := ((c.put (BSN_POUR_STS.P b) n).put (BSN_POUR_STS.VALID b) 1).put (BSN_POUR_STS.SLOT b) slot
      qs.foldl (fun c q =>
        let h := c.get (BSN_Q_STS.HEAD b q)
        let p := (c.ringPkt b q h).getD 0
        let c := (c.begin b q h p).pktDone b q h
        c.setQu b q { c.qu b q with hist := [], histDone := [], bsupp := [] }) c
  | _ => c

end Sys2Proof.Machine
end

