-- ==== Sys2Proof/Machine/Agreement.lean ====
section
/-! DEFINITION. Steps, seals, the agreement and its commands, the commit barrier and the other barrier contexts, the loss
monitor (04 R101-R120, R125; 06 R179-R182; 13 R408). -/
namespace Sys2Proof.Machine

/-! ### Blocks and slots (R100, R101, R107) -/

/-- Address in the basin's own HBM of an offset of the slot table; none outside it (log entry 10). -/
def Chip.tablePlace (c : Chip) (b off n : Nat) : Option Nat := c.ownHbm b (c.get (BSN_AMAX_BASE.BASE b) + off) n

/-- Offsets of the local and of the agreed block of step `n` (R107). -/
def localOfs (n : Nat) : Nat := 0x20000 + 0x1000 * (n % 2)
def agreedOfs (n : Nat) : Nat := 0x22000 + 0x1000 * (n % 2)

/-- Word `k` of the agreed block of step `n`. -/
def Chip.agreedWord (c : Chip) (b n k : Nat) : Nat :=
  match c.tablePlace b (agreedOfs n + 4 * k) 4 with
  | some a => leNat (c.mem.reads a 4)
  | none => 0

/-- A value rounded toward zero to FP32, clamped to the largest finite. -/
def truncFp32 (v : Val) : Nat :=
  match v with
  | .fin s m e =>
    if m = 0 then 0
    else
      let q := max (e + (bitLen m : Int) - 24) Fmt.fp32.qmin
      let n := if q ≤ e then m * 2 ^ (e - q).toNat else m / 2 ^ (q - e).toNat
      let (mm, me) := Fmt.fp32.maxFin
      if magLt mm me n q then 0x7F7FFFFF else encodeMag .fp32 s n q
  | .inf _ => 0x7F7FFFFF
  | .nan => Fmt.fp32.canonNaN

/-- The output scale that a window maximum gives (R101). -/
def slotScale (f : Fmt) (pow2 : Bool) (margin a : Nat) : Nat :=
  let (mm, me) := f.maxFin
  let s := (Val.fin false mm me).div ((fp32 a).scale margin)
  if pow2 then
    (match s with
    | .fin _ m e =>
      let x := e + (bitLen m : Int) - 1
      toFp32 (.fin false 1 (if x < -127 then -127 else if x > 127 then 127 else x))
    | v => truncFp32 v)
  else truncFp32 s

/-- One history slot at a resolution of step `n` (R101). -/
def Chip.slotResolve (c : Chip) (b n k : Nat) (committed : Bool) : Chip :=
  match c.tablePlace b (128 * k) 128 with
  | none => c
  | some p =>
    let w := leNat (c.mem.reads (p + 64) 8)
    match slotFmt (bits w 0 4) with
    | none => c
    | some f =>
      let (delay, window, margin) := (bits w 5 4, bits w 9 5, bits w 14 4)
      let amax := if committed then c.agreedWord b n k else 0
      let c := c.wrHbm (p + 4 * (n % 16)) (leBytes 4 amax)
      let c := c.wrHbm (p + 64) (leBytes 8 (setBits w 18 32 n))
      let a := (List.range window).foldl (fun a i => max a (leNat (c.mem.reads (p + 4 * ((n + 16 * window - i) % 16)) 4))) 0
      let m := n + delay
      let s := if a = 0 then leNat (c.mem.reads (p + 72 + 4 * ((m + 7) % 8)) 4) else slotScale f (bit w 4) margin a
      c.wrHbm (p + 72 + 4 * (m % 8)) (leBytes 4 s)

/-! ### Barrier contexts (R179-R182) -/

def Chip.barCtx (c : Chip) (b x : Nat) : BarCtx := Map.get {} (c.bs b).bars x
def Chip.setBar (c : Chip) (b x : Nat) (v : BarCtx) : Chip :=
  let s := c.bs b
  c.setBs b { s with bars := Map.put {} s.bars x v }

/-- A group descriptor (R179): N, RANK and LIST; none where it cannot be read or is no group. -/
def Chip.group (c : Chip) (b x : Nat) : Option (Nat × Nat × Nat) :=
  match c.ownHbm b (c.get (BSN_BAR_CTX.GROUP b x)) 64 with
  | some k =>
    let d := leNat (c.mem.reads k 64)
    let (n, r, l) := (bits d 0 18, bits d 18 18, bits d 64 48)
    if n = 0 ∨ n > 196608 ∨ r ≥ n then none else some (n, r, l)
  | none => none

/-- R = ceil(log2 N) rounds (R180). -/
def rounds (n : Nat) : Nat := bitLen (n - 1)

/-- Generation that context `x` is in: for context 0 the next step to resolve (R181). -/
def Chip.barGen (c : Chip) (b x : Nat) : Nat := c.get (BSN_BAR_STS.GEN b x)

/-- The control packet of a round, to rank (r + 2^k) mod N (R180, R310). -/
def Chip.sendRound (c : Chip) (b x k : Nat) (g : Nat × Nat × Nat) : Chip :=
  let (n, r, l) := g
  let peer := (r + 2 ^ k) % n
  match c.reach b (l + 4 * peer) 4 true with
  | none => c
  | some p =>
    let e := c.rdn p 4
    let addr := fld 32 4 x + fld 36 5 k + fld 0 32 (c.barGen b x)
    let st := c.step b
    let h : Hdr :=
      { opc := 8, run := 2, taint := c.taintOf b st, dst := c.dest (bits e 0 18), dbasin := bits e 18 3, src := c.coord,
        sbasin := b, addr := addr, slice := c.hdrSlice b, step := c.hdrStep st }
    c.inject b h [] (60 + b)

/-- Rounds in order: while the awaited one has come, the next is sent. True once round R − 1 has been received. -/
def Chip.barAdvance (c : Chip) (b x : Nat) (g : Nat × Nat × Nat) : Nat → Chip × Bool
  | 0 => (c, false)
  | fuel + 1 =>
    let r := c.get (BSN_BAR_STS.ROUND b x)
    if r ≥ rounds g.1 then (c, true)
    else if (c.barCtx b x).got.contains r then
      let c := c.put (BSN_BAR_STS.ROUND b x) (r + 1)
      let c := if r + 1 < rounds g.1 then c.sendRound b x (r + 1) g else c
      Chip.barAdvance c b x g fuel
    else (c, false)

/-- A generation ends: the packets held for the next become its own. -/
def Chip.barNext (c : Chip) (b x : Nat) : Chip :=
  let v := c.barCtx b x
  let c := (c.put (BSN_BAR_STS.GEN b x) (c.barGen b x + 1)).put (BSN_BAR_STS.ROUND b x) 0
  let c := (c.put (BSN_BAR_STS.STATE b x) 0).put (BSN_BAR_STS.EARLY b x) 0
  c.setBar b x { got := v.early }

/-! ### Resolution of a step (R101, R110-R112, R141, R408) -/

/-- A loss-scale exponent as a signed number, and back. -/
def lsOf (w : Nat) : Int := sext 8 w

/-- R112. -/
def Chip.lossScale (c : Chip) (b result : Nat) : Chip :=
  let ls := lsOf (c.get (BSN_LOSS_SCALE.LS_EXP b))
  if result = 2 then
    let v := max (ls - c.get (BSN_LOSS_SCALE.DOWN b)) (lsOf (c.get (BSN_LOSS_SCALE.MIN_EXP b)))
    (c.put (BSN_LOSS_SCALE.LS_EXP b) (wrapInt 8 v)).put (BSN_LOSS_SCALE.CLEAN b) 0
  else if result = 1 then
    let n := c.get (BSN_LOSS_SCALE.CLEAN b) + 1
    if n ≥ c.get (BSN_LOSS_SCALE.GROWTH b) then
      let v := min (ls + c.get (BSN_LOSS_SCALE.UP b)) (lsOf (c.get (BSN_LOSS_SCALE.MAX_EXP b)))
      (c.put (BSN_LOSS_SCALE.LS_EXP b) (wrapInt 8 v)).put (BSN_LOSS_SCALE.CLEAN b) 0
    else c.put (BSN_LOSS_SCALE.CLEAN b) n
  else c

/-- Single tenancy: all six basins carry one slice tag (R32). -/
def Chip.singleTenancy (c : Chip) : Bool := (List.range 6).all (fun b => c.get (BSN_SLICE.TAG b) == c.get (BSN_SLICE.TAG 0))

/-- Slack of the step that is resolved (R408). -/
def Chip.slackResolve (c : Chip) (b n : Nat) : Chip :=
  let s := c.bs b
  let (sl, st) := (satTo (2 ^ 24 - 1) s.slackN, satTo (2 ^ 24 - 1) s.tickN)
  let c := c.setBs b { s with slackN := 0, tickN := 0 }
  let c := ((c.put (BSN_SLACK.SLACK b) sl).put (BSN_SLACK.STEP_TICKS b) st).put (BSN_SLACK.STEP16 b) n
  if c.singleTenancy ∧ (c.get PWR_SLACK.BASIN = 7 ∨ sl < c.get PWR_SLACK.SLACK) then
    ((c.put PWR_SLACK.SLACK sl).put PWR_SLACK.STEP_TICKS st).put PWR_SLACK.BASIN b
  else c

/-- The sealed step is resolved with NF and DIST (R110). -/
def Chip.resolve (c : Chip) (b : Nat) (nf dist : Bool) : Chip :=
  let n := c.step b - 1
  let result := if nf then 2 else if dist then 3 else 1
  let ok := result == 1
  let c := (List.range 1023).foldl (fun c i => c.slotResolve b n (i + 1) ok) c
  let c := match c.tablePlace b (localOfs n) 0x1000 with
    | some k => c.wrHbm k (leBytes 0x1000 0)
    | none => c
  let c := c.lossScale b result
  let c := ((c.put (BSN_AGREE_STS.STATE b) 0).put (BSN_AGREE_STS.LAST_RESULT b) result).put (BSN_AGREE_STS.LAST_STEP b) n
  let s := c.bs b
  let c := c.put (BSN_AGREE_STS.DISTURBED b) (b2n s.distOpen)
  let t := c.get (BSN_TEMPER_T.T b) + b2n ok
  let c := c.put (BSN_TEMPER_T.T b) t
  let r : Resolved := { step := n, committed := ok, t := t % 2 ^ 64, e := lsOf (c.get (BSN_AGREE_STS.SEALED_LS b)) }
  let tainted := if c.on (BSN_AGREE_STS.SEALED_TAINT b) || s.seenSealed then insNat s.tainted n else s.tainted
  let c := c.setBs b { s with seenSealed := false, resolved := r :: s.resolved.take 1, tainted := tainted }
  let c := (c.slackResolve b n).secureAt b n
  let w := (c.barCtx b 0).waiter
  let c := c.barNext b 0
  match w with
  | some (q, i) => c.pktDone b q i
  | none => c

/-- A barrier generation completes at this member (R180, R181). -/
def Chip.barComplete (c : Chip) (b x : Nat) : Chip :=
  if x = 0 then c.resolve b (c.on (BSN_AGREE_STS.AGREED_NF b)) (c.on (BSN_AGREE_STS.AGREED_DIST b))
  else
    let w := (c.barCtx b x).waiter
    let c := c.barNext b x
    match w with
    | some (q, i) => c.pktDone b q i
    | none => c

/-- GROUP of a context is written: for contexts 1-15 the generation starts at 0, and nothing received before counts (R180). -/
def Chip.barGroup (c : Chip) (b x : Nat) : Chip :=
  if x = 0 then c else (c.setBar b x { c.barCtx b x with got := [], early := [] }).put (BSN_BAR_STS.GEN b x) 0

/-- The member arrives at the present generation of a context, on behalf of a packet. -/
def Chip.barArrive (c : Chip) (b x : Nat) (waiter : Nat × Nat) : Chip :=
  let v := c.barCtx b x
  let c := (c.setBar b x { v with arrived := true, waiter := some waiter }).put (BSN_BAR_STS.STATE b x) 1
  match c.group b x with
  | none => c
  | some g =>
    let c := if rounds g.1 > 0 then c.sendRound b x 0 g else c
    let (c, fin) := c.barAdvance b x g 32
    if fin then c.barComplete b x else c.qWait b waiter.1

/-! ### Packets (R106, R108, R165, R168) -/

/-- SEAL (R106). -/
def sealStep (b q : Nat) (c : Chip) : Chip :=
  match c.headStart b q 8 with
  | .no c => c
  | .go c i p =>
    let n := c.step b
    if bits p 64 32 ≠ n % 2 ^ 32 then c.qHalt b q 4 (some i)
    else if c.get (BSN_AGREE_STS.STATE b) ≠ 0 then c.qWait b q
    else
      let c := c.begin b q i p
      let s := c.bs b
      let taint := c.on (BSN_AGREE_STS.LOCAL_TAINT b) || c.on (BSN_AGREE_STS.TAINT_SEEN b)
      let c := match c.tablePlace b (localOfs n) 4 with
        | some k => c.wrHbm k (leBytes 4 (b2n taint + 2 * b2n s.distOpen))
        | none => c
      let seen := c.on (BSN_AGREE_STS.TAINT_SEEN b)
      let c := (c.put (BSN_AGREE_STS.SEALED_TAINT b) (b2n taint)).put (BSN_AGREE_STS.DISTURBED b) (b2n s.distOpen)
      let c := (c.put (BSN_AGREE_STS.LOCAL_TAINT b) 0).put (BSN_AGREE_STS.TAINT_SEEN b) (b2n s.seenNext)
      let c := c.put (BSN_AGREE_STS.SEALED_LS b) (c.get (BSN_AGREE_STS.OPEN_LS b))
      let c := c.put (BSN_AGREE_STS.OPEN_LS b) (c.get (BSN_LOSS_SCALE.LS_EXP b))
      let c := (c.put (BSN_STEP.STEP b) (n + 1)).put (BSN_AGREE_STS.STATE b) 1
      let c := c.setBs b { c.bs b with distOpen := false, seenSealed := seen, seenNext := false,
                                       sentGrad := false }
      c.pktDone b q i

/-- Whether an engine command stamped `n` is still to complete in basin `b`: temper commands and updating scatter-adds
(R141). -/
def Chip.engineBusy (c : Chip) (b n : Nat) : Bool :=
  (List.range 26).any (fun d =>
    let t := c.tu d
    let l := c.lu d
    c.dieBasin d == b
      && (t.q.any (fun e => e.stamp == n) || t.resume.any (fun r => r.cmd.stamp == n) || l.u.any (fun e => e.stamp == n)
        || (match t.run with
          | some r => r.cmd.stamp == n
          | none => false)
        || (match l.runU with
          | some r => r.cmd.stamp == n
          | none => false)))

/-- AGREE (R108, R141, R181). -/
def agree (b q : Nat) (c : Chip) : Chip :=
  match c.headStart b q 9 with
  | .no c => c
  | .go c i p =>
    let n := c.step b - 1
    let st := c.get (BSN_AGREE_STS.STATE b)
    if st = 0 ∨ bits p 64 32 ≠ n % 2 ^ 32 then c.qHalt b q 4 (some i)
    else if st = 2 then
      (if c.get (BSN_Q_STS.STATE b q) = 5 then (c.begin b q i p).setBar b 0 { c.barCtx b 0 with waiter := some (q, i) }
      else c.qHalt b q 4 (some i))
    else if n ≥ 2 ∧ c.engineBusy b (n - 2) then c.qWait b q
    else
      let c := c.begin b q i p
      let w := c.agreedWord b n 0
      let nf := bit w 0 || (c.bs b).seenSealed
      let c := (c.put (BSN_AGREE_STS.AGREED_NF b) (b2n nf)).put (BSN_AGREE_STS.AGREED_DIST b) (b2n (bit w 1))
      (c.put (BSN_AGREE_STS.STATE b) 2).barArrive b 0 (q, i)

/-- BARRIER (R165, R168, R180): contexts 1-15. A context that another BARRIER uses is waited for. -/
def barrier (b q : Nat) (c : Chip) : Chip :=
  match c.headStart b q 10 with
  | .no c => c
  | .go c i p =>
    let x := bits p 64 4
    if x = 0 ∨ (c.group b x).isNone then c.qHalt b q 4 (some i)
    else if c.get (BSN_BAR_STS.STATE b x) = 1 then
      (if (c.barCtx b x).waiter = some (q, i) then c.begin b q i p else c.qWait b q)
    else (c.begin b q i p).barArrive b x (q, i)

/-! ### Arrivals, timeouts and host commands -/

/-- Whether a runnel-C packet's step is one the basin accepts (R103, R356). -/
def Chip.stepOk (c : Chip) (b hstep : Nat) : Bool :=
  let s := c.step b
  let m := if c.modes.native then 2 ^ 32 else 65536
  let d := (hstep + m - s % m) % m
  d == 0 || d == 1 || d == m - 1

/-- Whether a packet's slice tag is accepted by a basin, `via`: the storage port it arrived through (R197, R200). -/
def Chip.sliceOk (c : Chip) (b slice : Nat) (via : Option Nat) : Bool :=
  let t := c.get (BSN_SLICE.TAG b)
  let m := if c.modes.native then 65536 else 256
  (t != 0 && slice % m == t % m)
    || (match via with
      | some 6 => c.on (BSN_PORT_EN.S0 b)
      | some 7 => c.on (BSN_PORT_EN.S1 b)
      | _ => false)

/-- A slice drop is counted (R197). -/
def Chip.sliceDrop (c : Chip) (b : Nat) : Chip := (c.count (BSN_SLICE_DROPS b) 1).fireB b 9

/-- A packet that carries taint marks its step (R105); in Compatibility mode there is no taint bit (R356). -/
def Chip.taintSeen (c : Chip) (b : Nat) (h : Hdr) : Chip :=
  if h.run ≠ 2 ∨ !h.taint ∨ !c.modes.native then c
  else
    let d := (h.step + 2 ^ 32 - c.step b % 2 ^ 32) % 2 ^ 32
    if d = 0 then c.put (BSN_AGREE_STS.TAINT_SEEN b) 1
    else if d = 1 then c.setBs b { c.bs b with seenNext := true }
    else if d = 2 ^ 32 - 1 ∧ c.get (BSN_AGREE_STS.STATE b) ≠ 0 then c.setBs b { c.bs b with seenSealed := true }
    else if 2 ^ 31 ≤ d ∧ 2 ^ 32 - d ≤ c.step b then
      c.setBs b { c.bs b with tainted := insNat (c.bs b).tainted (c.step b - (2 ^ 32 - d)) }
    else c

/-- CTRL_PACKET (R103, R180, R197, R310): a barrier control packet for basin DBASIN of its header. -/
def ctrlPacket (w : Nat) (via : Option Nat) (c : Chip) : Chip :=
  let h := decHdr w
  let b := h.dbasin
  let (kind, x, k, g) := (bits h.addr 44 4, bits h.addr 32 4, bits h.addr 36 5, bits h.addr 0 32)
  if !hdrOk w ∨ h.opc ≠ 8 ∨ kind ≠ 0 ∨ b > 5 then c
  else if (c.bs b).quenched ∨ !c.sliceOk b h.slice via then c.sliceDrop b
  else if h.run = 2 ∧ !c.stepOk b h.step then c.count (BSN_STEP_STALE b) 1
  else
    let c := c.taintSeen b h
    let v := c.barCtx b x
    let gen := c.barGen b x
    if g = gen then
      let c := c.setBar b x { v with got := insNat v.got k }
      if !v.arrived then c
      else match c.group b x with
        | none => c
        | some gr =>
          let (c, fin) := c.barAdvance b x gr 32
          if fin then c.barComplete b x else c
    else if g = (gen + 1) % 2 ^ 32 then
      (c.setBar b x { v with early := insNat v.early k }).put (BSN_BAR_STS.EARLY b x) 1
    else c.sliceDrop b

/-- BARRIER_TIMEOUT (R182). -/
def barrierTimeout (b x : Nat) (c : Chip) : Chip :=
  if x = 0 ∨ x > 15 ∨ c.get (BSN_BAR_CTX.TIMEOUT b x) = 0 ∨ c.get (BSN_BAR_STS.STATE b x) ≠ 1 then c
  else (c.put (BSN_BAR_STS.TIMEOUT_EV b x) 1).fireB b 3

/-- CANCEL (R182): the waiting BARRIER completes with ERRCODE 9, and the context returns to STATE 0 at generation 0. The
generation of context 0 is the step number (R181) and stays. -/
def cancel (b x : Nat) (c : Chip) : Chip :=
  let w := (c.barCtx b x).waiter
  let c := ((c.put (BSN_BAR_STS.STATE b x) 0).put (BSN_BAR_STS.ROUND b x) 0).put (BSN_BAR_STS.EARLY b x) 0
  let c := (if x = 0 then c else c.put (BSN_BAR_STS.GEN b x) 0).setBar b x {}
  match w with
  | some (q, i) => if x = 0 then c else (c.qErr b q 9).pktDone b q i
  | none => c

/-- AGREE_TIMEOUT (R115). -/
def agreeTimeout (b : Nat) (c : Chip) : Chip :=
  if c.get (BSN_AGREE_CTL.TIMEOUT b) = 0 ∨ c.get (BSN_AGREE_STS.STATE b) = 0 then c
  else (c.put (BSN_AGREE_STS.TIMEOUT_EV b) 1).fireB b 2

/-- Whether step `n` (its low 32 bits) has been resolved at the basin. -/
def Chip.wasResolved (c : Chip) (b n : Nat) : Bool :=
  c.get (BSN_AGREE_STS.LAST_RESULT b) != 0 && decide (subMod 32 (c.get (BSN_AGREE_STS.LAST_STEP b)) n < 2 ^ 31)

/-- A RELEASE of step `n` (R115). -/
def Chip.agreeRelease (c : Chip) (b n : Nat) : Chip :=
  let st := c.get (BSN_AGREE_STS.STATE b)
  let cmd (v : Nat) : Chip := c.put (BSN_AGREE_STS.CMD_RESULT b) v
  if st ≠ 0 ∧ n % 2 ^ 32 = (c.step b - 1) % 2 ^ 32 then
    (if st = 2 then (cmd 0).resolve b (c.on (BSN_AGREE_STS.AGREED_NF b)) (c.on (BSN_AGREE_STS.AGREED_DIST b)) else cmd 2)
  else if c.wasResolved b n then cmd 1
  else cmd 3

/-- An ABANDON of step `n` (R115): resolved as skipped, disturbed. -/
def Chip.agreeAbandon (c : Chip) (b n : Nat) : Chip :=
  let st := c.get (BSN_AGREE_STS.STATE b)
  let cmd (v : Nat) : Chip := c.put (BSN_AGREE_STS.CMD_RESULT b) v
  if st ≠ 0 ∧ n % 2 ^ 32 = (c.step b - 1) % 2 ^ 32 then (cmd 0).resolve b false true
  else if c.wasResolved b n then cmd 1
  else cmd 3

/-- A write of TAINT (R104). -/
def Chip.agreeTaint (c : Chip) (b : Nat) : Chip := c.put (BSN_AGREE_STS.LOCAL_TAINT b) 1

/-! ### The loss monitor (R125) and the trap (R93, R94) -/

/-- A step loss (R125). -/
def Chip.lossIn (c : Chip) (b w : Nat) : Chip :=
  let s := c.bs b
  let n := s.lossN + 1
  let c := c.setBs b { s with lossN := n }
  let x := fp32 w
  let avg := fp32 (c.get (BSN_LOSS_AVG.AVG b))
  let ratio : Val := .fin false (16 + c.get (BSN_LOSS_CTL.RATIO_F b)) (-4)
  if !x.isFin then c.count (BSN_LOSS_NF b) 1
  else if s.lossRestart then (c.put (BSN_LOSS_AVG.AVG b) w).setBs b { c.bs b with lossRestart := false }
  else if n > c.get (BSN_LOSS_CTL.WARMUP b) ∧ (avg.mul ratio).lt x then
    let c := if bit (c.word (BSN_LOSS_SPIKES b)) 63 then c else c.setBs b { c.bs b with spikeGrow := (c.bs b).spikeGrow + 1 }
    (c.count (BSN_LOSS_SPIKES b) 1).fireB b 8
  else
    let d := fp32 (toFp32 (x.sub avg))
    let st := fp32 (toFp32 (d.scale (-(c.get (BSN_LOSS_CTL.ALPHA b) : Int))))
    c.put (BSN_LOSS_AVG.AVG b) (toFp32 (avg.add st))

/-- RESTART (R125). -/
def Chip.lossAgain (c : Chip) (b : Nat) : Chip := c.setBs b { c.bs b with lossRestart := true, lossN := 0 }

/-- A write of 1 to HELD (R93). -/
def Chip.trapRearm (c : Chip) (b : Nat) : Chip :=
  let c := (c.put (BSN_NAN_TRAP_CTL.HELD b) 0).put (BSN_NAN_TRAP_CTL.MISSED b) 0
  c.put (BSN_NAN_TRAP_CTL.ARMED b) (c.get (BSN_NAN_TRAP_CTL.ENABLE b))

end Sys2Proof.Machine
end

