-- ==== Sys2Proof/Machine/Batch.lean ====
section
/-! DEFINITION. The batching queues (02 R59-R65; 06 R167). -/
namespace Sys2Proof.Machine

def Chip.bq (c : Chip) (b x : Nat) : BatchQ := Map.get {} (c.bs b).bqs x
def Chip.setBq (c : Chip) (b x : Nat) (v : BatchQ) : Chip :=
  let s := c.bs b
  c.setBs b { s with bqs := Map.put {} s.bqs x v }

/-- Rows of a batch. -/
def Batch.rows (t : Batch) : Nat := t.reqs.foldl (fun n r => n + r.1) 0

/-- Row length of a batching queue in bytes (R63). -/
def Chip.rowLen (c : Chip) (b x : Nat) : Nat := 64 * (c.get (BSN_BATCH_CFG.ROWLEN b x) + 1)

/-- Age of the oldest batch not released (R65). -/
def Chip.batchAge (c : Chip) (b x : Nat) : Chip :=
  match (c.bq b x).batches.find? (fun t => !t.inFlight) with
  | some t => c.put (BSN_BATCH_STS.OLDEST_AGE b x) (satTo (2 ^ 32 - 1) t.age)
  | none => c.put (BSN_BATCH_STS.OLDEST_AGE b x) 0

/-- The open batch closes with a cause: 0 fill, 1 deadline, 2 flush (R60). -/
def Chip.batchClose (c : Chip) (b x cause : Nat) : Chip :=
  let u := c.bq b x
  c.setBq b x { u with batches := u.batches.map (fun t => if t.closed.isNone then { t with closed := some cause } else t) }

/-- IDLE (R62). -/
def Chip.batchIdle (c : Chip) (b x : Nat) : Chip :=
  c.put (BSN_BATCH_STS.IDLE b x) (b2n (c.get (BSN_BATCH_STS.PENDING b x) == 0 && c.get (BSN_BATCH_STS.INFL b x) == 0))

/-- BATCH_BIND (R167): the template, kept as the LAUNCH packet it makes. -/
def batchBind (b q : Nat) (c : Chip) : Chip :=
  match c.headStart b q 5 with
  | .no c => c
  | .go c i p =>
    let x := bits p 64 3
    let t := fld 0 8 1 + fld 64 25 (bits p 71 25) + fld 96 32 (bits p 96 32) + fld 128 256 (bits p 128 256)
    ((c.begin b q i p).setBq b x { c.bq b x with tmpl := some t }).pktDone b q i

/-- Places of `n` ring rows from slot `s` and the rows' own places, all in the basin's own HBM. -/
def Chip.batchPlaces (c : Chip) (b x s n src : Nat) : Option (List (Nat × Nat)) :=
  let l := c.rowLen b x
  (List.range n).mapM (fun j =>
    match c.ownHbm b (src + j * l) l, c.ownHbm b (c.get (BSN_BATCH_BUF.BASE b x) + (s + j) % 1024 * l) l with
    | some a, some d => some (a, d)
    | _, _ => none)

/-- A request joins the open batch, which it closes first if it does not fit, and after if it fills it (R60). -/
def BatchQ.join (u : BatchQ) (rows latch src : Nat) (deadline0 : Bool) : BatchQ × Nat × Nat :=
  let opn := u.batches.find? (fun t => t.closed.isNone)
  let fits := match opn with
    | some t => decide (t.rows + rows ≤ 256)
    | none => false
  let shut (t : Batch) : Batch :=
    if t.closed.isSome then t
    else if t.rows ≥ 256 then { t with closed := some 0 }
    else if deadline0 then { t with closed := some 1 }
    else t
  if fits then
    let num := (opn.map (·.num)).getD 0
    let bs := u.batches.map (fun t => if t.closed.isNone then { t with reqs := t.reqs ++ [(rows, latch, src)] } else t)
    ({ u with batches := bs.map shut, head := (u.head + rows) % 1024 }, u.head, num)
  else
    let bs := u.batches.map (fun t => if t.closed.isNone then { t with closed := some 0 } else t)
    let t : Batch := { num := u.next, slot := u.head, reqs := [(rows, latch, src)], closed := none }
    ({ u with batches := (bs ++ [t]).map shut, next := (u.next + 1) % 2 ^ 32, head := (u.head + rows) % 1024 }, u.head, u.next)

/-- BATCH_APPEND (R59, R60, R167). A refused request completes with ERRCODE 4, packet refused (log entry 139). -/
def batchAppend (b q : Nat) (c : Chip) : Chip :=
  match c.headStart b q 6 with
  | .no c => c
  | .go c i p =>
    let (x, rows, latch) := (bits p 64 3, bits p 67 9, bits p 76 13)
    let (src, rec) := (bits p 128 48, bits p 192 48)
    let u := c.bq b x
    let pend := c.get (BSN_BATCH_STS.PENDING b x)
    if rows = 0 ∨ rows > 256 ∨ pend + rows > 1024 ∨ !c.on (BSN_BATCH_CFG.ENABLE b x) then
      ((((c.begin b q i p).put (BSN_BATCH_STS.REJECT b x) 1).fireB b 5).qErr b q 4).pktDone b q i
    else match c.batchPlaces b x u.head rows src, c.reach b rec 8 true with
      | some ps, some r =>
        if latch ≥ 5120 ∨ inLatches r 8 then c.qHalt b q 4 (some i)
        else
          let c := c.begin b q i p
          let c := ps.foldl (fun c e => c.wrHbm e.2 (c.mem.reads e.1 (c.rowLen b x))) c
          let d0 := c.get (BSN_BATCH_CFG.MODE b x) = 1 ∧ c.get (BSN_BATCH_CFG.DEADLINE b x) = 0
          let (u, slot, num) := u.join rows latch src d0
          let c := (c.setBq b x u).wrn r 8 (slot + 2 ^ 32 * num)
          let c := (c.put (BSN_BATCH_STS.PENDING b x) (pend + rows)).put (BSN_BATCH_STS.IDLE b x) 0
          c.pktDone b q i
      | _, _ => c.qHalt b q 4 (some i)

/-- BATCH_FLUSH (R60, R167). -/
def batchFlush (b q : Nat) (c : Chip) : Chip :=
  match c.headStart b q 7 with
  | .no c => c
  | .go c i p => ((c.begin b q i p).batchClose b (bits p 64 3) 2).pktDone b q i

/-- BATCH_DEADLINE (R60): DEADLINE core cycles have passed since the open batch's first row. -/
def batchDeadline (b x : Nat) (c : Chip) : Chip :=
  if c.get (BSN_BATCH_CFG.MODE b x) = 1 then c.batchClose b x 1 else c

/-- BATCH_RELEASE (R61, R167). -/
def batchRelease (b x : Nat) (c : Chip) : Chip :=
  let u := c.bq b x
  match u.tmpl, u.batches.find? (fun t => !t.inFlight) with
  | some tp, some t =>
    let fl := c.get (BSN_BATCH_STS.INFL b x)
    if t.closed.isNone ∨ fl ≥ c.get (BSN_BATCH_CFG.INFLIGHT b x) + 1 ∨ (c.bs b).quenched then c
    else
      let m := t.rows
      let q := c.get (BSN_BATCH_CFG.TARGET_Q b x)
      let pkt := setBits (setBits tp 256 64 m) 320 64 t.slot
      let c := c.setBq b x { u with batches := u.batches.map (fun s => if s.num = t.num then { s with inFlight := true } else s) }
      let y := c.qu b q
      let c := c.setQu b q { y with ins := y.ins ++ [(pkt, x, t.num)] }
      let c := (c.put (BSN_BATCH_STS.PENDING b x) (c.get (BSN_BATCH_STS.PENDING b x) - m)).put (BSN_BATCH_STS.INFL b x) (fl + 1)
      let c := (c.put (BSN_BATCH_STS.LAST_M b x) m).put (BSN_BATCH_STS.LAST_CAUSE b x) (t.closed.getD 0)
      let c := if c.get (BSN_Q_STS.STATE b q) = 0 then c.put (BSN_Q_STS.STATE b q) 1 else c
      c.batchAge b x
  | _, _ => c

end Sys2Proof.Machine
end

