-- ==== Sys2Proof/Machine/Blocks.lean ====
section
/-! DEFINITION. The blocks of the register window (R468): which register an offset names, and the reset of a block. -/
namespace Sys2Proof.Machine

/-- A block found at a window offset: its kind, its base as registers are kept, and the offset in it. A role-slot block is
kept under the die that holds the slot (R468). -/
structure Loc where
  block : Block
  base : Nat
  off : Nat
  deriving DecidableEq, Repr

/-- The block of a die's layout at offset `o` of it: FGE_ first, then the four CLS_ blocks. -/
def dieLoc (n o : Nat) : Option Loc :=
  if o < 0x10000 then some ⟨.fge, dieBase n, o⟩
  else if o < 0x50000 then some ⟨.cls, dieBase n + o / 0x10000 * 0x10000, o % 0x10000⟩
  else none

/-- The block at a window offset (R468); none where the table covers nothing, or a slot is empty. -/
def Chip.locate (c : Chip) (a : Nat) : Option Loc :=
  if a < 0x20000 then some ⟨.hub, 0, a⟩
  else if a < 0x30000 then some ⟨.asy, 0x20000, a - 0x20000⟩
  else if a < 0x40000 then some ⟨.pwr, 0x30000, a - 0x30000⟩
  else if a < 0x50000 then some ⟨.tmp, 0x40000, a - 0x40000⟩
  else if a < 0x60000 then some ⟨.fab, 0x50000, a - 0x50000⟩
  else if a < 0x70000 then some ⟨.slc, 0x60000, a - 0x60000⟩
  else if 0x80000 ≤ a ∧ a < 0xC0000 then some ⟨.fnt, a / 0x10000 * 0x10000, a % 0x10000⟩
  else if 0x100000 ≤ a ∧ a < 0x1C0000 then some ⟨.hbm, a / 0x10000 * 0x10000, a % 0x10000⟩
  else if 0x1000000 ≤ a ∧ a < 0x2800000 then
    let b := (a - 0x1000000) / 0x400000
    let o := a % 0x400000
    if o < 0x10000 then some ⟨.bsn, bsnBase b, o⟩
    else if 0x80000 ≤ o ∧ o < 0x300000 then
      let n := c.slotDie b (o / 0x80000 - 1)
      if n < 26 then dieLoc n (o % 0x80000) else none
    else none
  else if 0x2800000 ≤ a ∧ a < 0x2800000 + 0x80000 * 26 then dieLoc ((a - 0x2800000) / 0x80000) (a % 0x80000)
  else none

/-- Whether a window offset lies in the blocks of a role slot that no die holds: an access there is refused with an address fault
(R35); every other offset that names no register reads zero and ignores writes (R12, R468). -/
def Chip.emptySlot (c : Chip) (a : Nat) : Bool :=
  decide (0x1000000 ≤ a ∧ a < 0x2800000 ∧ 0x80000 ≤ a % 0x400000 ∧ a % 0x400000 < 0x300000)
    && decide (26 ≤ c.slotDie ((a - 0x1000000) / 0x400000) (a % 0x400000 / 0x80000 - 1))

/-- The indices of a row's register at a block offset. -/
def RegRow.hit (r : RegRow) (o : Nat) : Option (Nat × Nat) :=
  if o < r.base then none
  else
    let d := o - r.base
    let i := if r.stride = 0 then 0 else d / r.stride
    let m := if r.stride = 0 then d else d % r.stride
    let j := if r.stride2 = 0 then 0 else m / r.stride2
    if i * r.stride + j * r.stride2 = d ∧ i < r.count ∧ j < r.count2 then some (i, j) else none

/-- The register at a block offset: its row and indices. -/
def Block.reg (b : Block) (o : Nat) : Option (RegRow × Nat × Nat) :=
  b.rows.findSome? (fun r => (r.hit o).map (fun ij => (r, ij.1, ij.2)))

/-- Bits of the fields of a row that a test picks. -/
def RegRow.mask (r : RegRow) (p : Fld → Bool) : Nat :=
  r.fields.foldl (fun m f => if p f then setBits m f.lo f.len (2 ^ f.len - 1) else m) 0

/-- The reset value of a register by kind (R10), from the registers' own reset values; `n` is the block's instance. -/
def regRst (k : RegKind) (n i j : Nat) : Nat :=
  match k with
  | .hubForgeStatus => (HUB_FORGE_STATUS i).rst
  | .hubSpareSts => HUB_SPARE_STS.rst
  | .hubVfBind => (HUB_VF_BIND i).rst
  | .hubBar4Base => HUB_BAR4_BASE.rst
  | .asyRisk => ASY_RISK.rst
  | .asyReplica => ASY_REPLICA.rst
  | .asyRiskW => (ASY_RISK_W i).rst
  | .asyWear => (ASY_WEAR i).rst
  | .asyWearCtl => ASY_WEAR_CTL.rst
  | .pwrCap => PWR_CAP.rst
  | .pwrGrant => (PWR_GRANT i).rst
  | .pwrSlack => PWR_SLACK.rst
  | .pwrDieSts => (PWR_DIE_STS i).rst
  | .tmpCtl => TMP_CTL.rst
  | .fabDir => (FAB_DIR i).rst
  | .fabPool => FAB_POOL.rst
  | .fabAckCtl => FAB_ACK_CTL.rst
  | .slcMap => SLC_MAP.rst
  | .slcMapNext => SLC_MAP_NEXT.rst
  | .slcCtl => SLC_CTL.rst
  | .fntPortCtl => (FNT_PORT_CTL n i).rst
  | .fntTxMap0 => (FNT_TX_MAP0 n i).rst
  | .fntTxMap1 => (FNT_TX_MAP1 n i).rst
  | .fntRxMap0 => (FNT_RX_MAP0 n i).rst
  | .fntRxMap1 => (FNT_RX_MAP1 n i).rst
  | .fntLaser => (FNT_LASER n i j).rst
  | .hbmStackSts => (HBM_STACK_STS n).rst
  | .hbmRebuild => (HBM_REBUILD n).rst
  | .hbmScrubCtl => (HBM_SCRUB_CTL n).rst
  | .bsnDieMap => (BSN_DIE_MAP n).rst
  | .bsnBatchCfg => (BSN_BATCH_CFG n i).rst
  | .bsnBatchSts => (BSN_BATCH_STS n i).rst
  | .bsnLossScale => (BSN_LOSS_SCALE n).rst
  | .bsnLossCtl => (BSN_LOSS_CTL n).rst
  | .bsnSideMax => (BSN_SIDE_MAX n).rst
  | .bsnWdog => (BSN_WDOG n).rst
  | .bsnWake => (BSN_WAKE n).rst
  | .fgeTemperSts => (FGE_TEMPER_STS n).rst
  | .fgeLadleCfg => (FGE_LADLE_CFG n).rst
  | _ => 0

/-- The basin of a BSN_ base, the die of an FGE_ base, the cluster key of a CLS_ base, the stack of an HBM_ base, and the
fountain die of an FNT_ base. -/
def instOf (b : Block) (base : Nat) : Nat :=
  match b with
  | .bsn => (base - 0x1000000) / 0x400000
  | .fge => (base - 0x2800000) / 0x80000
  | .cls => 4 * ((base - 0x2800000) / 0x80000) + ((base - 0x2800000) % 0x80000 / 0x10000 - 1)
  | .hbm => (base - 0x100000) / 0x10000
  | .fnt => (base - 0x80000) / 0x10000
  | _ => 0

/-- `a` where the mask `m` has ones, else `b`. -/
def overlay (m a b : Nat) : Nat := (a &&& m) ||| (b - (b &&& m))

/-- The bits of a register that keep their value through every reset but a loss of standby power (R11). -/
def RegRow.rws (r : RegRow) : Nat := r.mask (fun f => f.acc == .rws)

/-- The bits whose reset value comes from the configuration set. -/
def RegRow.cfg (r : RegRow) : Nat := r.mask (·.cfg)

/-- The bits of a register that the part record holds (R443): spare lines and rows, lost pseudo-channels and spare assignments, dies'
failure counts, lasers and lane maps. The role map is in the record as it stands at each moment (R485, log entry 134). -/
def RegRow.inPart (r : RegRow) : Nat :=
  match r.kind with
  | .hubForgeStatus | .fntTxMap0 | .fntTxMap1 | .fntRxMap0 | .fntRxMap1 | .fntLaser | .hbmLostMap | .clsSpareRows | .clsSpareCols
  | .clsCisternSts => r.cfg
  | .hbmStackSts => r.mask (fun f => f.cfg && f.lo != 3)
  | _ => 0

/-- The word of a register after the reset of its block, from the word before it: the bits that `keep` names and RWS bits stay, bits of
the part record are loaded from it, the rest takes its reset value `d` (R10, R11). -/
def Chip.resetWord (c : Chip) (key : Nat) (r : RegRow) (d keep w : Nat) : Nat :=
  overlay r.inPart (Map.get (BitVec.ofNat 64 d) c.part key).toNat (overlay (keep ||| r.rws) w d)

/-- One register of a block after the block's reset; none where it is at its reset value. -/
def Chip.resetEntry (c : Chip) (b : Block) (base : Nat) (keep : RegRow → Nat) (kv : Nat × Word) : Option (Nat × Word) :=
  match b.reg (kv.1 - base) with
  | none => none
  | some (r, i, j) =>
    let d := regRst r.kind (instOf b base) i j
    let v := c.resetWord kv.1 r d (keep r) kv.2.toNat
    if v = d then none else some (kv.1, BitVec.ofNat 64 v)

/-- Registers listed in the part record and not among the present ones, at zero beyond it: what a reset must load besides. -/
def Chip.partOnly (c : Chip) (lo hi : Nat) : Map Word :=
  c.part.filter (fun kv => decide (lo ≤ kv.1 ∧ kv.1 < hi) && (Map.find c.regs kv.1).isNone)

/-- The reset of a block: the bits that `keep` names and RWS fields stay, the rest takes its reset value, and a held snapshot
is released (R10, R11, R461). -/
def Chip.resetBlock (c : Chip) (b : Block) (base : Nat) (keep : RegRow → Nat) : Chip :=
  let size := if b = .hub then 0x20000 else 0x10000
  { c with
    regs := (c.partOnly base (base + size)).foldl (fun m kv => Map.set m kv.1 kv.2)
      (c.regs.filterMap (fun kv => if base ≤ kv.1 ∧ kv.1 < base + size then c.resetEntry b base keep kv else some kv)),
    images := c.images.filter (fun x => x.1 ≠ base) }

/-- All 64 bits, the mask of a register that is kept whole. -/
def allBits : Nat := 2 ^ 64 - 1

end Sys2Proof.Machine
end

