-- ==== Sys2Proof/Machine/Temper.lean ====
section
/-! DEFINITION. The temper unit (05 R136-R146; 04 R111, R121). -/
namespace Sys2Proof.Machine

/-! ### W40 arithmetic (R137): every operation of a formula rounds once to nearest even (log entry 30) -/

def w40 (c : Nat) : Val := decodeVal .w40 true c
def rw (v : Val) : Val := w40 (roundArith .w40 v)
def wadd (a b : Val) : Val := rw (a.add b)
def wsub (a b : Val) : Val := rw (a.sub b)
def wmul (a b : Val) : Val := rw (a.mul b)
def wdiv (a b : Val) : Val := rw (a.div b)
def wsqrt (a : Val) : Val := rw a.sqrt

def vOne : Val := .fin false 1 0
def vZero : Val := .fin false 0 0

/-- B^t: exact, rounded to FP64, then once to W40 (R138; log entry 30). -/
def powW40 (b : Val) (t : Nat) : Val :=
  let p : Val := match b with
    | .fin s m e => .fin (s && t % 2 == 1) (m ^ t) (e * t)
    | .inf s => if t = 0 then vOne else .inf (s && t % 2 == 1)
    | .nan => if t = 0 then vOne else .nan
  rw (decodeVal .fp64 true (roundArith .fp64 p))

def vSign (c : Val) : Val :=
  match c with
  | .nan => .nan
  | v => if v.isZero then vZero else .fin v.isNeg 1 0

/-- The parameters as the unit keeps them from the start of a command (R140): LR, B1, B2, EPS, WD, GSCALE, 1 − B1, 1 − B2,
1 − B1^t, 1 − B2^t. -/
def temperParams (block : Nat) (t : Nat) : List Nat :=
  let f (i : Nat) : Val := rw (fp32 (bits block (32 * i) 32))
  let b1 := f 1
  let b2 := f 2
  ([f 0, b1, b2, f 3, f 4, f 5, wsub vOne b1, wsub vOne b2, wsub vOne (powW40 (fp32 (bits block 32 32)) t),
    wsub vOne (powW40 (fp32 (bits block 64 32)) t)]).map (roundArith .w40)

/-- One parameter under programs 0-5 (R138): master, gradient and moments give the new master and moments. -/
def temperUpd (prog : Nat) (prm : List Nat) (w g m v : Val) : Val × Val × Val :=
  let p (i : Nat) : Val := w40 (prm.getD i 0)
  let (lr, b1, b2, eps, wd) := (p 0, p 1, p 2, p 3, p 4)
  match prog with
  | 0 => (wsub w (wmul lr (wadd g (wmul wd w))), m, v)
  | 1 =>
    let m := wadd (wmul b1 m) g
    (wsub w (wmul lr (wadd m (wmul wd w))), m, v)
  | 2 =>
    let m := wadd (wmul b1 m) g
    (wsub w (wmul lr (wadd (wadd g (wmul b1 m)) (wmul wd w))), m, v)
  | 5 =>
    let c := wadd (wmul b1 m) (wmul (p 6) g)
    (wsub w (wmul lr (wadd (vSign c) (wmul wd w))), wadd (wmul b2 m) (wmul (p 7) g), v)
  | _ =>
    let g1 := if prog = 4 then g else wadd g (wmul wd w)
    let m := wadd (wmul b1 m) (wmul (p 6) g1)
    let v := wadd (wmul b2 v) (wmul (p 7) (wmul g1 g1))
    let x := wsub w (wdiv (wmul lr (wdiv m (p 8))) (wadd (wsqrt (wdiv v (p 9))) eps))
    (if prog = 4 then wsub x (wmul (wmul lr wd) w) else x, m, v)

/-! ### Descriptor fields (R139) -/

def tdProg (d : Nat) : Nat := bits d 0 5
def tdMom (d : Nat) : Option Fmt := [none, some .fp32, some .bf16, some .w40].getD (bits d 5 2) none
def tdGrad (d : Nat) : Fmt := [Fmt.fp32, .bf16, .fp16, .w40].getD (bits d 7 2) .fp32
def tdForm (d : Nat) : Bool := bit d 9
def tdCount (d : Nat) : Nat := bits d 16 40
def tdRow (d : Nat) : Nat := if tdForm d then bits d 416 16 else 1

/-- Moments that a program uses. -/
def tdMoms (prog : Nat) : Nat :=
  match prog with
  | 0 => 0 | 1 => 1 | 2 => 1 | 3 => 2 | 4 => 2 | 5 => 1 | 6 => 1 | _ => 2

def Fmt.bytes (f : Fmt) : Nat := f.width / 8

/-- Whether a byte range lies in the basin's own HBM or cisterns; an empty range does. -/
def Chip.ownRange (c : Chip) (b a n : Nat) : Bool := n == 0 || (c.reach b a n true).isSome

/-- The working tags of a command: BF16, FP16, E4M3 or E5M2, none in MX layout (R121, R139). -/
def Chip.workTags (c : Chip) (b : Nat) (e : ECmd) (d : Nat) : Option (List (Tag × Tally)) :=
  (List.range (bits d 10 2)).mapM (fun i =>
    let n := bits d (384 + 16 * i) 16
    let off := e.tbase + 128 * n
    if off + 128 > cisSize then none
    else match c.tagAt e.tkc b off n with
      | some t =>
        if !t.mx && (t.fmt == .bf16 || t.fmt == .fp16 || t.fmt == .e4m3 || t.fmt == .e5m2) then some (t, ({} : Tally)) else none
      | none => none)

/-- Whether a command's descriptor is accepted (R139). -/
def Chip.temperOk (c : Chip) (n b d : Nat) (ws : List (Tag × Tally)) : Bool :=
  let prog := tdProg d
  let cnt := tdCount d
  let per := if tdForm d then 1 else cnt
  let ms := match tdMom d with
    | some f => f.bytes
    | none => 0
  (decide (prog ≤ 6) || (decide (prog ≥ 16) && bit (c.get (FGE_TEMPER_STS.UCODE_SLOTS n)) (prog - 16)))
  && (prog != 6 || tdForm d) && bits d 10 2 != 3 && tdRow d != 0 && (tdMoms prog == 0 || prog ≥ 16 || (tdMom d).isSome)
  && c.ownRange b (bits d 64 48) (5 * per) && c.ownRange b (bits d 128 48) ((tdGrad d).bytes * cnt * tdRow d)
  && (tdMoms prog < 1 || ms == 0 || c.ownRange b (bits d 192 48) (ms * per))
  && (tdMoms prog < 2 || ms == 0 || c.ownRange b (bits d 256 48) (ms * per)) && c.ownRange b (bits d 320 48) 32
  && (!tdForm d || c.ownRange b (bits d 448 48) (8 * cnt))
  && ws.all (fun w => c.ownRange b w.1.base (if tdForm d then 1 else w.1.fmt.bytes * cnt))

/-! ### Ends of commands (R136) -/

/-- The 16-byte completion record and the latch of an engine command. -/
def Chip.engineEnd (c : Chip) (b : Nat) (e : ECmd) (status done word1 : Nat) : Chip :=
  let w := status + 2 ^ 8 * (done % 2 ^ 40) + 2 ^ 64 * (word1 % 2 ^ 64)
  let c := match c.reach b e.comp 16 true with
    | some p => if inLatches p 16 then c else c.wrn p 16 w
    | none => c
  let c := match e.sig with
    | some (l, a) => c.latchApply b l false a
    | none => c
  match e.src with
  | .pkt b q i => c.pktDone b q i
  | _ => c

/-- STATE and COVER_SLOT of a temper unit that has not failed (R146). -/
def Chip.temperState (c : Chip) (n : Nat) : Chip :=
  let x := c.tu n
  if c.get (FGE_TEMPER_STS.STATE n) = 2 then c
  else (c.put (FGE_TEMPER_STS.COVER_SLOT n) ((x.covers.head?.map c.dieSlot).getD 7)).put (FGE_TEMPER_STS.STATE n) (if x.covers ≠ [] then 3 else if x.run.isSome then 1 else 0)

/-- A temper command ends: its working tags' records are folded (R90), the record is written, the latch is signalled. -/
def Chip.temperEnd (c : Chip) (n : Nat) (e : ECmd) (works : List (Tag × Tally)) (status done nfg : Nat) : Chip :=
  let b := c.dieBasin n
  let c := c.setTu n { c.tu n with run := none }
  let c := works.foldl (fun c w =>
    let c := c.tagUse e.tkc w.1.off
    let c := c.foldTag e.tkc b w.1.off w.2 false e.stamp
    if w.2.nonfinite > 0 then c.taint b e.stamp else c) c
  let c := if nfg > 0 then c.put (FGE_TEMPER_STS.NFG_SEEN n) 1 else c
  ((c.put (FGE_TEMPER_STS.LAST_STATUS n) status).temperState n).engineEnd b e status done nfg

/-! ### Start, chunks, completion -/

/-- How a step stands for an engine command (R111): it waits, or its resolution. -/
inductive StepRes where
  | wait
  | refused
  | skipped
  | run (t : Nat) (e : Int)
  deriving DecidableEq, Repr

def Chip.stepRes (c : Chip) (b : Nat) (e : ECmd) : StepRes :=
  let st := c.step b
  let opn := if c.get (BSN_AGREE_STS.STATE b) = 0 then st else st - 1
  if e.late then .refused
  else if e.stamp ≥ opn ∨ c.copyHold b e.stamp then .wait
  else match (c.bs b).resolved.find? (fun r => r.step = e.stamp) with
    | some r => if r.committed then .run r.t r.e else .skipped
    | none => .refused

/-- The FIFOs a unit serves, from the one whose turn it is: its own and those it covers (R143). -/
def TemperU.order (x : TemperU) (n : Nat) : List Nat :=
  let l := n :: x.covers
  let k := x.turn % l.length
  l.drop k ++ l.take k

/-- TEMPER_CMD_START (R111, R139-R141, R143, R144) at die `n`. -/
def temperCmdStart (n : Nat) (c : Chip) : Chip :=
  let x := c.tu n
  let b := c.dieBasin n
  if c.get (FGE_TEMPER_STS.STATE n) = 2 ∨ x.run.isSome ∨ b > 5 ∨ (c.bs b).quenched then c
  else match x.resume with
    | r :: rest => (c.setTu n { x with resume := rest, run := some r, turn := x.turn + 1 }).temperState n
    | [] =>
      match (x.order n).find? (fun o => !(c.tu o).q.isEmpty) with
      | none => c
      | some o =>
        match (c.tu o).q with
        | [] => c
        | e :: rest =>
          let pop (c : Chip) : Chip :=
            let c := c.setTu o { c.tu o with q := rest }
            let c := ((c.put (FGE_TEMPER_STS.QDEPTH o) rest.length).put (FGE_TEMPER_STS.WAITING o) 0)
            c.setTu n { c.tu n with turn := (c.tu n).turn + 1 }
          let stop (st : Nat) : Chip := (pop c).temperEnd n e [] st 0 0
          if e.side then stop 2
          else match c.reach b e.desc 64 true with
            | none => stop 2
            | some pl =>
              let d := c.rdn pl 64
              match c.workTags b e d with
              | none => stop 2
              | some ws =>
                if !c.temperOk n b d ws then stop 2
                else match c.stepRes b e with
                  | .wait => c.put (FGE_TEMPER_STS.WAITING o) 1
                  | .refused => stop 2
                  | .skipped => stop 1
                  | .run t ex =>
                    let prm := match c.reach b (bits d 320 48) 32 true with
                      | some p => temperParams (c.rdn p 32) t
                      | none => []
                    let idx := if tdForm d then (List.range (tdCount d)).map (fun i =>
                        match c.reach b (bits d 448 48 + 8 * i) 8 true with
                        | some p => c.rdn p 8
                        | none => 0) else []
                    if !decide idx.Nodup then stop 4
                    else
                      let r : TRun :=
                        { cmd := e, own := o, d := d, prm := prm, e := ex, idx := idx, works := ws, chunk := e.skipTo }
                      let c := pop c
                      let c := c.setTu n { c.tu n with run := some r }
                      let seed : Seed := .repro (c.get (BSN_GEN_SEED.SEED b)) (e.stamp % 2 ^ 64) e.kid
                      let c := if c.on (BSN_GEN_CTL.MODE b) then c.setTu o { c.tu o with gen := { seed := seed } } else c
                      c.temperState n

/-- The pieces of chunk `k`: element of the arrays, element of the gradients, and their number. -/
def TRun.pieces (r : TRun) (k : Nat) : List (Nat × Nat × Nat) :=
  if tdForm r.d then
    ((List.range 16).filterMap (fun j =>
      match r.idx[16 * k + j]? with
      | some x => some (x * tdRow r.d, (16 * k + j) * tdRow r.d, tdRow r.d)
      | none => none))
  else [(4096 * k, 4096 * k, min 4096 (tdCount r.d - 4096 * k))]

def TRun.chunks (r : TRun) : Nat := if tdForm r.d then ceilDiv (tdCount r.d) 16 else ceilDiv (tdCount r.d) 4096

/-- The place of array elements: in FORM 1 in the basin's own HBM (R144); no poison under it (R248). -/
def Chip.arrPlace (c : Chip) (b a n : Nat) (form write : Bool) : Option Place :=
  match c.reach b a n true with
  | some (.hbm k) => if c.poisoned k n then none else some (.hbm k)
  | some (.cis kc off) => if form || (write && inLatches (.cis kc off) n) then none else some (.cis kc off)
  | none => none

/-- Codes of `n` elements of `w` bytes at a place. -/
def Chip.codes (c : Chip) (p : Place) (w n : Nat) : List Nat :=
  let v := c.rdn p (w * n)
  (List.range n).map (fun i => bits v (8 * w * i) (8 * w))

/-- Bytes of a list of codes of `w` bytes. -/
def codeBytes (w : Nat) (xs : List Nat) : List Byte := xs.flatMap (leBytes w)

/-- One parameter's outcome: master, moments, and whether it changed. -/
def TRun.elem (r : TRun) (ver w g m v : Nat) : Nat × Nat × Nat × Bool :=
  let gf := tdGrad r.d
  let mf := (tdMom r.d).getD .w40
  let gv := decodeVal gf true g
  if !gv.isFin then (w, m, v, false)
  else if tdProg r.d ≥ 16 then
    let o := Config.customTemper (tdProg r.d + 256 * ver) ([w, roundArith .w40 (gv.scale (-r.e)), m, v] ++ r.prm)
    (o.getD 0 0 % 2 ^ 40, roundArith mf (w40 (o.getD 1 0 % 2 ^ 40)), roundArith mf (w40 (o.getD 2 0 % 2 ^ 40)), true)
  else
    let gs := wmul (rw (gv.scale (-r.e))) (w40 (r.prm.getD 5 0))
    let (w2, m2, v2) := temperUpd (tdProg r.d) r.prm (w40 w) gs (decodeVal mf true m) (decodeVal mf true v)
    (roundArith .w40 w2, roundArith mf m2, roundArith mf v2, true)

/-- One row under Row Adagrad (R138): masters and gradients of the row and v_row. A row with a non-finite gradient is left as
it is (log entry 32). -/
def TRun.rowAda (r : TRun) (ws gs : List Nat) (v : Nat) : List Nat × Nat × Bool :=
  let mf := (tdMom r.d).getD .w40
  let gv := gs.map (fun g => decodeVal (tdGrad r.d) true g)
  if !gv.all (·.isFin) then (ws, v, false)
  else
    let g := gv.map (fun x => wmul (rw (x.scale (-r.e))) (w40 (r.prm.getD 5 0)))
    let sum := g.foldl (fun a x => wadd a (wmul x x)) vZero
    let v2 := wadd (decodeVal mf true v) (wdiv sum (.fin false gs.length 0))
    let den := wadd (wsqrt v2) (w40 (r.prm.getD 3 0))
    (List.zipWith (fun w x => roundArith .w40 (wsub (w40 w) (wdiv (wmul (w40 (r.prm.getD 0 0)) x) den))) ws g,
     roundArith mf v2, true)

/-- One working copy of a piece (R121, R142): elements that changed are converted, each on lane (element mod 256). -/
def workCopy (slot : Nat) (t : Tag) (go : Nat) (xs : List (Nat × Bool)) (old : List Nat) (g : GenBank) (tl : Tally) :
    List Nat × GenBank × Tally :=
  let env : ConvEnv := { fmt := t.fmt, signed := true, ovf := t.ovf, stoch := t.stoch, base := tempBase slot }
  let live := xs.zipIdx.filterMap (fun x => if x.1.2 then some (go + x.2, (go + x.2) % 256, w40 x.1.1) else none)
  let (cs, g, tl) := convElems env live g tl []
  let out := (xs.zip old).foldl (fun (s : List Nat × List Nat) x =>
    if x.1.2 then (match s.2 with
      | v :: rest => (s.1 ++ [v], rest)
      | [] => (s.1 ++ [x.2], []))
    else (s.1 ++ [x.2], s.2)) ([], cs)
  (out.1, g, tl)

/-- One piece of a chunk: none on an address fault or poison. -/
def Chip.temperPiece (c : Chip) (b : Nat) (r : TRun) (mo go n : Nat) : Option (Chip × TRun) :=
  let d := r.d
  let form := tdForm d
  let gw := (tdGrad d).bytes
  let nm := if (tdMom d).isSome then tdMoms (tdProg d) else 0
  let mw := ((tdMom d).getD .w40).bytes
  let ada := tdProg d == 6
  let mn := if ada then 1 else n
  match c.arrPlace b (bits d 64 48 + 5 * mo) (5 * n) form true, c.arrPlace b (bits d 128 48 + gw * go) (gw * n) form false with
  | some pm, some pg =>
    let m1 := if nm ≥ 1 then (c.arrPlace b (bits d 192 48 + mw * mo) (mw * mn) form true).map some else some none
    let m2 := if nm ≥ 2 then (c.arrPlace b (bits d 256 48 + mw * mo) (mw * mn) form true).map some else some none
    let ps := r.works.mapM (fun w => c.arrPlace b (w.1.base + w.1.fmt.bytes * mo) (w.1.fmt.bytes * n) false true)
    match m1, m2, ps with
    | some p1, some p2, some ps =>
        let ws := c.codes pm 5 n
        let gs := c.codes pg gw n
        let rd (p : Option Place) : List Nat := match p with
          | some p => c.codes p mw mn
          | none => List.replicate mn 0
        let (a1, a2) := (rd p1, rd p2)
        let res : List (Nat × Nat × Nat × Bool) :=
          if ada then
            (let (w2, v2, ok) := r.rowAda ws gs (a1.getD 0 0)
            w2.map (fun w => (w, v2, 0, ok)))
          else List.zipWith (fun (x : Nat × Nat) (y : Nat × Nat) => r.elem (c.get (FGE_TEMPER_STS.UCODE_VER n)) x.1 x.2 y.1 y.2) (ws.zip gs) (a1.zip a2)
        let nfg := (gs.filter (fun g => !(decodeVal (tdGrad d) true g).isFin)).length
        let c := c.wr pm (codeBytes 5 (res.map (·.1)))
        let put (c : Chip) (p : Option Place) (xs : List Nat) : Chip := match p with
          | some p => c.wr p (codeBytes mw (xs.take mn))
          | none => c
        let c := put (put c p1 (res.map (·.2.1))) p2 (res.map (·.2.2.1))
        let (c, works) := (r.works.zip ps).foldl (fun (s : Chip × List (Tag × Tally)) w =>
          let t := w.1.1
          let old := s.1.codes w.2 t.fmt.bytes n
          let bank := (s.1.tu r.own).gen
          let (cs, g, tl) := workCopy (s.1.dieSlot r.own) t go (res.map (fun x => (x.1, x.2.2.2))) old bank w.1.2
          let c := (s.1.wr w.2 (codeBytes t.fmt.bytes cs))
          (c.setTu r.own { c.tu r.own with gen := g }, s.2 ++ [(t, tl)])) (c, [])
        some (c, { r with works := works, done := r.done + n, nfg := r.nfg + nfg })
    | _, _, _ => none
  | _, _ => none

/-- TEMPER_CHUNK_POSTED (R92, R137, R138, R142-R144) at die `n`: one chunk is computed, checked and posted. A working copy that takes a NaN
in the chunk is one NaN event (log entry 25). -/
def temperChunkPosted (n : Nat) (c : Chip) : Chip :=
  match (c.tu n).run with
  | none => c
  | some r =>
    let b := c.dieBasin n
    if c.get (FGE_TEMPER_STS.STATE n) = 2 ∨ r.chunk ≥ r.chunks ∨ b > 5 then c
    else
      let res := (r.pieces r.chunk).foldl (fun (s : Option (Chip × TRun)) p =>
        match s with
        | some (c, r) => c.temperPiece b r p.1 p.2.1 p.2.2
        | none => none) (some (c, r))
      match res with
      | some (c, r) =>
        let nans := (r.works.filter (fun w => w.2.trap.isSome)).map (·.1.idx)
        let works := r.works.map (fun w => (w.1, { w.2 with trap := none }))
        nans.foldl (fun c t => c.engNan n r.cmd t) (c.setTu n { c.tu n with run := some { r with chunk := r.chunk + 1, works := works } })
      | none => c.temperEnd n r.cmd r.works 4 r.done r.nfg

/-- TEMPER_CMD_COMPLETE (R136): every chunk is posted. -/
def temperCmdComplete (n : Nat) (c : Chip) : Chip :=
  match (c.tu n).run with
  | none => c
  | some r =>
    if c.get (FGE_TEMPER_STS.STATE n) = 2 ∨ r.chunk < r.chunks then c
    else c.temperEnd n r.cmd r.works 0 r.done r.nfg

/-- The first unit after slot `s` of basin `b` that has not failed (R143). -/
def Chip.nextTemper (c : Chip) (b s : Nat) : Option Nat :=
  let k := c.get (BSN_DIE_MAP.SLOTS b)
  ((List.range (k - 1)).map (fun i => c.slotDie b ((s + 1 + i) % k))).find? (fun d =>
    d < 26 && c.get (FGE_TEMPER_STS.STATE d) != 2)

/-- TEMPER_FAULT (R143): the unit of die `n` fails, and the next slot's unit takes over its FIFO and its running command. -/
def temperFault (n : Nat) (c : Chip) : Chip :=
  let b := c.dieBasin n
  if c.get (FGE_TEMPER_STS.STATE n) = 2 ∨ b > 5 then c
  else
    let x := c.tu n
    let c := (c.put (FGE_TEMPER_STS.STATE n) 2).put (FGE_TEMPER_STS.COVER_SLOT n) 7
    match c.nextTemper b (c.dieSlot n) with
    | none => c
    | some m =>
      let moved := (match x.run with
        | some r => [r]
        | none => []) ++ x.resume
      let y := c.tu m
      let c := c.setTu n { x with run := none, resume := [], covers := [] }
      let c := c.setTu m { y with covers := y.covers ++ (n :: x.covers), resume := y.resume ++ moved }
      c.temperState m

end Sys2Proof.Machine
end

