-- ==== Sys2Proof/Machine/Ladle.lean ====
section
/-! DEFINITION. The ladle (05 R147-R159). -/
namespace Sys2Proof.Machine

/-! ### Tables (R147-R149) -/

def ltRowBytes (t : Nat) : Nat := 8 * (bits t 0 9 + 1)
def ltFmt (t : Nat) : Nat := bits t 9 3

/-- The element format of a table; none is the reserved code. -/
def ltElem (t : Nat) : Option Fmt :=
  [some .fp32, some .bf16, some .fp16, some .e4m3, some .e5m2, some .int8, some .w40, none].getD (ltFmt t) none

/-- Bytes of a row with its trailer, the stride, and the elements of a row. -/
def ltLen (t : Nat) : Nat := ltRowBytes t + (if ltFmt t = 5 then 8 else 0)
def ltStride (t : Nat) : Nat := ceilDiv (ltLen t) 64 * 64
def ltE (t : Nat) : Nat := ltRowBytes t / ((ltElem t).getD .fp32).bytes

/-- Where a row lies (R148): a bad index, an address in this package, another package, or a shard list that cannot be read. -/
inductive RowLoc where
  | bad
  | hot (addr : Nat)
  | here (addr : Nat)
  | there (coord addr : Nat)
  | fault

def Chip.rowLoc (c : Chip) (b t x : Nat) : RowLoc :=
  let st := ltStride t
  let (shards, rows, rps, mode) := (bits t 16 18, bits t 64 48, bits t 192 48, bits t 13 2)
  if x ≥ rows then .bad
  else if x < bits t 256 48 then .hot (bits t 320 48 + x * st)
  else
    let (s, r) := if mode = 0 then (0, x) else if mode = 1 then (x / rps, x % rps) else (x % shards, x / shards)
    if s ≥ shards ∨ (mode = 1 ∧ rps = 0) then .bad
    else match c.reach b (bits t 128 48 + 8 * s) 8 true with
      | none => .fault
      | some p =>
        let e := c.rdn p 8
        let coord := c.dest (bits e 0 18)
        let addr := bits e 24 40 * 256 + r * st
        if coord = c.coord then .here addr else .there coord addr

/-- One element of a row widened to FP32 (R149). -/
def elemUp (t : Nat) (row : List Byte) (j : Nat) : Nat :=
  let f := (ltElem t).getD .fp32
  let code := leNat ((row.drop (f.bytes * j)).take f.bytes)
  if f = .int8 then
    let tr := row.drop (ltRowBytes t)
    toFp32 ((decodeVal .int8 (bit t 12) code).fma (fp32 (leNat (tr.take 4))) (fp32 (leNat ((tr.drop 4).take 4))))
  else toFp32 (decodeVal f true code)

/-! ### Command fields (R150) -/

def ldOp (d : Nat) : Nat := bits d 0 2
def ldPool (d : Nat) : Nat := bits d 2 2
def ldN (d : Nat) : Nat := bits d 16 17
def ldBags (d : Nat) : Nat := bits d 33 17
def ldOut (d : Nat) : Option Fmt := [some .fp32, some .bf16, some .fp16, none].getD (bits d 7 2) none
def ldAcc (d : Nat) : Fmt := if bit d 4 then .w40 else .fp32

/-- Whether a ladle command is accepted (R150, R151, R153-R155). -/
def ladleOk (d t : Nat) (side : Bool) : Bool :=
  ldOp d != 3 && (ltElem t).isSome && bits t 13 2 != 3 && (ldOut d).isSome
  && decide (1 ≤ ldN d ∧ ldN d ≤ 65536) && decide (1 ≤ ldBags d ∧ ldBags d ≤ 65536)
  && (ldOp d == 0 || ltFmt t == 0 || ltFmt t == 6)
  && !(bit d 5 && decide (ltStride t > 512)) && !(ldOp d == 0 && ldPool d == 0 && ldBags d != ldN d)
  && !(ldOp d == 2 && (bits t 256 48 != 0 || side))

/-- `n` little-endian words of `w` bytes in the basin's own windows; none on an address fault or poison. -/
def Chip.ownWords (c : Chip) (b a w n : Nat) : Option (List Nat) :=
  match c.reach b a (w * n) true with
  | some (.hbm k) => if c.poisoned k (w * n) then none else some (c.codes (.hbm k) w n)
  | some p => some (c.codes p w n)
  | none => none

/-- The table indices of a command, and its weights (FP32 codes). -/
def Chip.ldIdx (c : Chip) (b d : Nat) : Option (List Nat) := c.ownWords b (bits d 128 48) 8 (ldN d)
def Chip.ldWts (c : Chip) (b d : Nat) : Option (List Nat) :=
  if bits d 256 48 = 0 then some (List.replicate (ldN d) 0x3F800000) else c.ownWords b (bits d 256 48) 4 (ldN d)

/-- A list without its repeats, in first order. -/
def distinct (xs : List Nat) : List Nat := xs.foldl (fun a x => if a.contains x then a else a ++ [x]) []

/-! ### Requests -/

/-- The row states of a running command, and the requests in flight (R153). -/
def LRun.flight (r : LRun) : Nat := (r.rows.filter (fun e => match e.2 with
  | .wait _ => true
  | _ => false)).length

/-- The requests allowed in flight (R158). -/
def Chip.ladleMax (c : Chip) (n : Nat) : Nat :=
  let v := c.get (FGE_LADLE_CFG.OUTSTANDING n)
  if v = 0 then 1024 else v

/-- One distinct row is asked for: a local row is read at once, a remote one by GET (R148, R153). -/
def Chip.askRow (c : Chip) (n b : Nat) (r : LRun) (x : Nat) : Chip × LRun :=
  let len := ltLen r.tbl
  let put (v : RowSt) : LRun := { r with rows := r.rows.set x v }
  let near (a : Nat) (own : Bool) : Chip × LRun := match c.reach b a len own with
    | some (.hbm k) => if c.poisoned k len then (c, { r with fault := true }) else (c, put (.got (c.mem.reads k len)))
    | some p => (c, put (.got (c.rd p len)))
    | none => (c, { r with fault := true })
  match c.rowLoc b r.tbl x with
  | .bad => (c, put .bad)
  | .fault => (c, { r with fault := true })
  | .hot a => near a true
  | .here a => near a false
  | .there coord a =>
    let id := c.nextId
    let q : SendReq :=
      { b := b, src := .ladle n r.cmd.id x, side := r.cmd.side, stamp := r.cmd.stamp, kind := .get, opc := 1,
        run := if bit r.d 5 then 0 else 1, coord := coord, dbasin := a >>> 38, addr := a, get := some (0, len) }
    if c.mayReach b (c.dest coord) then (c.send q, put (.wait id)) else (c, { r with fault := true })

/-- Rows asked for in index order while the limit allows (R152, R153). -/
def Chip.askRows (c : Chip) (n b lim : Nat) : List Nat → LRun → Chip × LRun
  | [], r => (c, r)
  | x :: t, r =>
    if (r.rows.find x).isSome then Chip.askRows c n b lim t r
    else if r.flight ≥ lim ∨ r.fault then (c, r)
    else
      let (c, r) := c.askRow n b r x
      Chip.askRows c n b lim t r

/-- The two runs of a ladle. -/
def LadleU.run (x : LadleU) (upd : Bool) : Option LRun := if upd then x.runU else x.runG
def LadleU.setRun (x : LadleU) (upd : Bool) (r : Option LRun) : LadleU := if upd then { x with runU := r } else { x with runG := r }

/-- BUSY and INFLIGHT of FGE_LADLE_STS (R159). -/
def Chip.ladleSts (c : Chip) (n : Nat) : Chip :=
  let x := c.lu n
  let f (r : Option LRun) : Nat := match r with
    | some r => r.flight
    | none => 0
  (c.put (FGE_LADLE_STS.BUSY n) (b2n (x.runG.isSome || x.runU.isSome))).put (FGE_LADLE_STS.INFLIGHT n) (f x.runG + f x.runU)

/-- A run goes on: more rows are asked for. -/
def Chip.ladleMore (c : Chip) (n b : Nat) (upd : Bool) (r : LRun) : Chip :=
  let xs := if ldOp r.d = 0 then (c.ldIdx b r.d).getD [] else []
  let (c, r) := c.askRows n b r.lim xs r
  (c.setLu n ((c.lu n).setRun upd (some r))).ladleSts n

/-- A ladle command ends. -/
def Chip.ladleEnd (c : Chip) (n : Nat) (upd : Bool) (e : ECmd) (status done word1 : Nat) : Chip :=
  let b := c.dieBasin n
  let c := (c.setLu n ((c.lu n).setRun upd none)).ladleSts n
  let c := { c with ops := c.ops.filter (fun o => match o.src with
    | .ladle m id _ => !(m == n && id == e.id)
    | _ => true) }
  (c.put (FGE_LADLE_STS.LAST_STATUS n) status).engineEnd b e status done word1

/-! ### Scatter-add (R154) -/

/-- FP32 code of a gradient element: row `i`, element `j`. -/
def Chip.gradRow (c : Chip) (b d t i : Nat) : Option (List Nat) :=
  let f := (ldOut d).getD .fp32
  match c.ownWords b (bits d 320 48 + i * ltE t * f.bytes) f.bytes (ltE t) with
  | some xs => some (xs.map (fun x => toFp32 (decodeVal f true x)))
  | none => none

/-- The merged row of index `x`: the sum of weight × gradient in ACC, in index order, times SCALE and 2^−e. -/
def Chip.mergeRow (c : Chip) (b d t : Nat) (e : Int) (pos : List (Nat × Nat)) : Option (List Val) :=
  let acc := ldAcc d
  let rnd (v : Val) : Val := decodeVal acc true (roundArith acc v)
  let sum := pos.foldl (fun (s : Option (List Val)) p =>
    match s, c.gradRow b d t p.1 with
    | some s, some g => some (List.zipWith (fun a x => rnd ((fp32 p.2).fma (fp32 x) a)) s g)
    | _, _ => none) (some (List.replicate (ltE t) vZero))
  sum.map (fun s => s.map (fun v => rnd ((rnd (v.mul (fp32 (bits d 384 32)))).scale (-e))))

/-- Insertion of an index in rising order. -/
def sortNat (xs : List Nat) : List Nat := xs.foldl insNat []

/-- The REDUCE-PUTs of a scatter-add; none on an address fault. -/
def Chip.scatter (c : Chip) (n b : Nat) (r : LRun) (idx wts : List Nat) : Option (Chip × LRun) :=
  let d := r.d
  let t := r.tbl
  let f := (ltElem t).getD .fp32
  (sortNat idx).foldl (fun (s : Option (Chip × LRun)) x =>
    match s with
    | none => none
    | some (c, r) =>
      let pos := (idx.zip wts).zipIdx.filterMap (fun p => if p.1.1 = x then some (p.2, p.1.2) else none)
      let send (coord a : Nat) (row : List Val) : Chip × LRun :=
        let q : SendReq :=
          { b := b, src := .ladle n r.cmd.id x, side := r.cmd.side, stamp := r.cmd.stamp, kind := .rput, opc := 5,
            run := if ldOp d = 1 then 2 else 1, rfmt := if f = .w40 then 1 else 0, coord := coord, dbasin := a >>> 38,
            addr := a, payload := codeBytes f.bytes (row.map (roundArith f)) }
        (c.send q, { r with rows := r.rows.set x (.got []) })
      match c.rowLoc b t x with
      | .bad => some (c, { r with rows := r.rows.set x .bad })
      | .fault => none
      | loc =>
        match c.mergeRow b d t r.e pos with
        | none => none
        | some row =>
          match loc with
          | .hot _ =>
            let a := bits t 384 48 + x * ltStride t
            (match c.reach b a (4 * ltE t) true with
            | some p =>
              if c.poisonAt p (4 * ltE t) then none else
              let old := c.codes p 4 (ltE t)
              let new := List.zipWith (fun o v => toFp32 ((fp32 o).add (fp32 (toFp32 v)))) old row
              some (c.wr p (codeBytes 4 new), { r with rows := r.rows.set x (.got []) })
            | none => none)
          | .here a => some (send c.coord a row)
          | .there coord a => if c.mayReach b (c.dest coord) then some (send coord a row) else none
          | _ => none) (some (c, r))

/-! ### Start, row timeouts, completion -/

/-- LADLE_CMD_START (R111, R148-R155) at die `n`; `upd` the update FIFO. -/
def ladleCmdStart (n : Nat) (upd : Bool) (c : Chip) : Chip :=
  let x := c.lu n
  let b := c.dieBasin n
  if (x.run upd).isSome ∨ b > 5 ∨ (c.bs b).quenched then c
  else match (if upd then x.u else x.g) with
    | [] => c
    | e :: rest =>
      let pop (c : Chip) : Chip :=
        if upd then ((c.setLu n { c.lu n with u := rest }).put (FGE_LADLE_STS.QDEPTH_U n) rest.length).put (FGE_LADLE_STS.WAITING_U n) 0
        else (c.setLu n { c.lu n with g := rest }).put (FGE_LADLE_STS.QDEPTH_G n) rest.length
      let stop (st : Nat) : Chip := (pop c).ladleEnd n upd e st 0 0
      match c.reach b e.desc 64 true with
      | none => stop 2
      | some pl =>
        let d := c.rdn pl 64
        match c.reach b (bits d 64 48) 64 true with
        | none => stop 2
        | some pt =>
          let t := c.rdn pt 64
          if !ladleOk d t e.side then stop 2
          else
            let go (ex : Int) : Chip :=
              let r : LRun := { cmd := e, d := d, tbl := t, e := ex, rows := [], lim := c.ladleMax n }
              let c := (pop c).setLu n (((pop c).lu n).setRun upd (some r))
              match c.ldIdx b d, c.ldWts b d with
              | some idx, some wts =>
                if ldOp d = 0 then c.ladleMore n b upd r
                else (match c.scatter n b r idx wts with
                  | some (c, r) => (c.setLu n ((c.lu n).setRun upd (some r))).ladleSts n
                  | none => (c.setLu n ((c.lu n).setRun upd (some { r with fault := true }))).ladleSts n)
              | _, _ => (c.setLu n ((c.lu n).setRun upd (some { r with fault := true }))).ladleSts n
            if ldOp d = 2 then
              (match c.stepRes b e with
              | .wait => c.put (FGE_LADLE_STS.WAITING_U n) 1
              | .refused => stop 2
              | .skipped => stop 1
              | .run _ ex => go ex)
            else go 0

/-- The ladle run that waits for an operation's row. -/
def Chip.ladleOf (c : Chip) (n id : Nat) : Option (Bool × LRun) :=
  let x := c.lu n
  match x.runG with
  | some r => if r.cmd.id = id then some (false, r) else (match x.runU with
    | some r => if r.cmd.id = id then some (true, r) else none
    | none => none)
  | none => match x.runU with
    | some r => if r.cmd.id = id then some (true, r) else none
    | none => none

/-- A remote row has come, or has failed (R153). -/
def Chip.ladleRow (c : Chip) (n id x : Nat) (data : Option (List Byte)) : Chip :=
  match c.ladleOf n id with
  | none => c
  | some (upd, r) =>
    let v : RowSt := match data with
      | some bs => .got bs
      | none => .failed
    let c := if data.isNone then c.put (FGE_LADLE_STS.RFAIL_SEEN n) 1 else c
    c.ladleMore n (c.dieBasin n) upd { r with rows := r.rows.set x v }

/-- LADLE_ROW_TIMEOUT (R153): the GET `op` has not returned within TIMEOUT. -/
def ladleRowTimeout (op : Nat) (c : Chip) : Chip :=
  match c.ops.find? (fun o => o.id = op) with
  | none => c
  | some o =>
    match o.src, o.kind with
    | .ladle n id x, .get => ({ c with ops := c.ops.filter (fun y => y.id ≠ op) }).ladleRow n id x none
    | _, _ => c

/-- The pooled elements of one bag (R151): positions with their rows, weights; the count that contributed. -/
def poolBag (d t : Nat) (rows : List (List Byte × Nat)) : List Val :=
  let acc := ldAcc d
  let rnd (v : Val) : Val := decodeVal acc true (roundArith acc v)
  (List.range (ltE t)).map (fun j =>
    let xs := rows.map (fun r => (fp32 (elemUp t r.1 j), fp32 r.2))
    match ldPool d with
    | 0 => (match xs with
      | x :: _ => rnd (x.2.mul x.1)
      | [] => vZero)
    | 3 => (match xs with
      | x :: rest => rest.foldl (fun a y => vMax a y.1) x.1
      | [] => vZero)
    | p =>
      let s := xs.foldl (fun a x => rnd (x.2.fma x.1 a)) vZero
      if p = 2 ∧ xs ≠ [] then rnd (s.div (.fin false xs.length 0)) else s)

/-- The index positions of each bag (R150). -/
def Chip.bags (c : Chip) (b d : Nat) : Option (List (List Nat)) :=
  if bits d 192 48 = 0 ∨ ldPool d = 0 then some ((List.range (ldN d)).map (fun i => [i]))
  else match c.ownWords b (bits d 192 48) 4 (ldBags d + 1) with
    | some o => some ((List.range (ldBags d)).map (fun k =>
        (List.range (ldN d)).filter (fun i => decide (o.getD k 0 ≤ i ∧ i < o.getD (k + 1) 0))))
    | none => none

/-- The output rows of a gather, one after another, with the empty bags and clamped elements counted; none on an address
fault. -/
def Chip.gatherOut (c : Chip) (b : Nat) (r : LRun) (idx wts : List Nat) : Option (Chip × Nat × Nat) :=
  let d := r.d
  let f := (ldOut d).getD .fp32
  match c.bags b d with
  | none => none
  | some bs =>
    bs.zipIdx.foldl (fun (s : Option (Chip × Nat × Nat)) bag =>
      match s with
      | none => none
      | some (c, empty, clamp) =>
        let rows := bag.1.filterMap (fun i => match r.rows.find (idx.getD i 0) with
          | some (.got bs) => some (bs, wts.getD i 0)
          | _ => none)
        let out := (poolBag d r.tbl rows).map (fun v => convert f true .saturate .nearest v)
        let n := f.bytes * ltE r.tbl
        match c.reach b (bits d 320 48 + bag.2 * n) n true with
        | none => none
        | some p =>
          if inLatches p n ∨ c.partPoisonAt p n then none
          else some (c.wr p (codeBytes f.bytes (out.map (·.code))), empty + b2n rows.isEmpty,
            clamp + (out.filter (·.clamp)).length)) (some (c, 0, 0))

/-- LADLE_CMD_COMPLETE (R136, R150-R154) at die `n`: every distinct row is known and every REDUCE-PUT acknowledged. -/
def ladleCmdComplete (n : Nat) (upd : Bool) (c : Chip) : Chip :=
  let b := c.dieBasin n
  match (c.lu n).run upd with
  | none => c
  | some r =>
    let d := r.d
    let e := r.cmd
    let idx := (c.ldIdx b d).getD []
    let wts := (c.ldWts b d).getD []
    let st (x : Nat) : Option RowSt := r.rows.find x
    let nbad := (idx.filter (fun x => st x == some .bad)).length
    let nfail := ((distinct idx).filter (fun x => st x == some .failed)).length
    let open1 := idx.any (fun x => match st x with
      | none => true
      | some (.wait _) => true
      | _ => false)
    let acks := c.ops.any (fun o => match o.src with
      | .ladle m id _ => m == n && id == e.id
      | _ => false)
    let word (empty clamp : Nat) : Nat :=
      satTo 0xFFFF nbad + 2 ^ 16 * satTo 0xFFFF nfail + 2 ^ 32 * satTo 0xFFFF empty + 2 ^ 48 * satTo 0xFFFF clamp
    if r.fault ∨ (bit d 6 ∧ (nbad > 0 ∨ nfail > 0)) then c.ladleEnd n upd e 4 0 (word 0 0)
    else if open1 ∨ acks then c
    else
      let done := idx.length - nbad - (idx.filter (fun x => st x == some .failed)).length
      let status := if nbad > 0 ∨ nfail > 0 then 3 else 0
      if ldOp d = 0 then
        (match c.gatherOut b r idx wts with
        | some (c, empty, clamp) => c.ladleEnd n upd e status done (word empty clamp)
        | none => c.ladleEnd n upd e 4 0 (word 0 0))
      else c.ladleEnd n upd e status done (word 0 0)

end Sys2Proof.Machine
end

