-- ==== Sys2Proof/Machine/Recover.lean ====
section
/-! DEFINITION. Stopping a basin, quench, substitution of forge dies, resuming from a pour point (01 R13-R31, 06 R191-R194,
12 R358-R374). -/
namespace Sys2Proof.Machine

/-! ### Who may write (R30, R372) -/

/-- The host's physical function and the management sideband. -/
def Agent.pfSide : Agent → Bool
  | .pf | .sideband => true
  | _ => false

/-- The physical function, the sideband and Lansel. -/
def Agent.top : Agent → Bool
  | .pf | .sideband | .hub => true
  | _ => false

/-- The physical function, the sideband and the virtual function bound to the basin, which is its admin VF (R423). -/
def Chip.mayQuench (c : Chip) (ag : Agent) (b : Nat) : Bool :=
  match ag with
  | .vf n => c.get (HUB_VF_BIND.BASIN n) == b && c.on (HUB_VF_BIND.ADMIN n)
  | a => a.pfSide

/-! ### The mesh (R13, R16, R21) -/

/-- The dies of R13 row by row: forge dies 0-25, N0-N3 as 26-29, H-A and H-B as 30 and 31. -/
def meshDies : List Nat :=
  [0, 1, 2, 26, 27, 3, 4, 5, 6, 7, 8, 30, 9, 10, 11, 12, 13, 14, 15, 16, 31, 17, 18, 19, 20, 21, 22, 28, 29, 23, 24, 25]

def meshPos (n : Nat) : Nat × Nat := let i := meshDies.idxOf n; (i % 8, i / 8)

def meshHops (m n : Nat) : Nat :=
  let (a, b) := meshPos m
  let (x, y) := meshPos n
  (a - x) + (x - a) + (b - y) + (y - b)

/-- The attachment routers of stack `k` (R16). -/
def stackRouters (k : Nat) : List Nat :=
  [[0, 1], [6, 7], [13, 14], [20, 21], [2, 8], [15, 22], [3, 10], [17, 23], [4, 5], [11, 12], [18, 19], [24, 25]].getD k []

/-- The die at a mesh position. -/
def meshAt (x y : Nat) : Nat := meshDies.getD (8 * y + x) 31

/-- The numbers from `a` to `b`, both included, up or down. -/
def between (a b : Nat) : List Nat :=
  if a ≤ b then (List.range (b - a + 1)).map (a + ·) else ((List.range (a - b + 1)).map (b + ·)).reverse

/-- The dies whose routers a packet passes from die `m` to die `n` in column order: along the row to the destination column, then
along that column (R13, R19). -/
def columnPath (m n : Nat) : List Nat :=
  let (a, b) := meshPos m
  let (x, y) := meshPos n
  (between a x).map (fun i => meshAt i b) ++ ((between b y).drop 1).map (fun j => meshAt x j)

/-- The paths between two dies by way of a third, in the order in which Lansel takes them when it steers around a router (R15): the
plain one, then those that turn at one die, the shortest first (log entry 129). -/
def detours (m n : Nat) : List (List Nat) :=
  let via (k : Nat) : List Nat := columnPath m k ++ (columnPath k n).drop 1
  columnPath m n :: (List.range 3).flatMap (fun d => ((List.range 32).filter (fun k => meshHops m k + meshHops k n == meshHops m n + 2 * d)).map via)

/-- The routing table of the package for one pair of dies (R15, R19): the path in column order, or while routers have failed the first
detour that none of them lies on; the end points' own routers are not steered around. -/
def Chip.meshPath (c : Chip) (m n : Nat) : Option (List Nat) :=
  (detours m n).find? (fun p => p.all (fun k => !c.routers.contains k))

/-- The router at which traffic of die `m` enters stack `k` (R16): the nearer of the two that work, the lower die of a tie. -/
def Chip.stackEntry (c : Chip) (m k : Nat) : Option Nat :=
  ((stackRouters k).filter (fun r => !c.routers.contains r)).foldl (fun best r =>
    match best with
    | none => some r
    | some q => if meshHops m r < meshHops m q then some r else some q) none

/-- Hops from a die to the farther stack of basin `b`, each measured to its nearer attachment router (R21). -/
def stackHops (n b : Nat) : Nat :=
  let near (k : Nat) : Nat := (stackRouters k).foldl (fun m r => min m (meshHops n r)) 99
  max (near (2 * b)) (near (2 * b + 1))

/-! ### Roles (R18, R28, R29) -/

/-- The dies that hold a slot of basin `b`, and their clusters. -/
def Chip.basinDies (c : Chip) (b : Nat) : List Nat := (List.range 26).filter (fun n => c.dieBasin n == b)
def Chip.basinCls (c : Chip) (b : Nat) : List Nat := (c.basinDies b).flatMap (fun n => [4 * n, 4 * n + 1, 4 * n + 2, 4 * n + 3])

/-- A die holds no slot. -/
def Chip.unplace (c : Chip) (n : Nat) : Chip :=
  ((c.put (HUB_FORGE_STATUS.BASIN n) 7).put (HUB_FORGE_STATUS.SLOT n) 7).put (HUB_FORGE_STATUS.HOPS n) 15

/-- What changes a basin's die map increments GEN once (R29). -/
def Chip.roleGen (c : Chip) (b : Nat) (old : Nat) : Chip :=
  if bits (c.word (BSN_DIE_MAP b)) 0 28 = bits old 0 28 then c else c.inc (BSN_DIE_MAP.GEN b)

/-- Slot `s` of basin `b` is held by die `n`, in state `st`; the map's GEN is the caller's. -/
def Chip.seatDie (c : Chip) (b s n st : Nat) : Chip :=
  let c := c.put (slotField b s) n
  let c := ((c.put (HUB_FORGE_STATUS.BASIN n) b).put (HUB_FORGE_STATUS.SLOT n) s).put (HUB_FORGE_STATUS.HOPS n) (stackHops n b)
  c.put (HUB_FORGE_STATUS.STATE n) st

/-- Slot `s` of basin `b` passes to die `n`, in state `st`. -/
def Chip.placeDie (c : Chip) (b s n st : Nat) : Chip := (c.seatDie b s n st).roleGen b (c.word (BSN_DIE_MAP b))

/-- A die leaves its slot empty, and is remembered as the slot's last holder (log entry 130). -/
def Chip.vacate (c : Chip) (n : Nat) : Chip :=
  let (b, s) := (c.dieBasin n, c.dieSlot n)
  if b > 5 ∨ s > 4 then c
  else
    let c1 := ((c.unplace n).put (slotField b s) 31).roleGen b (c.word (BSN_DIE_MAP b))
    { c1 with vacated := Map.set c1.vacated n (b, s) }

/-- The spare of R21 for basin `b`. -/
def Chip.pickSpare (c : Chip) (b : Nat) : Option Nat :=
  ((List.range 26).filter (fun n => c.get (HUB_FORGE_STATUS.STATE n) == 2)).foldl (fun m n =>
    match m with
    | none => some n
    | some k => if stackHops n b < stackHops k b then some n else some k) none

/-! ### Stopping a basin -/

/-- Whether both stacks of a basin serve accesses (R251, R484). -/
def Chip.stacksOk (c : Chip) (b : Nat) : Bool :=
  c.get (HBM_STACK_STS.STATE (2 * b)) != 5 && c.get (HBM_STACK_STS.STATE (2 * b + 1)) != 5

/-- Every kernel of the basin stops (R363, R367). -/
def Chip.stopBasin (c : Chip) (b : Nat) : Chip := (c.kerns.filter (fun k => k.basin == b)).foldl (fun c k => c.stopKern k) c

/-- The temper commands of basin `b` that a packet entered, each with its first chunk not posted (R143, R191). -/
def Chip.temperLeft (c : Chip) (b : Nat) : List (ECmd × Nat) :=
  (c.basinDies b).flatMap (fun n =>
    let x := c.tu n
    x.q.map (fun e => (e, e.skipTo)) ++ (x.run.toList ++ x.resume).map (fun r => (r.cmd, r.chunk)))

/-- Every engine command of the basin is discarded, with the operations it has outstanding (R136, R367). -/
def Chip.dropEngines (c : Chip) (b : Nat) : Chip :=
  (c.basinDies b).foldl (fun c n =>
    let c := c.setTu n { c.tu n with q := [], run := none, resume := [] }
    let c := c.setLu n {}
    let c := { c with ops := c.ops.filter (fun o => match o.src with
      | .ladle d _ _ => d != n
      | _ => true) }
    let c := ((c.put (FGE_TEMPER_STS.QDEPTH n) 0).put (FGE_TEMPER_STS.WAITING n) 0).temperState n
    ((((c.put (FGE_LADLE_STS.BUSY n) 0).put (FGE_LADLE_STS.QDEPTH_G n) 0).put (FGE_LADLE_STS.QDEPTH_U n) 0).put
      (FGE_LADLE_STS.WAITING_U n) 0).put (FGE_LADLE_STS.INFLIGHT n) 0) c

/-! ### Quench (R367-R370) -/

/-- Queue entry `q` of a quench record (R368), and whether its packet could be read. -/
def Chip.quenchQ (c : Chip) (b q : Nat) : List Byte × Option (List Byte) :=
  (leBytes 8 (c.word (BSN_Q_CFG b q)) ++ leBytes 8 (c.word (BSN_Q_STS b q)),
   (c.ringPkt b q (c.get (BSN_Q_STS.HEAD b q))).map (leBytes 48))

/-- The engine commands that the dies of a basin hold (R136). -/
def Chip.engineCmds (c : Chip) (b : Nat) : List ECmd :=
  (c.basinDies b).flatMap (fun n =>
    let x := c.tu n
    let y := c.lu n
    (x.run.toList ++ x.resume).map (·.cmd) ++ x.q ++ y.runG.toList.map (·.cmd) ++ y.g ++ y.runU.toList.map (·.cmd) ++ y.u)

/-- The batching requests that a quench discards: source, rows and latch of each that is not released (R62). -/
def Chip.batchLost (c : Chip) (b : Nat) : List (Nat × Nat × Nat) :=
  (List.range 8).flatMap (fun x => ((c.bq b x).batches.filter (fun t => !t.inFlight)).flatMap (fun t => t.reqs.map (fun r => (r.2.2, r.1, r.2.1))))

/-- The kind of an array command in a quench record. -/
def ACmd.kind : ACmd → Nat
  | .load _ _ _ _ _ _ _ => 1
  | .pass _ _ _ _ _ _ _ _ => 2
  | .drain _ => 3

/-- The cluster entry of a quench record: status words, array commands, and what each bound stream has delivered. -/
def Chip.quenchCl (c : Chip) (kc : Nat) : List Nat :=
  let (n, m) := (kc / 4, kc % 4)
  let x := c.cl kc
  [c.word (CLS_SEQ_STS n m 0), c.word (CLS_SEQ_STS n m 1), c.word (CLS_ARRAY_STS n m)]
    ++ (List.range 4).map (fun i => (x.arr.q[i]?.map ACmd.kind).getD 0)
    ++ (List.range 6).map (fun g => match x.ag.find g with
      | some a => fld 0 32 a.row + fld 32 32 a.elem
      | none => 0)

/-- The words of the parts of a quench record whose places R368 gives only by part, each with its offset: every item in the order in
which the table names it, eight bytes each (DESIGN CHOICE, log entry 148). -/
def Chip.quenchWords (c : Chip) (b : Nat) : List (Nat × List Nat) :=
  let slot (s : Nat) (f : Nat → Nat) : Nat := if c.slotDie b s < 26 then f (c.slotDie b s) else 0
  (0, [c.get (BSN_QUENCH.COUNT b), c.get (BSN_QUENCH.CAUSE b), c.step b, c.word (BSN_DIE_MAP b), c.word (BSN_AGREE_STS b),
    c.word (BSN_POUR_STS b), c.get (BSN_WDOG.COUNT b), c.get HUB_TICKS.TICKS])
  :: (List.range 20).map (fun i => (0xC000 + 256 * i, match c.roleCl b (i / 4) (i % 4) with
    | some kc => c.quenchCl kc
    | none => []))
  ++ [(0xE000, (List.range 5).flatMap (fun s => [slot s (fun n => c.word (FGE_TEMPER_STS n)), slot s (fun n => c.word (FGE_LADLE_STS n))])
      ++ [c.word (BSN_NAN_TRAP_CTL b), c.word (BSN_NAN_TRAP_ID0 b), c.word (BSN_NAN_TRAP_ID1 b), c.word (BSN_NAN_TRAP_ID2 b)]
      ++ (List.range 16).flatMap (fun x => [c.word (BSN_BAR_CTX b x), c.word (BSN_BAR_STS b x)])),
    (0xF000, (List.range 8).map (fun x => c.word (BSN_BATCH_STS b x))),
    (0x10000, (c.engineCmds b).flatMap (fun e => [e.desc, e.comp, e.stamp]) ++ (c.batchLost b).flatMap (fun r => [r.1, r.2.1, r.2.2]))]

/-- The quench record of R368 at `base`; bytes that no field fills are undefined. -/
def Chip.quenchRecord (c : Chip) (b base : Nat) : Chip :=
  let old := c.mem.reads (base + 0x3FFFFC0) 64
  let valid := commitOk (leNat old) 3 (sha3 (c.mem.reads base 0x110000))
  let (seq, c) := c.nextSeq (if valid then some (bits (leNat old) 64 64) else none)
  let es := (List.range 64).map (fun q => c.quenchQ b q)
  let ls := (List.range 5120).map (fun l => ((c.latchPlace b l).isSome, c.latch b l))
  let ws := c.quenchWords b
  let c := c.lose base 0x110000
  let c := ws.foldl (fun c e => if e.2 = [] then c else c.wrHbm (base + e.1) ((codeBytes 8 e.2).take 0x100000)) c
  let c := (es.zipIdx).foldl (fun c e =>
    let k := base + 0x1000 + 64 * e.2
    let c := c.wrHbm k e.1.1
    match e.1.2 with
    | some bs => c.wrHbm (k + 16) bs
    | none => c) c
  let c := (ls.zipIdx).foldl (fun c e => if e.1.1 then c.wrHbm (base + 0x2000 + 8 * e.2) (leBytes 8 e.1.2) else c) c
  c.wrHbm (base + 0x3FFFFC0) (leBytes 64 (commitRec 3 seq (c.step b) 0 (sha3 (c.mem.reads base 0x110000))))

/-- A copy-out or stream that a quench cuts off, or a copy-out that a die loss cuts off, ends (R390); its target slot stays
invalid. -/
def Chip.secureCut (c : Chip) (b least : Nat) : Chip :=
  if c.get (BSN_SECURE_STS.STATE b) ≥ 2 ∧ c.get (BSN_SECURE_STS.STATE b) ≤ least then c.secureEnd b 4 else c

/-- The controllers of a basin's stacks take no requests from here on, those that wait are lost, and they end in self-refresh (R257). -/
def Chip.refreshIn (c : Chip) (b : Nat) : Chip :=
  [2 * b, 2 * b + 1].foldl (fun c k =>
    let st := c.get (HBM_STACK_STS.STATE k)
    let c : Chip := { c with heldReqs := c.heldReqs.filter (fun r => stackOf r.a != k) }
    if 2 ≤ st ∧ st ≤ 4 then c.put (HBM_STACK_STS.STATE k) 6 else c) c

/-- They leave self-refresh with their contents, their lost pseudo-channels and what a rebuild or copy has done (R257). -/
def Chip.refreshOut (c : Chip) (b : Nat) : Chip :=
  [2 * b, 2 * b + 1].foldl (fun c k => if c.get (HBM_STACK_STS.STATE k) = 6 then c.put (HBM_STACK_STS.STATE k) (c.stackState k) else c) c

/-- A quench starts (R367 steps 1-3); one in progress takes no other. The batching queues are empty and idle from then on (R62). -/
def Chip.quench (c : Chip) (b cause : Nat) : Chip :=
  if c.get (BSN_QUENCH.STATE b) = 1 then c
  else
    let c := ((c.put (BSN_QUENCH.STATE b) 1).put (BSN_QUENCH.CAUSE b) cause).inc (BSN_QUENCH.COUNT b)
    let c := (if c.isHbm (c.quenchBase b) then c.quenchRecord b (c.quenchBase b) else c).refreshIn b
    let c := (c.stopBasin b).dropEngines b
    let c := c.secureCut b 3
    let c := (List.range 8).foldl (fun c x =>
      (((c.put (BSN_BATCH_STS.PENDING b x) 0).put (BSN_BATCH_STS.INFL b x) 0).put (BSN_BATCH_STS.IDLE b x) 1).put
        (BSN_BATCH_STS.OLDEST_AGE b x) 0) c
    let s := c.bs b
    c.setBs b { s with quenched := true, frozen := false, lops := [],
                       bqs := s.bqs.map (fun e => (e.1, { e.2 with batches := [] })) }

/-- The registers of a BSN_ block that a quench keeps (R369). -/
def quenchKeeps (r : RegRow) : Nat :=
  match r.kind with
  | .bsnSlice | .bsnJobPos | .bsnDieMap | .bsnQuench | .bsnSecureBase | .bsnSecureCmd | .bsnSecureSts => allBits
  | _ => r.cfg

/-- Clusters and engines of a die are reset (R22, R123, R128): cistern, rill state and tag copies undefined, generators set
from entropy value `e`. -/
def Chip.resetDie (c : Chip) (n e : Nat) : Chip :=
  let (id, c) := c.newId
  let g : GenBank := { seed := .free e }
  let c := (List.range 4).foldl (fun c m =>
    let kc := 4 * n + m
    let c := c.loseCistern kc
    let c := c.setCl kc { rillEpoch := id, rill := g, burn := g, pllOn := (c.cl kc).pllOn }
    c.resetBlock .cls (clsBase n m) RegRow.cfg) c
  ((c.setTu n { gen := g }).setLu n {}).resetBlock .fge (dieBase n) RegRow.cfg

/-- The non-finite counters of a basin cleared, SAT bits kept (R458, R467). -/
def nfClear (m : Map Nat) : Map Nat := (m.filter (fun e => bit e.2 63)).map (fun e => (e.1, 2 ^ 63))

/-- The basin's own units are reset: registers, queues, agreement, barriers, watchdog (R367 step 4, R369). -/
def Chip.resetBasin (c : Chip) (b : Nat) (keep : RegRow → Nat) : Chip :=
  let c := c.resetBlock .bsn (bsnBase b) keep
  let s := c.bs b
  let mine (x : Src) : Bool := match x with
    | .pkt d _ _ => d == b
    | .seq kc _ => c.clBasin kc == b
    | _ => false
  let c := { c with ops := c.ops.filter (fun o => !mine o.src) }
  let (e, c) := c.newId
  let c := (c.basinDies b).foldl (fun c n => c.resetDie n e) c
  let c := c.resetReg (ASY_NF_SUM b)
  c.setBs b { sendTab := s.sendTab, recvTab := s.recvTab, nf := nfClear s.nf, quenched := s.quenched,
              outOfService := s.outOfService }

/-- A die that is being brought into a slot of the basin becomes Active (R363, R390). -/
def Chip.joinDies (c : Chip) (b : Nat) : Chip :=
  (c.basinDies b).foldl (fun c n => if c.get (HUB_FORGE_STATUS.STATE n) = 3 then c.put (HUB_FORGE_STATUS.STATE n) 1 else c) c

/-- QUENCH_COMPLETE (R367, R370): `good` where the controllers left self-refresh in time and the self-tests passed. -/
def quenchComplete (b : Nat) (good : Bool) (c : Chip) : Chip :=
  if c.get (BSN_QUENCH.STATE b) ≠ 1 then c
  else
    let wd := c.get (BSN_QUENCH.CAUSE b) == 1
    let c := ((c.resetBasin b quenchKeeps).joinDies b).refreshOut b
    let c := c.put (BSN_WDOG.EXPIRED b) (b2n wd)
    let c := c.put (BSN_QUENCH.STATE b) (if good ∧ c.isHbm (c.quenchBase b) then 2 else 3)
    c.fireB b 0

/-- QUENCH (R372). -/
def quenchCmd (ag : Agent) (b : Nat) (c : Chip) : Chip := if c.mayQuench ag b then c.quench b 2 else c

/-- BASIN_RETURN (R372). -/
def basinReturn (ag : Agent) (b : Nat) (c : Chip) : Chip :=
  if c.mayQuench ag b ∧ c.get (BSN_QUENCH.STATE b) = 2 then
    (c.put (BSN_QUENCH.STATE b) 0).setBs b { c.bs b with quenched := false }
  else c

/-- WATCHDOG_EXPIRY (R366, R367). -/
def watchdogExpiry (b : Nat) (c : Chip) : Chip :=
  let p := c.get (BSN_WDOG.PERIOD b)
  if p ≠ 0 ∧ c.get (BSN_WDOG.COUNT b) ≥ p then c.quench b 1 else c

/-! ### Resuming from the pour point (R191-R194) -/

/-- Released batches of queue `q` that were running start again first (R167). -/
def Chip.batchAgain (c : Chip) (b q : Nat) : List (Nat × Nat × Nat) :=
  (c.kerns.filter (fun k => k.basin == b && k.queue == q)).filterMap (fun k =>
    match k.batch with
    | none => none
    | some (x, num) =>
      let u := c.bq b x
      match u.tmpl, u.batches.find? (fun t => t.num = num) with
      | some tp, some t => some (setBits (setBits tp 256 64 t.rows) 320 64 t.slot, x, num)
      | _, _ => none)

/-- A queue of the pour set returns to its recorded index (R191). A second fault in a replay keeps what the first left to do: the end of
the replay, and the chunks of temper commands that have not started again. Released batches that ran start again with what they had
performed suppressed (R192). -/
def Chip.rewindQ (c : Chip) (b q idx : Nat) (chunks : Map Nat) (ins : List (Nat × Nat × Nat)) : Chip :=
  let u := c.qu b q
  let upto := match u.replay with
    | some r => r.upto
    | none => c.get (BSN_Q_STS.HEAD b q)
  let before := match u.replay with
    | some r => r.chunks
    | none => []
  let bsupp := ins.foldl (fun m e => let k := batchKey e.2.1 e.2.2; Map.put 0 m k (Map.get 0 u.hist k)) u.bsupp
  if idx = upto then c.setQu b q { u with ins := ins ++ u.ins, bsupp := bsupp }
  else
    let c := ((c.put (BSN_Q_STS.HEAD b q) idx).put (BSN_Q_STS.RETIRED b q) idx).put (BSN_Q_STS.STATE b q) 5
    c.setQu b q { u with win := [], haltPkt := none, ins := ins ++ u.ins, bsupp := bsupp,
                         replay := some { upto := upto, doneAt := u.histDone, supp := u.hist,
                                          chunks := chunks.foldl (fun m e => Map.put 0 m e.1 e.2) before } }

/-- A queue that is not replayed: what it had started and not completed is abandoned (R194), with the copies it has outstanding and its
place in a barrier. -/
def Chip.abandonQ (c : Chip) (b q : Nat) (ran : Bool) : Chip :=
  let u := c.qu b q
  match u.win.find? (fun s => !s.done) with
  | some s =>
    let c := c.setQu b q { u with win := u.win.map (fun t => if t.idx = s.idx then t else { t with done := true }) }
    let c := { c with ops := c.ops.filter (fun o => match o.src with
      | .pkt d p _ => !(d == b && p == q)
      | _ => true) }
    let x := c.bs b
    let c := c.setBs b { x with bars := x.bars.map (fun e => (e.1, { e.2 with waiter := e.2.waiter.filter (fun w => w.1 != q) })) }
    c.qHalt b q 7 (some s.idx)
  | none => if ran then c.qHalt b q 7 none else c

/-- Latch operations of the main class that were issued, and so counted, before the fault take effect at the resume: the re-execution
suppresses them (R192, log entry 62). -/
def Chip.settleLops (c : Chip) (b : Nat) : Chip :=
  let ls := (c.bs b).lops.filter (fun o => match o.src with
    | .seq kc _ => (match c.kernOf kc with
      | some k => !k.side && !o.supp
      | none => false)
    | _ => false)
  ls.foldl (fun c o => c.latchApply b o.latch o.isSet o.val) c

/-- The basin resumes from its last pour point; without one it is quenched (R114, R191, R194). -/
def Chip.resume (c : Chip) (b : Nat) : Chip :=
  let s := c.bs b
  let qs := c.pourSet b
  match c.pourRec b with
  | none => c.quench b 5
  | some r =>
    if qs = [] then c.quench b 5
    else
      let left := s.left ++ c.temperLeft b
      let chunks (q : Nat) : Map Nat := left.foldl (fun m e => match e.1.src with
        | .pkt _ p i => if p = q then Map.put 0 m i e.2 else m
        | _ => m) []
      let again := (List.range 64).map (fun q => (q, c.batchAgain b q))
      let side := (c.kerns.filter (fun k => k.basin == b && k.batch.isSome)).map (fun k => k.queue)
      let c := ((c.settleLops b).stopBasin b).dropEngines b
      let c := { c with ops := c.ops.filter (fun o => match o.src with
        | .pkt d _ _ => d != b || o.counted
        | _ => true) }
      let c := if s.sentGrad then
        (if c.get (BSN_AGREE_STS.STATE b) = 0 then c.put (BSN_AGREE_STS.DISTURBED b) 1 else c).setBs b { c.bs b with distOpen := true }
        else c
      let c := c.setBs b { c.bs b with rstamp := r.step, frozen := false, left := [] }
      let c := (c.inc (BSN_POUR_STS.RESUMES b)).put (BSN_POUR_STS.REPLAY b) 1
      let c := (List.range 64).foldl (fun c q =>
        match r.idx.find q with
        | some i => if qs.contains q then c.rewindQ b q i (chunks q) (Map.get [] again q) else c.abandonQ b q (side.contains q)
        | none => c.abandonQ b q (side.contains q)) c
      c.replaySettle b

/-! ### Loss of a forge die (R21-R25, R27, R362, R363) -/

/-- A spare-die command ends (R31). -/
def Chip.spareEnd (c : Chip) (res : Nat) : Chip :=
  let c := ((c.put HUB_SPARE_STS.BUSY 0).put HUB_SPARE_STS.RESULT res).inc HUB_SPARE_STS.COUNT
  ({ c with spareCmd := none }).fire 6

/-- A die fails, or a fault takes a spare: a planned substitution that counted on the die as its spare takes another of R21's choice
where it may, and ends displaced where none is left (R31); one whose target has failed ends displaced (R21). -/
def Chip.displace (c : Chip) (k : Nat) : Chip :=
  match c.spareCmd with
  | some m =>
    if m.action ≠ 2 ∧ m.spare < 26 ∧ m.target = k then c.spareEnd 5
    else if m.action ≠ 2 ∧ m.spare < 26 ∧ m.spare = k then
      (match (if m.chosen then c.pickSpare (c.dieBasin m.target) else none) with
      | some sp => { c with spareCmd := some { m with spare := sp } }
      | none => c.spareEnd 5)
    else c
  | none => c

/-- A basin is quenched and goes out of service for want of dies or of a stack (R23, R251). -/
def Chip.takeOut (c : Chip) (b : Nat) (cause : Nat) : Chip :=
  let c1 := ((c.quench b cause).put (BSN_DIE_MAP.SLOTS b) 0).roleGen b (c.word (BSN_DIE_MAP b))
  c1.setBs b { c1.bs b with outOfService := true }

/-- Basin `b` in Open mode re-forms with four dies without slot `s`, if it can (R27). -/
def Chip.reform (c : Chip) (b s n : Nat) : Chip :=
  let m := c.slotDie b 4
  if c.get (BSN_DIE_MAP.SLOTS b) = 5 then
    let c := c.quench b 3
    let old := c.word (BSN_DIE_MAP b)
    let c := c.unplace n
    let c := if s = 4 then c else (c.unplace m).seatDie b s m 1
    ((c.put (slotField b 4) 31).put (BSN_DIE_MAP.SLOTS b) 4).roleGen b old
  else c.takeOut b 3

/-- A failed die's slot passes to the spare of R21, which joins; without a spare the basin is taken out (R21, R23). -/
def Chip.fillSlot (c : Chip) (b s n : Nat) : Chip :=
  match c.pickSpare b with
  | none => c.takeOut b 3
  | some sp =>
    let c := ((c.unplace n).placeDie b s sp 3).fireB b 10
    { c with picks := ⟨c.get HUB_TICKS.TICKS, b, s, n, sp⟩ :: c.picks }.displace sp

/-- Spares chosen in the present slow tick for higher-numbered basins become free again (R21). -/
def Chip.unpick (c : Chip) (b : Nat) : List Pick × Chip :=
  let again := c.picks.filter (fun p => p.tick == c.get HUB_TICKS.TICKS && decide (b < p.basin) && c.slotDie p.basin p.slot == p.spare
    && c.get (HUB_FORGE_STATUS.STATE p.spare) == 3)
  (again, again.foldl (fun c p =>
    ((c.unplace p.spare).put (HUB_FORGE_STATUS.STATE p.spare) 2).placeDie p.basin p.slot p.lost 4)
    { c with picks := c.picks.filter (fun p => !again.contains p) })

/-- The slot of a die that a fault takes is filled; basins whose dies are lost in one slow tick choose in basin order (R21). -/
def Chip.fillInOrder (c : Chip) (b s n : Nat) : Chip :=
  let (again, c) := c.unpick b
  let c := c.fillSlot b s n
  (List.range 6).foldl (fun c d => (again.filter (fun p => p.basin == d)).foldl (fun c p => c.fillSlot p.basin p.slot p.lost) c) c

/-- The engines of a failed die lose their state; the temper commands they held are kept until the basin resumes (R22, R191). -/
def Chip.stopEngines (c : Chip) (b n : Nat) : Chip :=
  let x := c.tu n
  let mine := x.q.map (fun e => (e, e.skipTo)) ++ (x.run.toList ++ x.resume).map (fun r => (r.cmd, r.chunk))
  let c := c.setBs b { c.bs b with left := (c.bs b).left ++ mine }
  let c := (c.setTu n { gen := x.gen }).setLu n {}
  { c with ops := c.ops.filter (fun o => match o.src with
    | .ladle d _ _ => d != n
    | _ => true) }

/-- A forge die is declared lost (R362, R363 up to the choice of the spare). -/
def Chip.dieLost (c : Chip) (n : Nat) : Chip :=
  let st := c.get (HUB_FORGE_STATUS.STATE n)
  if n ≥ 26 ∨ (st ≠ 1 ∧ st ≠ 2 ∧ st ≠ 3) then c
  else
    let b := c.dieBasin n
    let s := c.dieSlot n
    let c := ((c.put (HUB_FORGE_STATUS.STATE n) 4).incSat (HUB_FORGE_STATUS.FAIL_COUNT n) 1).displace n
    if b > 5 then c
    else if !c.modes.sheltered then c.reform b s n
    else
      let c := (if c.get (BSN_QUENCH.STATE b) = 0 then c.setBs b { c.bs b with frozen := true } else c).secureCut b 2
      (c.stopEngines b n).fillInOrder b s n

/-- FORGE_HEARTBEAT_LOSS and FORGE_DIE_ERROR (R362). -/
def forgeHeartbeatLoss (n : Nat) (c : Chip) : Chip := c.dieLost n
def forgeDieError (n : Nat) (c : Chip) : Chip := c.dieLost n

/-- The latch area of a slot's clusters is loaded from the shadow (R178); a shadow outside the basin's own HBM leaves the
latches undefined (log entry 10). -/
def Chip.loadLatches (c : Chip) (b s : Nat) : Chip :=
  (List.range 1024).foldl (fun c i =>
    let l := 1024 * s + i
    match c.latchPlace b l, c.ownHbm b (c.get (BSN_LATCH_SHADOW.BASE b) + 8 * l) 8 with
    | some p, some k => { c with mem := c.mem.write p.key (c.mem.reads k 8) }
    | _, _ => c) c

/-- SUBSTITUTION_COMPLETE (R363): the dies in state Joining are set up and become Active, and the basin resumes. -/
def substitutionComplete (b : Nat) (c : Chip) : Chip :=
  let js := (c.basinDies b).filter (fun n => c.get (HUB_FORGE_STATUS.STATE n) == 3)
  if js = [] then c
  else
    let busy := c.get (BSN_QUENCH.STATE b) != 0
    let c := js.foldl (fun c n =>
      let (e, c) := c.newId
      (c.resetDie n e).loadLatches b (c.dieSlot n)) c
    let c := if busy then c else c.resume b
    c.joinDies b

/-! ### Retests and spare-die commands (R20, R24, R25, R30, R31) -/

/-- A die that passed its retest becomes Spare, and holds no slot (R20, R24). -/
def Chip.toSpare (c : Chip) (n : Nat) : Chip := (c.vacate n).put (HUB_FORGE_STATUS.STATE n) 2

/-- The retest of a die whose return the host has commanded (R30). A die that is Active or Joining stays in its slot: where it passes
nothing changes, and where it fails it is lost (DESIGN CHOICE, log entry 131: R30 does not say what a return does to such a die). -/
def Chip.returned (c : Chip) (n : Nat) (good : Bool) : Chip :=
  let st := c.get (HUB_FORGE_STATUS.STATE n)
  if st = 1 ∨ st = 3 then (if good then c else c.dieLost n)
  else if good then (c.toSpare n).put (HUB_FORGE_STATUS.FAIL_COUNT n) 0
  else c.put (HUB_FORGE_STATUS.STATE n) 5

/-- The retest of a die that a fault substitution replaced (R24); in Open mode no substitution precedes it, and it has no effect (R27). -/
def Chip.retested (c : Chip) (n : Nat) (good : Bool) : Chip :=
  if c.modes.sheltered ∧ c.get (HUB_FORGE_STATUS.STATE n) = 4 ∧ n < 26 then
    (if good ∧ c.get (HUB_FORGE_STATUS.FAIL_COUNT n) = 1 then c.toSpare n else c.put (HUB_FORGE_STATUS.STATE n) 5)
  else c

/-- ASSAY_RETEST (R24): `good` where the retest passes. The die is one that failed, or the target of a running return. -/
def assayRetest (n : Nat) (good : Bool) (c : Chip) : Chip :=
  match c.spareCmd with
  | some m =>
    if m.action = 2 ∧ m.target = n then ({ c with spareCmd := some { m with retest := some good } }).returned n good
    else c.retested n good
  | none => c.retested n good

/-- SPARE_BACKGROUND_TEST (R20): a spare that fails its test is a failed die. -/
def spareBackgroundTest (n : Nat) (good : Bool) (c : Chip) : Chip :=
  if c.get (HUB_FORGE_STATUS.STATE n) = 2 ∧ !good then c.dieLost n else c

/-- Whether every queue of a basin is idle (R25, R161). -/
def Chip.allIdle (c : Chip) (b : Nat) : Bool :=
  (List.range 64).all (fun q => !c.on (BSN_Q_CFG.ENABLE b q) || c.get (BSN_Q_STS.RETIRED b q) == c.get (BSN_Q_STS.TAIL b q))

/-- Whether a basin is idle (R4): its queues are, and no kernel of it runs or waits to start. -/
def Chip.basinIdle (c : Chip) (b : Nat) : Bool :=
  c.allIdle b && c.kerns.all (fun k => k.basin != b) && (List.range 64).all (fun q => (c.qu b q).ins.isEmpty)

/-- Basin and slot that a substitution of a die fills: the slot it holds, or one that it left empty when it became a spare and that is
empty still (R23, log entry 130). -/
def Chip.slotOf (c : Chip) (n : Nat) : Option (Nat × Nat) :=
  if c.dieBasin n < 6 then some (c.dieBasin n, c.dieSlot n)
  else match Map.find c.vacated n with
    | some (b, s) => if c.slotDie b s = 31 ∧ (c.bs b).outOfService then some (b, s) else none
    | none => none

/-- A write of HUB_SPARE_CMD with GO = 1 (R30, R31). GO with ACTION 0 counts as a command that is done: it sets LAST_TARGET, RESULT 0
and COUNT, and fires event 6 (DESIGN CHOICE, log entry 132: R31 does not say whether it counts). -/
def Chip.spareGo (c : Chip) (ag : Agent) (target spare action : Nat) : Chip :=
  if !ag.pfSide then c
  else if c.on HUB_SPARE_STS.BUSY then c.put HUB_SPARE_STS.OVERRUN 1
  else
    let c := c.put HUB_SPARE_STS.LAST_TARGET target
    let run (c : Chip) (m : SpareCmd) : Chip := { c.put HUB_SPARE_STS.BUSY 1 with spareCmd := some m }
    let subst (sp : Nat) : Chip :=
      if !c.modes.sheltered then c.spareEnd 2
      else match c.slotOf target with
      | none =>
        let (v, c) := c.fresh
        c.spareEnd (v % 16)
      | some (b, _) => if !c.allIdle b then c.spareEnd 1
      else match (if sp = 31 then c.pickSpare b else if sp < 26 ∧ c.get (HUB_FORGE_STATUS.STATE sp) = 2 then some sp else none) with
        | none => c.spareEnd 3
        | some k => run c { target := target, spare := k, action := action, chosen := sp == 31 }
    if target ≥ 26 then c.spareEnd 6
    else if action = 1 then subst spare
    else if action = 2 then
      if !c.modes.sheltered then c.spareEnd 2 else run c { target := target, spare := 31, action := 2, chosen := false }
    else if action = 3 then
      (if c.get (HUB_FORGE_STATUS.STATE target) = 1 then subst 31
      else run c { target := target, spare := 31, action := 3, chosen := false })
    else c.spareEnd 0

/-- SPARE_SUBSTITUTE, SPARE_RETURN and SPARE_RETIRE (R30, R31). -/
def spareSubstitute (ag : Agent) (target spare : Nat) (c : Chip) : Chip := c.spareGo ag target spare 1
def spareReturn (ag : Agent) (target : Nat) (c : Chip) : Chip := c.spareGo ag target 31 2
def spareRetire (ag : Agent) (target : Nat) (c : Chip) : Chip := c.spareGo ag target 31 3

/-- The temper FIFO of a slot, and what its unit covers, goes with the slot to its new die (R143, R191). -/
def Chip.moveTemper (c : Chip) (b n sp : Nat) : Chip :=
  let x := c.tu n
  let c := (c.basinDies b).foldl (fun c m =>
    let y := c.tu m
    if y.covers.contains n then (c.setTu m { y with covers := y.covers.filter (· != n) }).temperState m else c) c
  let back := ((c.basinDies b).flatMap (fun m => (c.tu m).resume.filter (fun r => r.own == n)))
  let c := (c.basinDies b).foldl (fun c m => c.setTu m { c.tu m with resume := (c.tu m).resume.filter (fun r => r.own != n) }) c
  let own (r : TRun) : TRun := { r with own := if r.own = n then sp else r.own }
  let y := c.tu sp
  let c := c.setTu sp { y with q := x.q, resume := (x.run.toList ++ x.resume ++ back).map own, covers := x.covers }
  let c := c.setTu n { gen := x.gen }
  ((c.put (FGE_TEMPER_STS.STATE n) 0).put (FGE_TEMPER_STS.COVER_SLOT n) 7).temperState sp

/-- The slot of a die passes to a spare in a planned substitution (R22, R25): cistern contents and engine state do not go with it, and
the temper FIFO does. A basin out of service returns once its four dies and both stacks serve (R23, R484). -/
def Chip.swapDie (c : Chip) (n sp st : Nat) : Chip :=
  match c.slotOf n with
  | none => c
  | some (b, s) =>
    let (e, c) := c.newId
    let c := c.resetDie sp e
    let c := (c.unplace n).put (HUB_FORGE_STATUS.STATE n) st
    let c : Chip := { c.placeDie b s sp 1 with vacated := Map.erase c.vacated n }
    let ok : Bool := (List.range 4).all (fun t => c.get (HUB_FORGE_STATUS.STATE (c.slotDie b t)) == 1) && c.stacksOk b
    let c := if c.get (BSN_DIE_MAP.SLOTS b) = 0 ∧ ok then
        let c := (c.put (BSN_DIE_MAP.SLOTS b) 4).roleGen b (c.word (BSN_DIE_MAP b))
        c.setBs b { c.bs b with outOfService := false }
      else c
    ((if n = sp then c else c.moveTemper b n sp).loadLatches b s).fireB b 10

/-- SPARE_CMD_COMPLETE (R31): the running command does its work and ends; a return waits for its retest. The Active target of action 1
becomes Spare, and one that was Failed or Retired stays so (DESIGN CHOICE, log entry 133: R25 does not say). -/
def spareCmdComplete (c : Chip) : Chip :=
  match c.spareCmd with
  | none => c
  | some m =>
    if m.action = 2 then
      (match m.retest with
      | none => c
      | some good => c.spareEnd (if good then 0 else 4))
    else if m.spare < 26 then
      let old := c.get (HUB_FORGE_STATUS.STATE m.target)
      (c.swapDie m.target m.spare (if m.action = 3 then 5 else if old = 1 then 2 else old)).spareEnd 0
    else (c.put (HUB_FORGE_STATUS.STATE m.target) 5).spareEnd 0

/-! ### Spare lines and rows (R55-R57, R262) -/

/-- The spare register of an array: rows or columns. -/
def spareReg (col : Bool) (n m : Nat) : Reg := if col then CLS_SPARE_COLS n m else CLS_SPARE_ROWS n m

/-- A faulty line is mapped out: line 0-255, or 256 + i for spare i, which is then bad (R57). The lowest usable spare takes
its place. The flag says whether one did. A spare whose VALID is clear replaces no line: its BAD bit is set and GEN counts, and no other
spare is brought in (DESIGN CHOICE, log entry 142: R57 speaks of spares already mapped in). -/
def Chip.mapLine (c : Chip) (kc : Nat) (col : Bool) (line : Nat) : Chip × Bool :=
  let r := spareReg col (kc / 4) (kc % 4)
  let w := c.word r
  let i := line - 256
  let isSpare := decide (256 ≤ line)
  let w1 := if isSpare then setBits (setBits w (36 + i) 1 1) (32 + i) 1 0 else w
  let src := if isSpare then bits w (8 * i) 8 else line
  let gen (v : Nat) : Nat := setBits v 48 16 (bits v 48 16 + 1)
  if isSpare ∧ !bit w (32 + i) then (c.setWord r (gen w1), true)
  else match (List.range 4).find? (fun j => !bit w1 (32 + j) && !bit w1 (36 + j)) with
  | some j => (c.setWord r (gen (setBits (setBits w1 (8 * j) 8 src) (32 + j) 1 1)), true)
  | none => (if isSpare then c.setWord r (gen w1) else c, false)

/-- ARRAY_LINE_TEST_DONE (R55): `found` is the one faulty line the test isolates: column or row, and its number. -/
def arrayLineTestDone (kc : Nat) (found : Option (Bool × Nat)) (c : Chip) : Chip :=
  if c.get (CLS_ARRAY_STS.STATE (kc / 4) (kc % 4)) < 2 then c
  else
    let b := c.clBasin kc
    let c := c.put (CLS_ARRAY_STS.STATE (kc / 4) (kc % 4)) 0
    match found with
    | some (col, line) =>
      let (c, good) := c.mapLine kc col line
      if good then (if b < 6 then c.resume b else c) else c.dieLost (kc / 4)
    | none => c.dieLost (kc / 4)

/-- PLANNED_LINE_MAPPING (R56): at a kernel boundary of the cluster. -/
def plannedLineMapping (kc : Nat) (col : Bool) (line : Nat) (c : Chip) : Chip :=
  if (c.kernOf kc).isSome ∨ c.get (CLS_ARRAY_STS.STATE (kc / 4) (kc % 4)) ≠ 0 then c else (c.mapLine kc col line).1

end Sys2Proof.Machine
end

