-- ==== Sys2Proof/Machine/Fountain.lean ====
section
/-! DEFINITION. Fountain dies: frames, lanes and lasers, link acquisition, the sluice and the weir banks (09 R272-R306). -/
namespace Sys2Proof.Machine

/-! ### Ports (R17) -/

def portDie (p : Nat) : Nat := [0, 1, 0, 1, 2, 3, 2, 3].getD p 0
def portK (p : Nat) : Nat := [0, 0, 1, 1, 0, 0, 1, 1].getD p 0

def Chip.port (c : Chip) (p : Nat) : PortX := Map.get {} c.ports p
def Chip.setPort (c : Chip) (p : Nat) (x : PortX) : Chip := { c with ports := Map.put {} c.ports p x }

/-- Status and control fields of a port. -/
def Chip.pst (c : Chip) (p : Nat) (f : Nat → Nat → RF) : Nat := c.get (f (portDie p) (portK p))
def Chip.pput (c : Chip) (p : Nat) (f : Nat → Nat → RF) (v : Nat) : Chip := c.put (f (portDie p) (portK p)) v

def Chip.portState (c : Chip) (p : Nat) : Nat := c.pst p FNT_PORT_STS.STATE
def Chip.portUp (c : Chip) (p : Nat) : Bool := c.portState p == 3 || c.portState p == 4

/-- State and lane of a laser. -/
def Chip.laser (c : Chip) (p w : Nat) : Nat := c.get (FNT_LASER.STATE (portDie p) (portK p) w)

/-- Whether a laser is lit: Data, Spare or Mirroring (R273). -/
def Chip.lit (c : Chip) (p w : Nat) : Bool := decide (1 ≤ c.laser p w ∧ c.laser p w ≤ 3)

/-- The wavelengths that a port lights: its lit lasers, or the one that CAL action 1 lights alone (R279). -/
def Chip.lightMask (c : Chip) (p : Nat) : Nat :=
  (List.range 18).foldl (fun m w => m + 2 ^ w * b2n (match (c.port p).cal with
    | some (1, v) => v == w
    | _ => c.lit p w || (c.port p).training == some w)) 0

/-- Healthy spares are counted again (R299). -/
def Chip.countSpares (c : Chip) (p : Nat) : Chip :=
  c.pput p FNT_PORT_STS.SPARES_TX (satTo 2 ((List.range 18).filter (fun w => c.laser p w == 2)).length)

def Chip.setLaser (c : Chip) (p w st lane : Nat) : Chip :=
  ((c.put (FNT_LASER.STATE (portDie p) (portK p) w) st).put (FNT_LASER.LANE (portDie p) (portK p) w) lane).countSpares p

/-- What the light of a port is from here on (R273, R279). -/
def Chip.shine (c : Chip) (p : Nat) : Chip := c.emit (.light p (c.lightMask p))

/-- Field of a lane in a transmit or receive map, and the GEN of its register (R300). -/
def mapField (tx : Bool) (p lane : Nat) : RF :=
  let (d, k) := (portDie p, portK p)
  let r := if tx then (if lane < 8 then FNT_TX_MAP0 d k else FNT_TX_MAP1 d k) else (if lane < 8 then FNT_RX_MAP0 d k else FNT_RX_MAP1 d k)
  ⟨r, 5 * (lane % 8), 5⟩
def mapGen (tx : Bool) (p lane : Nat) : RF := ⟨(mapField tx p lane).reg, 48, 16⟩

def Chip.waveOf (c : Chip) (tx : Bool) (p lane : Nat) : Nat := c.get (mapField tx p lane)
def Chip.setWave (c : Chip) (tx : Bool) (p lane w : Nat) : Chip := (c.put (mapField tx p lane) w).inc (mapGen tx p lane)

/-- The lane a wavelength carries by a map. -/
def Chip.laneOf (c : Chip) (tx : Bool) (p w : Nat) : Option Nat := (List.range 16).find? (fun l => c.waveOf tx p l == w)

/-- The lasers of a port go dark: each that was lit is Off (R273, R297). -/
def Chip.lasersOff (c : Chip) (p : Nat) : Chip :=
  ((List.range 18).foldl (fun c w => if c.lit p w then c.setLaser p w 0 31 else c) c).shine p

/-- The lasers of a port that are Off are lit: one that the transmit map names carries its lane, any other is a spare (R273, R297); in
Compatibility mode spare lasers stay off (R356). -/
def Chip.lasersOn (c : Chip) (p : Nat) : Chip :=
  ((List.range 18).foldl (fun c w =>
    if c.laser p w ≠ 0 then (if !c.modes.native ∧ c.laser p w = 2 then c.setLaser p w 0 31 else c)
    else match c.laneOf true p w with
      | some l => c.setLaser p w 1 l
      | none => if c.modes.native then c.setLaser p w 2 31 else c) c).shine p

/-! ### Frames and codewords (R274, R275) -/

/-- Codewords of a frame, their length, their payload, the symbols one corrects: Swift RS(272,257), Stout (`fec` 1) RS(544,514). -/
def cwCount (fec : Nat) : Nat := if fec = 1 then 8 else 16
def cwLen (fec : Nat) : Nat := if fec = 1 then 544 else 272
def cwPay (fec : Nat) : Nat := if fec = 1 then 514 else 257
def cwFix (fec : Nat) : Nat := if fec = 1 then 15 else 7

/-- The codeword of a frame's symbol `s`: symbols are dealt round-robin in frame order. -/
def symCw (fec s : Nat) : Nat := s % cwCount fec

/-- The lanes of codeword `i`, its symbols alternating between the two of a pair. At half width (`kept` not empty) each of the eight
lanes carries two codewords of a frame (R296), here neighbouring ones (log entry 158). -/
def cwLanes (fec : Nat) (kept : List Nat) (i : Nat) : List Nat :=
  if fec = 1 then (if kept = [] then [2 * i, 2 * i + 1] else [kept.getD (2 * (i / 2)) 0, kept.getD (2 * (i / 2) + 1) 0])
  else if kept = [] then [i] else [kept.getD (i / 2) 0]

/-- The symbols that hold data unit `u`: 64 bytes after the 16 symbols of the control word. -/
def unitSyms (u : Nat) : List Nat :=
  (List.range ((512 * u + 511) / 10 - 512 * u / 10 + 1)).map (fun j => 16 + 512 * u / 10 + j)

/-- Whether an uncorrectable codeword holds a symbol of data unit `u`, or of the control word (R276). -/
def unitBad (fec : Nat) (bad : List Nat) (u : Nat) : Bool := bad.any (fun i => (unitSyms u).any (fun s => symCw fec s == i))
def wordBad (fec : Nat) (bad : List Nat) : Bool := bad.any (fun i => (List.range 16).any (fun s => symCw fec s == i))

/-- Symbol `s` of the frame of control word `w` and 5,120 bytes `data`. -/
def frameSym (w : Nat) (data : List Byte) (s : Nat) : Nat :=
  if s < 16 then bits w (10 * s) 10
  else
    let at' := 10 * (s - 16)
    bits (leNat ((data.drop (at' / 8)).take 3)) (at' % 8) 10

/-- Codeword `i` of a frame: its payload symbols, then its parity. -/
def codeword (fec w : Nat) (data : List Byte) (i : Nat) : List Nat :=
  let pay := (List.range (cwPay fec)).map (fun j => frameSym w data (cwCount fec * j + i))
  pay ++ Config.rsParity (cwLen fec) pay

/-- The symbols that lane `l` carries of a frame, in order. -/
def laneSyms (fec : Nat) (kept : List Nat) (w : Nat) (data : List Byte) (l : Nat) : List Nat :=
  (List.range (cwCount fec)).flatMap (fun i =>
    let ls := cwLanes fec kept i
    let cw := codeword fec w data i
    if !ls.contains l then []
    else if ls.length = 1 then cw
    else (List.range cw.length).filterMap (fun j => if j % 2 = ls.idxOf l then cw[j]? else none))

/-- The lanes that carry a frame. -/
def frameLanes (kept : List Nat) : List Nat := if kept = [] then List.range 16 else kept

/-! ### BER codes (R278) -/

/-- The code of a count with `m` mantissa bits and 4 exponent bits. -/
def berCode (m v : Nat) : Nat :=
  match (List.range 16).find? (fun e => decide (v >>> e < 2 ^ m)) with
  | some e => e * 2 ^ m + (v >>> e)
  | none => 15 * 2 ^ m + (2 ^ m - 1)

/-- The value of a code. -/
def berVal (m code : Nat) : Nat := code % 2 ^ m * 2 ^ (code / 2 ^ m)

/-- Whether a lane's corrected bits per 2^30, as their 16-bit code tells them, are below a mode's pre-FEC threshold: 1e-5 in Swift mode,
2e-4 in Stout mode (R275, R278, R283). -/
def berBelow (fec v : Nat) : Bool :=
  let u := berVal 12 (berCode 12 v)
  if fec = 1 then decide (u * 5000 < 2 ^ 30) else decide (u * 100000 < 2 ^ 30)

/-- Whether a path loss, in 0.001 dB, plus the fade reserve is within a mode's budget: launch at -2 dBm against -11 or -13 dBm, with 1.5 dB
held in reserve (R280, R283). -/
def lossOk (fec loss : Nat) : Bool := decide (loss + 1500 ≤ if fec = 1 then 11000 else 9000)

def berField (p lane : Nat) : RF := ⟨FNT_LANE_BER (portDie p) (portK p) (lane / 4), 16 * (lane % 4), 16⟩

/-! ### Control words (R277, R279) -/

/-- A control waits to be sent on a port: its type, and bits [63:20] of the word. -/
def Chip.sendCtl (c : Chip) (p ty arg : Nat) : Chip := let x := c.port p; c.setPort p { x with ctl := x.ctl ++ [(ty, arg)] }

def remapArg (lane w f kind : Nat) : Nat := fld 20 4 lane + fld 24 5 w + fld 29 16 f + fld 45 1 kind

/-- The signed 16-bit difference of frame numbers is not negative: frame `a` is at or past `f` (R279). -/
def framePast (a f : Nat) : Bool := decide (subMod 16 a f < 32768)

def Chip.busySet (c : Chip) (p : Nat) : Chip :=
  let x := c.port p
  c.pput p FNT_PORT_STS.REMAP_BUSY (b2n (x.tx.isSome || x.rx.isSome))

/-- The FEC mode that a port names and acquires in: Stout during a start-up calibration at either end (R283, R291, R292), RS(544,514)
alone in Compatibility mode (R356), and else the configured one. -/
def Chip.fecNow (c : Chip) (p : Nat) : Nat :=
  let x := c.port p
  if x.startup ∨ x.peerStart ∨ !c.modes.native then 1 else c.pst p FNT_PORT_CTL.FEC

/-- The ID control of a port (R279). -/
def Chip.idArg (c : Chip) (p : Nat) : Nat :=
  let x := c.port p
  fld 20 18 (bits (c.word FAB_PHYS) 0 18) + fld 38 3 p + fld 41 1 (c.fecNow p) + fld 42 2 (c.pst p FNT_PORT_STS.SPARES_TX)
    + fld 44 16 Config.linkVersion + fld 60 1 (b2n x.startup)

/-! ### Retraining and half width (R283, R296) -/

/-- A port leaves service for a new acquisition. A fade remap that runs waits again for the link (R293); an abrupt one has its lane on
the spare from here on (log entry 159). The ID exchange begins (R283). -/
def Chip.acquire (c : Chip) (p : Nat) : Chip :=
  let x := c.port p
  let c := match x.tx with
    | some m =>
      if m.abrupt then (if m.switched then c else c.setWave true p m.lane m.wave)
      else if c.laser p m.wave = 3 then c.setLaser p m.wave 2 31 else c
    | none => c
  let due := match x.tx with
    | some m => if m.abrupt ∨ x.due.contains m.lane then x.due else m.lane :: x.due
    | none => x.due
  let c := (c.pput p FNT_PORT_STS.STATE 2).pput p FNT_PORT_STS.LOW_MARGIN 0
  (c.setPort p { x with tx := none, rx := none, due := due, downs := [], idDue := true, peerStart := false, cal := none, bad := [],
                        rxTail := none, pools := c.word FAB_POOL % 2 ^ 32 }).busySet p

/-- A retrain commanded here: DARK with cause 3, then acquisition (R283). -/
def Chip.retrainNow (c : Chip) (p : Nat) : Chip := (c.sendCtl p 4 (fld 20 4 3)).acquire p

/-- RETRAIN (R283, R297). -/
def retrain (ag : Agent) (p : Nat) (c : Chip) : Chip :=
  if !ag.top ∨ p ≥ 8 ∨ c.portState p = 0 ∨ c.portState p = 7 then c else c.retrainNow p

/-! ### Remaps (R293-R296) -/

/-- A healthy spare not yet tried. -/
def Chip.spareWave (c : Chip) (p : Nat) (tried : List Nat) : Option Nat :=
  (List.range 18).find? (fun w => c.laser p w == 2 && !tried.contains w)

/-- Whether a port's circuit is changing: the map that the sluice is about to take has another code for it (R285, R293). -/
def Chip.circuitChanging (c : Chip) (p : Nat) : Bool :=
  match c.sluiceNext with
  | some m => bits m (4 * p) 4 != bits (c.word SLC_MAP) (4 * p) 4
  | none => false

/-- A fade remap of a lane starts mirroring (R294 step 1); while another runs, the link is not Up or its circuit is changing, it waits
(R293). -/
def Chip.startFade (c : Chip) (p lane : Nat) (tried : List Nat) : Chip :=
  let x := c.port p
  if !c.modes.native then c
  else if x.tx.isSome ∨ !c.portUp p ∨ c.circuitChanging p then (if x.due.contains lane then c else c.setPort p { x with due := x.due ++ [lane] })
  else match c.spareWave p tried with
    | none => c
    | some w =>
      let f := (x.frame + 128) % 65536
      let m : Remap := { lane := lane, wave := w, old := c.waveOf true p lane, f := f, abrupt := false, tried := tried }
      let c := (c.setLaser p w 3 lane).setPort p { x with tx := some m }
      (c.sendCtl p 1 (remapArg lane w f 0)).busySet p

/-- A lane whose laser is out of service moves to a healthy spare at once, or its direction retrains at half width (R295, R296). -/
def Chip.startAbrupt (c : Chip) (p lane : Nat) : Chip :=
  let x := c.port p
  match c.spareWave p [] with
  | none => (c.setPort p { x with half := true }).retrainNow p
  | some w =>
    let f := (x.frame + 64) % 65536
    let m : Remap := { lane := lane, wave := w, old := c.waveOf true p lane, f := f, abrupt := true }
    let c := (c.setLaser p w 1 lane).setPort p { x with tx := some m }
    (c.sendCtl p 1 (remapArg lane w f 1)).busySet p

/-- The remap that has waited longest starts (R293). -/
def Chip.nextDue (c : Chip) (p : Nat) : Chip :=
  let x := c.port p
  match x.due with
  | [] => c
  | l :: r =>
    if x.tx.isSome ∨ !c.portUp p ∨ c.circuitChanging p then c
    else
      let c := c.setPort p { x with due := r }
      if c.laser p (c.waveOf true p l) ≥ 4 then c.startAbrupt p l else c.startFade p l []

/-- A remap ends: it is counted, and the next starts. -/
def Chip.remapEnd (c : Chip) (p : Nat) : Chip :=
  let c := c.setPort p { c.port p with tx := none }
  ((c.count (FNT_REMAPS (portDie p) (portK p)) 1).busySet p).nextDue p

/-- A lane is lost at the transmitter (R295); in Compatibility mode the link retrains (R356). `st` is the state the old laser enters. A
fade remap that runs gives way and waits; after an abrupt one this lane is the next (R293). -/
def Chip.laneLost (c : Chip) (p lane st : Nat) : Chip :=
  let c := (c.pput p FNT_PORT_STS.LANE_EV 1).fire 8
  if !c.modes.native then c.retrainNow p
  else
    let x := c.port p
    let c := match x.tx with
      | some m =>
        if m.abrupt then c
        else
          let c := if c.laser p m.wave = 3 then c.setLaser p m.wave 2 31 else c
          c.setPort p { x with tx := none, due := if m.lane = lane ∨ x.due.contains m.lane then x.due else m.lane :: x.due }
      | none => c
    let c := c.setLaser p (c.waveOf true p lane) st 31
    let x := c.port p
    if x.tx.isSome then c.setPort p { x with due := lane :: x.due.filter (· != lane) } else c.startAbrupt p lane

/-- LASER_EVALUATION (R293, R303): what the assay unit measures and predicts for laser `w` of port `p` (fade in 0.01 dB,
BER in corrected bits per 2^30), and the BER counts of received lanes over the last 1 ms. Comparisons use the value that the 12-bit code
of R277 tells (R278). -/
def laserEvaluation (p w fade fadePred berPred power bias headroom : Nat) (rx : List (Nat × Nat)) (c : Chip) : Chip :=
  if p ≥ 8 ∨ w ≥ 18 then c
  else
    let (d, k) := (portDie p, portK p)
    let c := ((c.put (FNT_LASER.FADE d k w) fade).put (FNT_LASER.POWER d k w) power).put (FNT_LASER.BIAS d k w) bias
    let c := c.put (FNT_LASER.HEADROOM d k w) headroom
    let c := rx.foldl (fun c e => if e.1 < 16 then c.put (berField p e.1) (berCode 12 e.2) else c) c
    let past := decide (fadePred > 10 * c.pst p FNT_PORT_CTL.SWAP_DB) || decide (berVal 8 (berCode 8 berPred) > c.pst p FNT_PORT_CTL.SWAP_BER)
    match c.laneOf true p w with
    | some l => if past ∧ c.laser p w = 1 ∧ c.pst p FNT_PORT_CTL.HOLD_SPARE = 0 then c.startFade p l [] else c
    | none => c

/-- REMAP_GO (R297). -/
def remapGo (ag : Agent) (p lane : Nat) (c : Chip) : Chip := if ag.top ∧ p < 8 ∧ lane < 16 then c.startFade p lane [] else c

/-- REMAP (R294, R295): the receiver's part; `same` where 32 compared frames of the mirrored lane match. It answers the receiver's
LANE_DOWN for the lane (R276). -/
def remapRx (p lane w f kind : Nat) (same : Bool) (c : Chip) : Chip :=
  if p ≥ 8 ∨ lane ≥ 16 ∨ w ≥ 18 then c
  else
    let done := c.waveOf false p lane == w
    let good := kind == 1 || same || done
    let x := c.port p
    let c := c.setPort p { x with downs := x.downs.filter (· != lane), rx := if good ∧ !done then some (lane, w, f % 65536) else x.rx }
    (c.sendCtl p 2 (remapArg lane w f kind + fld 46 1 (b2n (!good)))).busySet p

/-- REMAP_ACK (R294). -/
def remapAck (p lane w f : Nat) (refuse : Bool) (c : Chip) : Chip :=
  let x := c.port p
  match x.tx with
  | some m =>
    if m.lane ≠ lane ∨ m.wave ≠ w ∨ m.f ≠ f % 65536 then c
    else if !refuse then
      (if m.switched ∧ framePast x.frame m.f then c.remapEnd p else c.setPort p { x with tx := some { m with acked := true } })
    else if m.abrupt then c
    else
      let c := (c.setLaser p w 2 31).setPort p { x with tx := none }
      (c.startFade p lane (w :: m.tried)).busySet p
  | none => c

/-- REMAP_SWITCH (R294 step 4, R295): frame F has passed. An abrupt remap moves the lane without its acceptance, and ends when that
has come (R276). -/
def remapSwitch (p : Nat) (c : Chip) : Chip :=
  let x := c.port p
  match x.tx with
  | some m =>
    if !framePast x.frame m.f ∨ (!m.abrupt ∧ !m.acked) then c
    else
      let c := if m.switched then c else c.setWave true p m.lane m.wave
      let c := if m.abrupt then c else (c.setLaser p m.old 5 31).setLaser p m.wave 1 m.lane
      if m.acked then c.remapEnd p else c.setPort p { x with tx := some { m with switched := true } }
  | none => c

/-- REMAP_RETRY (R294): no reply by frame F + 1,024. -/
def remapRetry (p : Nat) (c : Chip) : Chip :=
  let x := c.port p
  match x.tx with
  | some m =>
    if m.acked ∨ !framePast x.frame (m.f + 1024) then c
    else
      let f := (x.frame + if m.abrupt then 64 else 128) % 65536
      (c.setPort p { x with tx := some { m with f := f } }).sendCtl p 1 (remapArg m.lane m.wave f (b2n m.abrupt))
  | none => c

/-- LANE_DOWN received (R295): the laser was not found at fault here, so it is Parked. -/
def laneDown (p lane : Nat) (c : Chip) : Chip :=
  if p ≥ 8 ∨ lane ≥ 16 then c
  else match (c.port p).tx with
    | some m => if m.lane = lane ∧ m.abrupt then c else c.laneLost p lane 4
    | none => c.laneLost p lane 4

/-- LASER_LIGHT_DROP (R295): the monitor photodiode sees the light of laser `w` fall; the laser has Failed. -/
def laserLightDrop (p w : Nat) (c : Chip) : Chip :=
  if p ≥ 8 ∨ w ≥ 18 then c
  else
    let st := c.laser p w
    if st = 1 then
      (match c.laneOf true p w with
      | some l => c.laneLost p l 6
      | none => c.setLaser p w 6 31)
    else if st = 3 then
      let x := c.port p
      let c := c.setLaser p w 6 31
      (match x.tx with
      | some m => ((c.setPort p { x with tx := none }).startFade p m.lane (w :: m.tried)).busySet p
      | none => c)
    else if st = 2 then c.setLaser p w 6 31
    else c

/-! ### Other controls (R279, R290, R292) -/

/-- DARK received (R279, R282, R283). -/
def dark (p cause lead : Nat) (c : Chip) : Chip :=
  if p ≥ 8 then c
  else
    let _ := lead
    let c := (c.pput p FNT_PORT_STS.DARK_SEEN 1).pput p FNT_PORT_STS.DARK_CAUSE cause
    let c := c.setPort p { c.port p with darkAt := some c.ticks }
    if cause = 3 ∧ (c.portUp p ∨ c.portState p = 6) then c.acquire p else c

/-- ID received (R279, R292). -/
def idCtl (p coord port : Nat) (fec : Bool) (spares ver : Nat) (startup : Bool) (c : Chip) : Chip :=
  if p ≥ 8 then c
  else
    let _ := ver
    let c := ((c.pput p FNT_PORT_STS.PEER coord).pput p FNT_PORT_STS.PEER_PORT port).pput p FNT_PORT_STS.SPARES_RX spares
    c.setPort p { c.port p with peerFec := fec, peerStart := startup }

/-- CAL received (R279, R290): 0 ends, 1 lights only the wavelength, 2 sends a skew marker; other actions have no meaning. -/
def cal (p w action : Nat) (c : Chip) : Chip :=
  if p ≥ 8 ∨ action > 2 then c
  else
    let c := c.setPort p { c.port p with cal := if action = 0 then none else some (action, w) }
    if action = 2 then c.emit (.marker p w) else c.shine p

/-! ### Light and acquisition (R282, R283, R292, R340) -/

/-- The link layer starts anew: the replay buffer is discarded (R330) and both directions number from 0 (log entry 160). -/
def PortX.relink (x : PortX) : PortX :=
  { x with replay := [], first := 0, stream := [], restart := false, rxNum := 0, request := none, lastReq := 0, skip := 0, rxTail := none }

/-- LOSS_OF_LIGHT (R282, R330): the report carries the cause of a DARK of the last 300 µs, 600 slow ticks. -/
def lossOfLight (p : Nat) (c : Chip) : Chip :=
  if p ≥ 8 ∨ c.portState p = 0 ∨ c.portState p = 7 ∨ c.portState p = 5 then c
  else
    let x := c.port p
    let cause := match x.darkAt with
      | some t => if c.ticks ≤ t + 600 then some (c.pst p FNT_PORT_STS.DARK_CAUSE) else none
      | none => none
    let c := c.setPort p { x.relink with losCause := cause }
    let c := (c.pput p FNT_PORT_STS.STATE 5).pput p FNT_PORT_STS.LOS_EV 1
    (c.count (FNT_LOS (portDie p) (portK p)) 1).fire 7

/-- LIGHT_DETECTED (R283): acquisition starts on a terminated port in service. -/
def lightDetected (p : Nat) (c : Chip) : Chip :=
  if p ≥ 8 ∨ c.pst p FNT_PORT_CTL.ENABLE = 0 ∨ c.pst p FNT_PORT_CTL.LOOP = 1 ∨ c.portUp p ∨ c.portState p = 7
      ∨ bits (c.word SLC_MAP) (4 * p) 4 ≠ 8 then c
  else c.acquire p

/-- A Parked laser is evaluated again (R273): one whose wavelength passes on this circuit is a spare. -/
def Chip.reparked (c : Chip) (p : Nat) (good : List Nat) : Chip :=
  good.foldl (fun c w => if w < 18 ∧ c.laser p w = 4 then c.setLaser p w 2 31 else c) c

/-- Every lane whose laser is out of service takes a healthy spare, at a retrain back to full width (R296). -/
def Chip.reseat (c : Chip) (p : Nat) : Chip :=
  (List.range 16).foldl (fun c l =>
    if c.laser p (c.waveOf true p l) = 1 then c
    else match c.spareWave p [] with
      | some w => (c.setWave true p l w).setLaser p w 1 l
      | none => c) c

/-- The eight healthy lanes of lowest reported BER, or in Stout mode the four whole pairs of lowest sum (R296). -/
def Chip.bestLanes (c : Chip) (p fec : Nat) : List Nat :=
  let n := if fec = 1 then 2 else 1
  let mine (u : Nat) : List Nat := (List.range n).map (fun i => n * u + i)
  let units := (List.range (16 / n)).filter (fun u => (mine u).all (fun l => c.laser p (c.waveOf true p l) == 1))
  let cost (u : Nat) : Nat := (mine u).foldl (fun s l => s + berVal 8 (Map.get 0 (c.port p).peerBer l)) 0
  let first (v u : Nat) : Bool := decide (cost v < cost u) || (cost v == cost u && decide (v < u))
  (units.filter (fun u => decide ((units.filter (fun v => first v u)).length < 8 / n))).flatMap mine

/-- The far end's transmit map as this acquisition received it (R300). -/
def Chip.takeRxMap (c : Chip) (p : Nat) (m : List Nat) : Chip :=
  (List.range 16).foldl (fun c l => if c.waveOf false p l = m.getD l 31 then c else c.setWave false p l (m.getD l 31)) c

/-- Lansel's comparison of the far end with the peer the shape expects (R340). -/
def Chip.peerCheck (c : Chip) (p : Nat) (peerOk : Bool) : Chip :=
  let pb := c.get FAB_PHYS.PEER_BAD
  let nb := setBits pb p 1 (b2n (!peerOk))
  if nb = pb then c else (c.put FAB_PHYS.PEER_BAD nb).fire 16

/-- ACQUISITION_COMPLETE (R273, R283, R292, R296, R340, R356): the round trip in ns; the received data lanes with their corrected bits per
2^30 (16, or the eight of a far end at half width); the path loss of each wavelength in 0.001 dB; the far end's map; Parked wavelengths
that its receiver now takes; whether the far end is in this part's link mode, and is the peer that the shape expects. -/
def acquisitionComplete (p rtt : Nat) (bers : List (Nat × Nat)) (losses map parkedOk : List Nat) (peerMode peerOk : Bool) (c : Chip) : Chip :=
  if p ≥ 8 ∨ c.portState p ≠ 2 ∨ !peerMode then c
  else
    let x := c.port p
    let fec := c.fecNow p
    if !x.startup ∧ !x.peerStart ∧ c.modes.native ∧ x.peerFec ≠ (fec == 1) then (c.pput p FNT_PORT_STS.STATE 6).fire 9
    else if !bers.all (fun e => berBelow fec e.2) then c
    else
      let c := (c.takeRxMap p map).reparked p parkedOk
      let half := x.half && decide (((List.range 18).filter (fun w => c.lit p w)).length < 16)
      let c := if x.half ∧ !half then c.reseat p else c
      let margin := losses.all (lossOk fec)
      let c := (c.pput p FNT_PORT_STS.STATE (if half then 4 else 3)).pput p FNT_PORT_STS.FEC_ACT fec
      let c := (c.pput p FNT_PORT_STS.RTT (satTo 0xFFFF rtt)).pput p FNT_PORT_STS.LOW_MARGIN (b2n (!margin))
      let c := if margin then c else c.fire 9
      let c := c.setPort p { x with half := half, lanes := if half then c.bestLanes p fec else [],
                                    rxLanes := if bers.length = 8 then bers.map Prod.fst else [],
                                    used := [], freed := [], rxFreed := [], bad := [], losCause := none }
      ((c.countSpares p).peerCheck p peerOk).nextDue p

/-! ### The sluice (R284-R287, R305, R306) -/

def mapCode (m p : Nat) : Nat := bits m (4 * p) 4

/-- The bar map of R284. -/
def barMap : Nat := 0x67452301

/-- The check of a map: 0 valid, 1 not symmetric or reserved, 2 an express of a Lost port (R285, R306). -/
def Chip.mapCheck (c : Chip) (m : Nat) : Nat :=
  let codes := (List.range 8).map (fun p => (p, mapCode m p))
  let lost (p : Nat) : Bool := bit (c.get SLC_STS.LOST) (portDie p)
  if codes.any (fun e => decide (e.2 ≥ 0xA)) || codes.any (fun e => decide (e.2 < 8) && (e.2 == e.1 || mapCode m e.2 != e.1)) then 1
  else if codes.any (fun e => decide (e.2 < 8) && (lost e.1 || lost e.2)) then 2
  else 0

/-- A command of the sluice ends (R306). -/
def Chip.sluiceEnd (c : Chip) (res : Nat) : Chip :=
  (((c.put SLC_STS.BUSY 0).put SLC_STS.RESULT res).inc SLC_STS.APPLIES).fire 10

/-- APPLY of a map (R285): steps 1 and 2. In Compatibility mode it is ignored (R356). -/
def Chip.applyMap (c : Chip) (ag : Agent) (m : Nat) : Chip :=
  if !ag.top ∨ !c.modes.native then c
  else if c.on SLC_STS.BUSY then c.put SLC_STS.OVERRUN 1
  else
    let r := c.mapCheck m
    if r ≠ 0 then c.sluiceEnd r
    else
      let old := c.word SLC_MAP
      let c := (List.range 8).foldl (fun c p =>
        if mapCode old p = 8 ∧ mapCode m p ≠ 8 then c.sendCtl p 4 (fld 20 4 0 + fld 24 8 (c.get SLC_CTL.LEAD)) else c) c
      { c.put SLC_STS.BUSY 1 with sluiceNext := some m }

/-- APPLY and BAR (R285, R306). -/
def apply (ag : Agent) (c : Chip) : Chip := c.applyMap ag (c.word SLC_MAP_NEXT % 2 ^ 32)
def bar (ag : Agent) (c : Chip) : Chip := c.applyMap ag barMap

/-- The cells of the sluice take a map: a Lost port keeps its code, newly terminated ports start acquisition, and ports no
longer terminated leave service (R285, R299). -/
def Chip.takeMap (c : Chip) (m : Nat) : Chip :=
  let old := c.word SLC_MAP
  (List.range 8).foldl (fun c p =>
    let a := mapCode old p
    let b := mapCode m p
    if a = 0xB then c
    else
      let c := c.put ⟨SLC_MAP, 4 * p, 4⟩ b
      if a = b then c
      else if b = 8 then (if c.pst p FNT_PORT_CTL.ENABLE = 1 then c.acquire p else c.pput p FNT_PORT_STS.STATE 0)
      else c.pput p FNT_PORT_STS.STATE 7) c

/-- SLUICE_SWITCH (R285 steps 3 and 4). -/
def sluiceSwitch (c : Chip) : Chip :=
  match c.sluiceNext with
  | none => c
  | some m => (({ c with sluiceNext := none }.takeMap m).inc SLC_MAP.GEN).sluiceEnd 0

/-- FOUNTAIN_DIE_LOSS (R286). -/
def fountainDieLoss (d : Nat) (c : Chip) : Chip :=
  if d ≥ 4 ∨ bit (c.get SLC_STS.LOST) d then c
  else
    let c := c.put SLC_STS.LOST (setBits (c.get SLC_STS.LOST) d 1 1)
    (List.range 8).foldl (fun c p =>
      if portDie p ≠ d then c
      else
        let q := mapCode (c.word SLC_MAP) p
        let c := if q < 8 ∧ portDie q ≠ d then (c.put ⟨SLC_MAP, 4 * q, 4⟩ 9).pput q FNT_PORT_STS.STATE 7 else c
        (c.put ⟨SLC_MAP, 4 * p, 4⟩ 0xB).pput p FNT_PORT_STS.STATE 0) c

/-! ### Returning a laser, weir banks, calibration (R288-R292, R298, R304) -/

/-- RETURN_GO (R298). -/
def returnGo (ag : Agent) (p w : Nat) (c : Chip) : Chip :=
  if !ag.top ∨ p ≥ 8 ∨ w ≥ 18 ∨ !c.portUp p ∨ c.laser p w < 4 then c else (c.setPort p { c.port p with training := some w }).shine p

/-- LASER_RETURN_DONE (R298): with the fade (0.01 dB) and BER that training found. -/
def laserReturnDone (p w fade ber : Nat) (c : Chip) : Chip :=
  let x := c.port p
  if p ≥ 8 ∨ x.training ≠ some w then c
  else
    let good := decide (fade < 10 * c.pst p FNT_PORT_CTL.SWAP_DB) && decide (ber < c.pst p FNT_PORT_CTL.SWAP_BER)
    let c := c.setPort p { x with training := none }
    (c.put (FNT_LASER.FADE (portDie p) (portK p) w) fade).setLaser p w (if good then 2 else 6) 31

/-- Whether R288 and R290 allow a measurement: one that needs the far end's help only in a calibration, whose link phase runs with the
link up in Stout mode (R291), or of wavelengths that carry no lane. -/
def Chip.weirOk (c : Chip) (p kind w v integ : Nat) : Bool :=
  let free (x : Nat) : Bool := (c.port p).startup || (c.laneOf false p x).isNone
  decide (1 ≤ kind ∧ kind ≤ 4 ∧ integ ≤ 4 ∧ w < 18)
  && (if kind = 2 then decide (v < 18) && (c.portState p == 1 || (c.portUp p && free v))
      else if kind = 3 then decide (v < 18) && (c.portState p == 1 || (c.portUp p && free w && free v))
      else true)

/-- WEIR_MEASURE (R304). -/
def weirMeasure (ag : Agent) (p kind w v integ : Nat) (c : Chip) : Chip :=
  if !ag.top ∨ p ≥ 8 then c
  else if c.pst p FNT_WEIR_RES.BUSY = 1 ∨ !c.weirOk p kind w v integ then c.pput p FNT_WEIR_RES.ERR 1
  else
    let c := ((c.pput p FNT_WEIR_RES.BUSY 1).pput p FNT_WEIR_RES.DONE 0).pput p FNT_WEIR_RES.ERR 0
    if kind = 2 then (c.setPort p { c.port p with calTo := some v }).sendCtl p 6 (fld 20 5 v + fld 25 3 1)
    else if kind = 3 then (c.setPort p { c.port p with calTo := some w }).sendCtl p 6 (fld 20 5 w + fld 25 3 2) else c

/-- WEIR_MEASURE_DONE (R304): the value and the effective bits that the integration gave; a CAL that it needed ends (R279). -/
def weirMeasureDone (p value enob : Nat) (c : Chip) : Chip :=
  if p ≥ 8 ∨ c.pst p FNT_WEIR_RES.BUSY = 0 then c
  else
    let c := ((c.pput p FNT_WEIR_RES.VALUE value).pput p FNT_WEIR_RES.ENOB enob).pput p FNT_WEIR_RES.DONE 1
    let c := c.pput p FNT_WEIR_RES.BUSY 0
    match (c.port p).calTo with
    | some w => (c.setPort p { c.port p with calTo := none }).sendCtl p 6 (fld 20 5 w)
    | none => c

/-- CALIBRATION_COMMIT (R280, R291, R292): the link phase of start-up ends. The path loss of each wavelength, in 0.001 dB, is held against
the configured mode, and the record takes the next SEQ of its two slots. -/
def calibrationCommit (p : Nat) (losses : List Nat) (c : Chip) : Chip :=
  let x := c.port p
  if p ≥ 8 ∨ !x.startup ∨ !c.portUp p then c
  else
    let c := c.setPort p { x with startup := false }
    let c := { c with calSeq := Map.put 0 c.calSeq p (Map.get 0 c.calSeq p + 1) }
    let c := if losses.all (lossOk (c.fecNow p)) then c else c.fire 9
    c.retrainNow p

end Sys2Proof.Machine
end

