-- ==== Sys2Proof/Machine/Link.lean ====
section
/-! DEFINITION. The link layer of an optical port and routing between ports (10 R314-R323, R330, R333-R336; 11 R347-R352). -/
namespace Sys2Proof.Machine

/-! ### The mesh (R14, R15, R19) -/

/-- The die whose router serves a mesh end point, for traffic with die `m`; none where no router of it works. -/
def Chip.endDie (c : Chip) (m e : Nat) : Option Nat :=
  if e < 32 then some e else if e < 60 then c.stackEntry m (e - 40) else if e < 100 then some (c.slotDie (e - 60) 0) else none

/-- The path of a packet on the mesh, by the routers it passes; `out` is the fountain die of one that leaves the package. -/
def Chip.pathOf (c : Chip) (k : MeshPkt) (out : Option Nat) : Option (List Nat) :=
  let near (e : Nat) : Nat := if e < 32 then e else if e < 60 then (stackRouters (e - 40)).headD 0 else c.slotDie (e - 60) 0
  let fin := match out with
    | some n => some n
    | none => c.endDie (near k.src) k.dst
  match fin with
  | none => none
  | some n => match c.endDie n k.src with
    | some m => c.meshPath m n
    | none => none

/-- The packet of this package's mesh that header and payload name, where it may arrive now: it is the first between its end points on
its runnel, and a path stands (R14, R15). -/
def Chip.meshFirst (c : Chip) (w : Nat) (payload : List Byte) (out : Option Nat) : Option MeshPkt :=
  match c.mesh.find? (fun k => k.hdr == w && k.payload == payload) with
  | none => none
  | some k =>
    if (c.mesh.find? (fun j => j.src == k.src && j.dst == k.dst && bits j.hdr 4 2 == bits w 4 2)) == some k ∧ (c.pathOf k out).isSome
    then some k else none

/-- Whether a packet may arrive: one from an optical port, or the first of its kind on the mesh. -/
def Chip.comes (c : Chip) (w : Nat) (payload : List Byte) (via out : Option Nat) : Bool :=
  via.isSome || (c.meshFirst w payload out).isSome

/-- The mesh without a packet that has arrived. -/
def Chip.took (c : Chip) (w : Nat) (payload : List Byte) (via out : Option Nat) : Chip :=
  match via, c.meshFirst w payload out with
  | none, some k => { c with mesh := c.mesh.erase k }
  | _, _ => c

/-- A packet arrives at its end point and `f` acts on it. -/
def Chip.arrive (c : Chip) (w : Nat) (payload : List Byte) (via : Option Nat) (f : Chip → Chip) : Chip :=
  if c.comes w payload via none then f (c.took w payload via none) else c

/-! ### Frames (R274-R279, R316-R319) -/

/-- The bytes of a packet as the link carries them (R307); the layout of the S5 header of Compatibility mode stands nowhere, so there
they are the first 24 bytes of the Native one (R356, log entry 161); a stomped packet ends in the inverted CRC-32 (R320). -/
def Chip.pktData (c : Chip) (k : LinkPkt) : List Byte :=
  leBytes (if c.modes.native then 32 else 24) k.hdr ++ k.payload
    ++ (if k.payload = [] then [] else leBytes 4 (crc32 k.payload ^^^ if k.stomp then 0xFFFFFFFF else 0))

/-- Bytes and credits of a packet (R307, R316, R356). -/
def Chip.pktSize (c : Chip) (k : LinkPkt) : Nat := pktBytes c.modes.native k.payload.length
def Chip.pktCredits (c : Chip) (k : LinkPkt) : Nat := ceilDiv (c.pktSize k) 64

/-- A packet starts on a link: its bytes wait for frames. -/
def Chip.sendLink (c : Chip) (p : Nat) (k : LinkPkt) : Chip :=
  let x := c.port p
  (c.setPort p { x with stream := x.stream ++ c.pktData k }).emit (.link p k.hdr k.payload)

/-- The LINK field a port sends in frame `f` (R317). -/
def PortX.linkField (x : PortX) (f : Nat) : Nat :=
  fld 0 16 (x.rxNum + 65535) + fld 16 16 (x.request.getD 0) + fld 32 1 (b2n x.request.isSome) + fld 33 1 (b2n x.restart)
    + fld 34 3 (f % 8) + fld 37 20 (Map.get 0 x.rxFreed (f % 8))

/-- The control that a frame carries: one that waits, an ID that is due, or a LANE_DOWN that no REMAP has answered (R276, R279). -/
def Chip.nextCtl (c : Chip) (p : Nat) : Nat × Nat × PortX :=
  let x := c.port p
  let idDue := x.idDue || (c.portUp p && x.frame % 64 == 0) || c.portState p == 2
  match x.ctl with
  | (t, a) :: r => (t, a, { x with ctl := r, idDue := idDue })
  | [] =>
    if idDue then (5, c.idArg p, { x with idDue := false })
    else match x.downs with
      | l :: r => (3, fld 20 4 l, { x with downs := r ++ [l] })
      | [] => (0, 0, x)

/-- The 5,120 data bytes of a port's next frame; what fills the units that no packet uses is free. -/
def Chip.frameData (c : Chip) (p : Nat) : List Byte :=
  let d := (c.port p).stream.take 5120
  d ++ (List.range (5120 - d.length)).map (fun i => Config.freeByte c.free i)

/-- FRAME_TRANSMIT (R274, R275, R277, R279): the control word, and the symbols of each lane. -/
def frameTransmit (p : Nat) (c : Chip) : Chip :=
  if p ≥ 8 ∨ c.portState p = 0 ∨ c.portState p = 7 then c
  else
    let f := (c.port p).frame
    let (ty, arg, x) := c.nextCtl p
    let ber := berCode 8 (berVal 12 (c.get (berField p (f % 16))))
    let low := fld 0 16 f + fld 16 4 ty + arg + fld 64 64 (x.linkField f) + fld 128 12 ber + fld 140 4 (f % 16)
    let w := low + fld 144 16 (crc16 (leBytes 18 low))
    let fec := c.pst p FNT_PORT_STS.FEC_ACT
    let data := c.frameData p
    let (_, c) := c.fresh
    let c := c.setPort p { x with frame := (f + 1) % 65536, restart := false, stream := x.stream.drop 5120 }
    (c.emit (.coded p ((frameLanes x.lanes).map (fun l => (l, laneSyms fec x.lanes w data l))))).emit (.frame p w)

/-- Packets of the replay buffer that an ACK covers leave it (R318). -/
def PortX.acked (x : PortX) (ack : Nat) : PortX :=
  let n := subMod 16 (ack + 1) x.first
  if n ≤ x.replay.length then { x with replay := x.replay.drop n, first := (x.first + n) % 65536 } else x

/-- Packets from number `n` on are sent again (R318); bytes not yet sent belong to them, and go with them (log entry 162). -/
def Chip.resendFrom (c : Chip) (p n : Nat) : Chip :=
  let x := c.port p
  let k := subMod 16 n x.first
  if k > x.replay.length then c
  else (x.replay.drop k).foldl (fun c q => c.sendLink p q) (c.setPort p { x with restart := true, stream := [] })

/-- A replay request is acted on once the control word's CRC checks (R319); replay is held while an abrupt remap waits for its frame
(R295). -/
def Chip.takeRequest (c : Chip) (p w : Nat) : Chip :=
  let x := c.port p
  let l := bits w 64 64
  let hold := match x.tx with
    | some m => m.abrupt && !framePast x.frame m.f
    | none => false
  if bit l 32 ∧ !x.restart ∧ !hold then c.resendFrom p (bits l 16 16) else c

/-- What a decoded control word does besides: acknowledgements, credits, the reported BER of a lane, and an accepted remap whose frame
has come (R277, R293, R294, R316-R318). -/
def Chip.takeWord (c : Chip) (p w : Nat) : Chip :=
  let x := c.port p
  let f := bits w 0 16
  let l := bits w 64 64
  let x := (x.acked (bits l 0 16))
  let x := { x with freed := Map.put 0 x.freed (bits l 34 3) (bits l 37 20), peerBer := Map.put 0 x.peerBer (bits w 140 4) (bits w 128 12) }
  let c := c.setPort p x
  match x.rx with
  | some (lane, wv, g) =>
    if framePast f g then
      (((c.setPort p { x with rx := none }).setWave false p lane wv).count (FNT_REMAPS (portDie p) (portK p)) 1).busySet p
    else c
  | none => c

/-- A lane loss found by the receiver (R295): LANE_DOWN goes out until a REMAP answers it (R276). -/
def Chip.laneBad (c : Chip) (p lane : Nat) : Chip :=
  let x := c.port p
  ((c.setPort p { x with downs := x.downs.filter (· != lane) ++ [lane] }).pput p FNT_PORT_STS.LANE_EV 1).fire 8

/-- The run of uncorrectable codewords of each lane after a frame, and the lanes that have just had four in a row (R295). -/
def PortX.badRuns (x : PortX) (fec : Nat) (bad : List Nat) : Map Nat × List Nat :=
  (List.range (cwCount fec)).foldl (fun r i => (cwLanes fec x.rxLanes i).foldl (fun r l =>
    let k := if bad.contains i then Map.get 0 r.1 l + 1 else 0
    (Map.put 0 r.1 l (min k 4), if k = 4 then r.2 ++ [l] else r.2)) r) (x.bad, [])

/-- A packet that ends in a frame (R318-R320); `spoiled` where it touched a bad data unit. Credits come back for every packet. -/
def Chip.rxPacket (c : Chip) (p : Nat) (e : RxEnd) (spoiled : Bool) : Chip :=
  let x := c.port p
  let x : PortX := { x with rxFreed := Map.put 0 x.rxFreed e.pool ((Map.get 0 x.rxFreed e.pool + ceilDiv e.bytes 64) % 2 ^ 20) }
  if x.request.isSome then c.setPort p x
  else if spoiled ∨ e.check = .failed then
    let n := subMod 16 x.rxNum x.skip
    (c.setPort p { x with request := some n, lastReq := n, skip := 0 }).count (FAB_REPLAYS p) 1
  else if x.skip ≠ 0 then c.setPort p { x with skip := x.skip - 1 }
  else
    let c := c.setPort p { x with rxNum := (x.rxNum + 1) % 65536 }
    if e.check = .stomped then c.count FAB_STOMPED 1 else c.volume (FAB_RXVOL p) (FAB_RXVOLE.EPOCH p) e.bytes

/-- FRAME_RECEIVE (R275, R276, R295, R316-R320): the control word; the symbols and bits in error of each codeword; the lanes that lost
lock; the packets that end in the frame, in order; and the first data unit of a packet that goes on into the next frame. -/
def frameReceive (p w : Nat) (errs : List (Nat × Nat)) (unlocked : List Nat) (ends : List RxEnd) (tail : Option Nat) (c : Chip) : Chip :=
  if p ≥ 8 ∨ c.portState p = 0 ∨ c.portState p = 7 then c
  else
    let fec := c.pst p FNT_PORT_STS.FEC_ACT
    let err (i : Nat) : Nat × Nat := errs.getD i (0, 0)
    let cws := List.range (cwCount fec)
    let bad := cws.filter (fun i => decide ((err i).1 > cwFix fec))
    let fixed := (cws.filter (fun i => !bad.contains i)).foldl (fun n i => n + (err i).2) 0
    let c := (c.count (FNT_FEC_CORR (portDie p) (portK p)) fixed).count (FNT_FEC_UNCORR (portDie p) (portK p)) bad.length
    let x := c.port p
    let (runs, four) := x.badRuns fec bad
    let dark := if (frameLanes x.rxLanes).all (fun l => unlocked.contains l) then [] else unlocked.filter (fun l => decide (l < 16))
    let c := (four ++ dark).eraseDups.foldl (fun c l => c.laneBad p l) (c.setPort p { x with bad := runs })
    let checks : Bool := bits w 144 16 == crc16 (leBytes 18 (bits w 0 144))
    let good := checks && !wordBad fec bad
    let c := if good then c.takeWord p w else c
    let c := if checks then c.takeRequest p w else c
    let hurt (e : RxEnd) (fresh : Bool) : Bool :=
      (List.range (e.hi + 1)).any (fun u => (decide (e.lo ≤ u) || !fresh) && unitBad fec bad u)
    let (first, rest) := match (c.port p).rxTail, ends with
      | some _, e :: r => (some e, r)
      | _, es => (none, es)
    let c := match first with
      | some e => c.rxPacket p e ((c.port p).rxTail == some true || hurt e false)
      | none => c
    let x := c.port p
    let c := if good ∧ bit w 97 then c.setPort p { x with request := none, skip := subMod 16 x.rxNum x.lastReq } else c
    let c := rest.foldl (fun c e => c.rxPacket p e (hurt e true)) c
    c.setPort p { c.port p with rxTail := tail.map (fun u => (List.range 80).any (fun v => decide (u ≤ v) && unitBad fec bad v)) }

/-! ### Starting packets (R34, R314, R316, R318) -/

/-- Credits of a pool at the far end that a port still holds. -/
def PortX.credits (x : PortX) (pool : Nat) : Nat :=
  let size := bits x.pools (8 * (pool / 2)) 8 * 256
  size - (Map.get 0 x.used pool + 2 ^ 20 - Map.get 0 x.freed pool) % 2 ^ 20

/-- The first packet of a party that waits for a pool, where the pool's credits cover it. -/
def Chip.linkReady (c : Chip) (x : PortX) (pool party : Nat) : Option LinkPkt :=
  match x.wait.find? (fun k => k.pool == pool && k.party == party) with
  | some k => if c.pktCredits k ≤ x.credits k.pool then some k else none
  | none => none

/-- One of two candidates, by a free choice where both stand. -/
def Chip.either (c : Chip) (a b : Option LinkPkt) : Option LinkPkt × Chip :=
  match a, b with
  | some u, some v => let (n, c) := c.fresh; (if n % 2 = 0 then some u else some v, c)
  | some u, none => (some u, c)
  | none, v => (v, c)

/-- The candidate of a runnel: the parties that share it are served one packet each in turn (R34); between the two dateline lanes of a
party the spec gives no order. -/
def Chip.runPick (c : Chip) (x : PortX) (run : Nat) : Option LinkPkt × Chip :=
  let turn := (List.range 7).map (fun i => (Map.get 6 x.rr run + 1 + i) % 7)
  match turn.find? (fun g => (c.linkReady x (2 * run) g).isSome || (c.linkReady x (2 * run + 1) g).isSome) with
  | some g => c.either (c.linkReady x (2 * run) g) (c.linkReady x (2 * run + 1) g)
  | none => (none, c)

/-- The choice among runnels in Compatibility mode: one after another (R356). -/
def Chip.turnPick (c : Chip) (x : PortX) : Option LinkPkt × Chip :=
  (List.range 4).foldl (fun r i => if r.1.isSome then r else r.2.runPick x ((x.rrRun + 1 + i) % 4)) (none, c)

/-- The choice among runnels by R314: `uOver` where U has used 25 % of the link's bytes in the last 1 µs. C and B share 3 : 1 by bytes. -/
def Chip.prioPick (c : Chip) (x : PortX) (uOver : Bool) : Option LinkPkt × Chip :=
  let (u, c) := c.runPick x 0
  let (m, c) := c.runPick x 3
  let (cc, c) := c.runPick x 2
  let (bb, c) := c.runPick x 1
  let cb := match cc, bb with
    | some a, some b => if x.cBytes ≤ 3 * x.bBytes then some a else some b
    | some a, none => some a
    | none, b => b
  if u.isSome ∧ !uOver then (u, c) else if m.isSome then (m, c) else c.either u cb

/-- LINK_PACKET_START (R314, R316, R318). A port whose far end is not the expected one carries no traffic of a job, and so runnel M alone
(R340). -/
def linkPacketStart (p : Nat) (uOver : Bool) (c : Chip) : Chip :=
  if p ≥ 8 ∨ !c.portUp p then c
  else
    let x := c.port p
    let (k, c) := if bit (c.get FAB_PHYS.PEER_BAD) p then c.runPick x 3 else if c.modes.native then c.prioPick x uOver else c.turnPick x
    match k with
    | none => c
    | some k =>
      let n := c.pktSize k
      if (x.replay.foldl (fun n q => n + c.pktSize q) 0) + n > 0x400000 then c
      else
        let run := k.pool / 2
        let y := { x with wait := x.wait.erase k, replay := x.replay ++ [k], rr := Map.put 6 x.rr run k.party, rrRun := run,
                          used := Map.put 0 x.used k.pool ((Map.get 0 x.used k.pool + c.pktCredits k) % 2 ^ 20),
                          cBytes := if run = 2 then x.cBytes + n else x.cBytes,
                          bBytes := if run = 1 then x.bBytes + n else x.bBytes }
        let y := { y with cBytes := y.cBytes - min y.cBytes (3 * y.bBytes), bBytes := y.bBytes - min y.bBytes (y.cBytes / 3) }
        ((c.setPort p y).volume (FAB_TXVOL p) (FAB_TXVOLE.EPOCH p) n).sendLink p k

/-! ### Routing (R315, R321, R330, R348, R354) -/

/-- Field of dimension `d` of a coordinate, and with it replaced. -/
def cDim (w d : Nat) : Nat := bits w (6 * d) 6
def cPut (w d v : Nat) : Nat := setBits w (6 * d) 6 v

/-- Extents minus 1 and wraps of the axes: of the shape (R333), or in Compatibility mode of the machine (R341, R356). -/
def Chip.axes (c : Chip) : Nat := if c.modes.native then c.word FAB_SHAPE else c.word FAB_PHYS
def Chip.ext (c : Chip) (d : Nat) : Nat := bits c.axes (18 + 6 * d) 6
def Chip.wraps (c : Chip) (d : Nat) : Bool := bit c.axes (36 + d)

/-- The port of a direction and whether it exists (R334); in Compatibility mode direction d is port d (R356). -/
def Chip.dirPort (c : Chip) (d : Nat) : Nat := if c.modes.native then c.get (FAB_DIR.PORT d) else d
def Chip.dirOn (c : Chip) (d : Nat) : Bool := !c.modes.native || c.on (FAB_DIR.VALID d)

/-- The holes in force (R347). -/
def Chip.holes (c : Chip) : List Nat :=
  if !c.modes.native then []
  else (List.range 4).filterMap (fun j => if c.on (FAB_HOLE.VALID j) then some (c.get (FAB_HOLE.COORD j)) else none)

/-- The coordinate one step from `w` in dimension `d`, positive or negative; none past the end of an open axis. -/
def Chip.stepCoord (c : Chip) (w d : Nat) (pos : Bool) : Option Nat :=
  let v := cDim w d
  let e := c.ext d
  if pos then (if v < e then some (cPut w d (v + 1)) else if c.wraps d then some (cPut w d 0) else none)
  else if 0 < v then some (cPut w d (v - 1)) else if c.wraps d then some (cPut w d e) else none

/-- The run of adjacent holes that begins at the neighbour of `w`, and the coordinate after it. -/
def Chip.holeRun (c : Chip) (w d : Nat) (pos : Bool) : Nat → List Nat × Option Nat
  | 0 => ([], none)
  | fuel + 1 =>
    match c.stepCoord w d pos with
    | none => ([], none)
    | some v =>
      if c.holes.contains v then (let (hs, e) := Chip.holeRun c v d pos fuel; (v :: hs, e)) else ([], some v)

/-- The shorter way to value `t` in dimension `d`: true positive, also when both are equal (R321). -/
def Chip.shorter (c : Chip) (w d t : Nat) : Bool :=
  let v := cDim w d
  let n := c.ext d + 1
  if !c.wraps d then decide (v ≤ t)
  else decide ((t + n - v) % n ≤ (v + n - t) % n)

/-- The direction, 2 × dimension + (1 if negative), whose port is `p`. -/
def Chip.dirOf (c : Chip) (p : Nat) : Option Nat :=
  (List.range 6).find? (fun d => c.dirOn d && c.dirPort d == p)

/-- What routing a packet gives. -/
inductive Route where
  | here
  | drop
  | out (port lane : Nat) (rev : Bool)
  deriving DecidableEq, Repr

/-- The next hop toward `t` in a dimension and direction: dateline lane, DETOUR, port. `entry` is the lane on which the packet
is in this dimension; `rev`, it was already reversed in it (R315, R330). -/
def Chip.hop (c : Chip) (w d : Nat) (pos : Bool) (entry : Nat) (rev : Bool) : Route :=
  let dir (q : Bool) : Nat := 2 * d + b2n (!q)
  let go (q : Bool) (lane : Nat) (back : Bool) : Route :=
    if !c.dirOn (dir q) then .drop
    else match (c.holeRun w d q 5).2 with
      | none => .drop
      | some v =>
        let cross := if q then decide (cDim v d ≤ cDim w d) else decide (cDim w d ≤ cDim v d)
        .out (c.dirPort (dir q)) (if cross then 1 else lane) back
  if c.on (FAB_DIR.DETOUR (dir pos)) then (if rev ∨ !c.wraps d then .drop else go (!pos) 1 true) else go pos entry rev

/-- Routing by R321 with holes (R347, R348) and appliances (R354). `via` is the port of arrival, none for a packet of this
package; `turned`, the packet has made a hole-turn. -/
def Chip.routeOf (c : Chip) (h : Hdr) (via : Option Nat) (rev turned : Bool) : Route :=
  let dst := if (match via with
      | none => true
      | some p => decide (6 ≤ p)) then c.relocate h.dst else h.dst
  let here := c.coord
  let app := c.appliance dst
  let t := match app with
    | some j => c.get (FAB_APPL.HOSTC j)
    | none => dst
  if t = here then
    (match app with
    | some j => .out (if c.on (FAB_APPL.PORT j) then 7 else 6) 0 false
    | none => .here)
  else if c.holes.contains t ∨ (List.range 3).any (fun d => decide (cDim t d > c.ext d)) then .drop
  else
    let came : Option Nat := match via with
      | some p => if p ≥ 6 then none else (c.dirOf p)
      | none => none
    match (List.range 3).find? (fun d => cDim t d != cDim here d) with
    | none => .here
    | some d =>
      let same := match came with
        | some a => a / 2 == d
        | none => false
      let pos := match came with
        | some a => if a / 2 = d ∧ h.lane = 1 then a % 2 == 1 else c.shorter here d (cDim t d)
        | none => c.shorter here d (cDim t d)
      let entry := if same then h.lane else if turned then 1 else 0
      let (run, _) := c.holeRun here d pos 5
      if d < 2 ∧ run.any (fun v => cDim v d == cDim t d) then
        (match ((List.range 3).filter (fun k => decide (d < k ∧ 0 < c.ext k))).head? with
        | none => .drop
        | some k => c.hop here k (c.shorter here k (cDim t k)) 1 false)
      else c.hop here d pos entry rev

/-- A packet waits at a port for its link, on behalf of a party, or is discarded. -/
def Chip.queueAt (c : Chip) (h : Hdr) (payload : List Byte) (party : Nat) (stomp : Bool) (r : Route) : Chip :=
  match r with
  | .out p lane rev =>
    let x := c.port p
    let k : LinkPkt := { pool := 2 * h.run + lane, hdr := ({ h with lane := lane } : Hdr).enc, payload := payload, party := party, rev := rev,
                         stomp := stomp }
    c.setPort p { x with wait := x.wait ++ [k] }
  | _ => c

/-- A packet of a reserved opcode at its destination (R309). -/
def Chip.badPkt (c : Chip) : Chip := c.count FAB_BADPKT 1

/-- ROUTER_FORWARD (R14, R34, R321): a packet whose header checks is forwarded, one of this package once the mesh has brought it to the
fountain die of its port. A packet from a storage port is relocated as one that this package originates (R349). One that has arrived
waits for the row of its opcode; of a reserved opcode, it is discarded and counted (R309). `bad`: its trailer proved wrong after it had
begun to go out, and it goes on stomped (R320). -/
def routerForward (w : Nat) (payload : List Byte) (via : Option Nat) (rev turned bad : Bool) (c : Chip) : Chip :=
  if !hdrOk w then c
  else
    let h := decHdr w
    let h := match via with
      | some p => if p ≥ 6 then { h with dst := c.relocate h.dst } else h
      | none => h
    match c.routeOf h via rev turned with
    | .here => if h.opc > 8 ∧ !bad then c.badPkt else c
    | .drop => if c.comes w payload via (some 26) then c.took w payload via (some 26) else c
    | .out p lane r =>
      let die := some (26 + portDie p)
      if c.comes w payload via die then
        (c.took w payload via die).queueAt h payload (if via.isSome then 6 else h.sbasin % 6) bad (.out p lane r)
      else c

/-- DETOUR_SET (R330): the packets held for the direction are released the other way around the ring; one that was already reversed in
this dimension is discarded. -/
def detourSet (d : Nat) (c : Chip) : Chip :=
  if d ≥ 6 ∨ c.on (FAB_DIR.DETOUR d) then c
  else
    let c := (c.put (FAB_DIR.DETOUR d) 1).inc (FAB_DIR.GEN d)
    let p := c.dirPort d
    let x := c.port p
    let c := c.setPort p { x with wait := [] }
    x.wait.foldl (fun c k => c.queueAt (decHdr k.hdr) k.payload k.party k.stomp (c.hop c.coord (d / 2) (d % 2 == 0) (k.pool % 2) k.rev)) c

/-- A change of shape may make the present peer of a port the expected one, which clears its PEER_BAD bit (R340, R351); which peer a shape
expects follows from what stands in other packages, so it is free. -/
def Chip.reshape (c : Chip) : Chip :=
  (List.range 8).foldl (fun c p =>
    if bit (c.get FAB_PHYS.PEER_BAD) p then
      let (n, c) := c.fresh
      if n % 2 = 0 then c.put FAB_PHYS.PEER_BAD (setBits (c.get FAB_PHYS.PEER_BAD) p 1 0) else c
    else c) c

/-! ### Holes (R346, R347, R352) -/

/-- Whether two coordinates are neighbours along dimension `d`. -/
def Chip.nextTo (c : Chip) (a b d : Nat) : Bool := c.stepCoord a d true == some b || c.stepCoord a d false == some b

/-- Pass-throughs an axis allows: two in Swift mode, three in Stout mode (R281, R346). -/
def Chip.runLimit (c : Chip) (d : Nat) : Nat := if c.pst (c.get (FAB_DIR.PORT (2 * d))) FNT_PORT_CTL.FEC = 1 then 3 else 2

/-- Length of the run of listed coordinates from `w` in the positive direction. -/
def Chip.runLen (c : Chip) (hs : List Nat) (w d : Nat) : Nat → Nat
  | 0 => 0
  | fuel + 1 =>
    match c.stepCoord w d true with
    | some v => if hs.contains v then Chip.runLen c hs v d fuel + 1 else 0
    | none => 0

/-- R347: neighbouring holes lie along one axis only, in runs within the limit. -/
def Chip.holesOk (c : Chip) (hs : List Nat) : Bool :=
  hs.all (fun h =>
    decide (((List.range 3).filter (fun d => hs.any (fun g => c.nextTo h g d))).length ≤ 1)
    && (List.range 3).all (fun d => decide (c.runLen hs h d 4 + 1 ≤ c.runLimit d)))

/-- HOLE_WRITE (R352). -/
def holeWrite (ag : Agent) (j v : Nat) (c : Chip) : Chip :=
  if !ag.top ∨ j ≥ 4 then c
  else
    let co := bits v 0 18
    let valid := bit v 18
    let others := (List.range 4).filterMap (fun i =>
      if i ≠ j ∧ c.on (FAB_HOLE.VALID i) then some (c.get (FAB_HOLE.COORD i)) else none)
    let isTo := (List.range 8).any (fun i => c.on (FAB_RELOC.VALID i) && c.get (FAB_RELOC.TO i) == co)
    if valid ∧ (isTo ∨ !c.holesOk (co :: others)) then c
    else
      let old := bits (c.word (FAB_HOLE j)) 0 19
      let c := (c.put (FAB_HOLE.COORD j) co).put (FAB_HOLE.VALID j) (b2n valid)
      if old = bits v 0 19 then c else (c.inc (FAB_HOLE.GEN j)).reshape

end Sys2Proof.Machine
end

