-- ==== Sys2Proof/Machine/Arrive.lean ====
section
/-! DEFINITION. Fabric packets at their destination and answers at their source (10 R309-R313, R324-R329; 07 R231; 11 R350). -/
namespace Sys2Proof.Machine

/-! ### Answers (R310, R311, R326) -/

/-- The header of an answer of basin `b` to a packet: stamped with the basin's present step, carrying its slice tag and
taint (R103, R105, R196). -/
def Chip.answerHdr (c : Chip) (b : Nat) (h : Hdr) (opc : Nat) (ref : Bool) : Hdr :=
  { opc := opc, run := h.run, taint := h.run == 2 && c.taintOf b (c.step b), ref := ref, dst := h.src, dbasin := h.sbasin,
    src := c.coord, sbasin := b, slice := c.hdrSlice b, step := c.hdrStep (c.step b), xid := h.xid }

/-- ACK of everything performed below `exp` on the packet's flow. -/
def Chip.ack (c : Chip) (b : Nat) (h : Hdr) (exp : Nat) (ref : Bool) : Chip :=
  c.inject b { c.answerHdr b h 7 ref with seq := (exp + 65535) % 65536, xid := if h.opc = 6 then h.xid else 0 } []
    (c.placeEnd b h.addr)

/-! ### Sequenced packets (R103, R197, R311, R325) -/

/-- Index of a packet's flow in the destination's receive table: the peer is its source (R329). -/
def Hdr.flowOf (h : Hdr) : Nat := flowIdx h.src h.sbasin h.run

/-- Whether the destination refuses a packet before it touches memory (R197, R369), or drops it (R103). -/
def Chip.turnAway (c : Chip) (b : Nat) (h : Hdr) (via : Option Nat) : Option Chip :=
  if (c.bs b).quenched ∨ !c.sliceOk b h.slice via then some (c.sliceDrop b)
  else if h.run = 2 ∧ !c.stepOk b h.step then some (c.count (BSN_STEP_STALE b) 1)
  else none

/-- The place of an arriving access to basin `b`: in the windows of its own or a same-slice basin, outside quench regions. -/
def Chip.landing (c : Chip) (b addr n : Nat) : Option Place := if n = 0 then none else c.reach b addr n false

/-- A sequenced packet at its destination: flow order, refusal, performance by `f`, acknowledgement. `f` gives the state and
whether the operation was refused. -/
def Chip.sequenced (c : Chip) (w opc : Nat) (payload : List Byte) (via : Option Nat) (f : Chip → Nat → Hdr → Chip × Bool) : Chip :=
  let h := decHdr w
  let b := h.dbasin
  if !hdrOk w ∨ h.opc ≠ opc ∨ b > 5 ∨ h.len ≠ payload.length then c
  else
    let exp := c.flowEnt b h.flowOf true
    let d := subMod 16 h.seq exp
    if d = 0 then
      let (c, ref) := match c.turnAway b h via with
        | some c => (c, true)
        | none =>
          let (c, ref) := f (c.taintSeen b h) b h
          (if ref then c else c.rxVol b h.run payload.length, ref)
      let c := c.setFlowEnt b h.flowOf true ((exp + 1) % 65536)
      c.ack b h ((exp + 1) % 65536) ref
    else if d < 32768 then c.count (BSN_FLOW_GAPS b) 1
    else (c.count (BSN_FLOW_DUPS b) 1).ack b h exp false

/-- Data written at the destination (R176, R241, R247). -/
def Chip.putAt (c : Chip) (b addr : Nat) (payload : List Byte) : Chip × Bool :=
  let n := payload.length
  if n = 0 then (c, false)
  else match c.landing b addr n with
    | none => (c, true)
    | some p =>
      if inLatches p n then (c, true)
      else
        let part : Bool := match p with
          | .hbm k => c.partPoison k n
          | .cis _ _ => false
        (c.wr p payload, part)

/-- PUT_PACKET (R310, R325). -/
def putPacket (w : Nat) (payload : List Byte) (via : Option Nat) (c : Chip) : Chip :=
  c.sequenced w 0 payload via (fun c b h => c.putAt b h.addr payload)

/-- The basin latch at a place of the latch area (R176). -/
def Chip.latchAt (c : Chip) (p : Place) : Option (Nat × Nat) :=
  match p with
  | .cis kc off => if off ≥ latchOfs ∧ off % 8 = 0 then some (c.clBasin kc, 256 * c.clRole kc + (off - latchOfs) / 8) else none
  | .hbm _ => none

/-- AADD_I_PACKET (R177, R230, R310): to a latch it is an ADD. -/
def aaddIPacket (w : Nat) (payload : List Byte) (via : Option Nat) (c : Chip) : Chip :=
  c.sequenced w 3 payload via (fun c b h =>
    match c.landing b h.addr 8 with
    | none => (c, true)
    | some p =>
      if h.addr % 8 ≠ 0 ∨ payload.length ≠ 8 then (c, true)
      else match c.latchAt p with
        | some (d, l) => (c.latchApply d l false (leNat payload), false)
        | none =>
          match p with
          | .hbm k => if c.partPoison k 8 then (c, true) else (c.wrn p 8 (addMod 64 (c.rdn p 8) (leNat payload)), false)
          | .cis _ _ => (c.wrn p 8 (addMod 64 (c.rdn p 8) (leNat payload)), false))

/-- AADD_F_PACKET (R230, R310): an FP32 sum, to nearest even. -/
def aaddFPacket (w : Nat) (payload : List Byte) (via : Option Nat) (c : Chip) : Chip :=
  c.sequenced w 4 payload via (fun c b h =>
    match c.landing b h.addr 4 with
    | none => (c, true)
    | some p =>
      let bad : Bool := match p with
        | .hbm k => c.partPoison k 4
        | .cis _ _ => false
      if h.addr % 4 ≠ 0 ∨ payload.length ≠ 8 ∨ inLatches p 4 ∨ bad ∨ !c.modes.native then (c, true)
      else (c.wrn p 4 (toFp32 ((fp32 (c.rdn p 4)).add (fp32 (leNat (payload.take 4))))), false))

/-! ### The near-memory reduce unit (R107, R231, R313) -/

/-- One element reduced: stored bits, incoming bits and block offset give the new bits, and whether they are non-finite. -/
def reduceElem (rfmt off old inc : Nat) : Nat × Bool :=
  let sum (f : Fmt) : Nat × Bool :=
    let v := roundArith f ((decodeVal f true old).add (decodeVal f true inc))
    (v, !(decodeVal f true v).isFin)
  match rfmt with
  | 0 => sum .fp32
  | 1 => sum .w40
  | 2 => sum .fp64
  | 3 => (addMod 32 old inc, false)
  | 4 => (addMod 64 old inc, false)
  | 5 =>
    let v := vMax (fp32 old) (fp32 inc)
    (toFp32 v, !v.isFin)
  | 6 => (if off % 4096 = 0 then old ||| inc else max old inc, false)
  | _ => sum .bf16

/-- Elements of `n` bytes reduced one after another; an element on a poisoned granule leaves it as it is (R248). -/
def Chip.reduceAll (c : Chip) (rfmt n key : Nat) (cis : Bool) : Nat → List Byte → Bool → Chip × Bool
  | 0, _, nf => (c, nf)
  | fuel + 1, bs, nf =>
    if bs.isEmpty then (c, nf)
    else
      let (v, bad) := reduceElem rfmt key (leNat (c.mem.reads key n)) (leNat (bs.take n))
      let skip := !cis && c.poisoned key n
      let c := if skip then c else { c with mem := c.mem.write key (leBytes n v) }
      Chip.reduceAll c rfmt n (key + n) cis fuel (bs.drop n) (nf || (bad && !skip))

/-- REDUCE_PUT_PACKET (R104, R231, R313). -/
def reducePutPacket (w : Nat) (payload : List Byte) (via : Option Nat) (c : Chip) : Chip :=
  c.sequenced w 5 payload via (fun c b h =>
    let m := payload.length
    match rfmtSize h.rfmt, c.landing b h.addr m with
    | some n, some p =>
      if m % n ≠ 0 ∨ inLatches p m ∨ (h.rfmt = 6 ∧ h.addr / 4096 ≠ (h.addr + (m - 1)) / 4096) then (c, true)
      else
        let cis : Bool := match p with
          | .cis _ _ => true
          | .hbm _ => false
        let (c, nf) := c.reduceAll h.rfmt n p.key cis (m + 1) payload false
        let c := match p with
          | .cis kc off => (c.tagTouch kc off m).tagNf kc off m
          | .hbm _ => c
        let now := if c.modes.native then h.step == c.step b % 2 ^ 32 else h.step % 65536 == c.step b % 65536
        (if nf ∧ h.run = 2 ∧ now then c.taint b (c.step b) else c, false)
    | some _, none => (c, decide (m ≠ 0))
    | none, _ => (c, true))

/-! ### MCAST-PUT (R312) -/

/-- The next member after this package, where the header's span goes on. -/
def Chip.mcastNext (c : Chip) (h : Hdr) : Bool :=
  if h.maxis = 0 ∨ h.maxis > 3 then false
  else
    let d := h.maxis - 1
    let n := c.ext d + 1
    decide ((cDim c.coord d + n - cDim h.dst d) % n < h.mspan)

/-- MCAST_PUT_PACKET (R312): at DST in flow order, at every later member on arrival; and the packet moves on. -/
def mcastPutPacket (w : Nat) (payload : List Byte) (via : Option Nat) (c : Chip) : Chip :=
  let h := decHdr w
  let b := h.dbasin
  if !hdrOk w ∨ h.opc ≠ 6 ∨ b > 5 ∨ h.len ≠ payload.length ∨ !c.modes.native then c
  else
    let c := if h.dst = c.coord then c.sequenced w 6 payload via (fun c b h => c.putAt b h.addr payload)
      else
        let (c, ref) := match c.turnAway b h via with
          | some c => (c, true)
          | none =>
            let (c, ref) := (c.taintSeen b h).putAt b h.addr payload
            (if ref then c else c.rxVol b h.run payload.length, ref)
        c.inject b { c.answerHdr b h 7 ref with seq := 0 } [] (c.placeEnd b h.addr)
    if c.mcastNext h then c.queueAt h payload 6 false (c.hop c.coord (h.maxis - 1) true h.lane false) else c

/-! ### GET (R310, R311, R328) -/

/-- A GET is performed and answered. -/
def Chip.getDo (c : Chip) (b : Nat) (h : Hdr) : Chip :=
  let refuse (c : Chip) : Chip := c.inject b (c.answerHdr b h 2 true) [] (c.placeEnd b h.addr)
  match c.landing b h.addr h.len with
  | none => refuse c
  | some p =>
    let bad : Bool := match p with
      | .hbm k => c.poisoned k h.len
      | .cis _ _ => false
    if bad ∨ h.len > 4096 then refuse c else c.inject b { c.answerHdr b h 2 false with len := h.len } (c.rd p h.len) (c.placeEnd b h.addr)

/-- Whether EXP has passed the number a GET waits for (R328). -/
def Chip.getFree (c : Chip) (b : Nat) (h : Hdr) : Bool :=
  !h.ord || decide (subMod 16 (c.flowEnt b h.flowOf true) (h.seq + 1) < 32768)

/-- GET_PACKET (R103, R197, R328). -/
def getPacket (w : Nat) (via : Option Nat) (c : Chip) : Chip :=
  let h := decHdr w
  let b := h.dbasin
  if !hdrOk w ∨ h.opc ≠ 1 ∨ b > 5 then c
  else if (c.bs b).quenched ∨ !c.sliceOk b h.slice via then (c.sliceDrop b).inject b (c.answerHdr b h 2 true) [] (c.placeEnd b h.addr)
  else if h.run = 2 ∧ !c.stepOk b h.step then c.count (BSN_STEP_STALE b) 1
  else
    let c := c.taintSeen b h
    if c.getFree b h then c.getDo b h else { c with heldGets := c.heldGets ++ [(w, via)] }

/-- GET_ORD_RELEASE (R328): the held GET number `i`, in the order of arrival. -/
def getOrdRelease (i : Nat) (c : Chip) : Chip :=
  match c.heldGets[i]? with
  | none => c
  | some (w, _) =>
    let h := decHdr w
    if c.getFree h.dbasin h then { c with heldGets := c.heldGets.eraseIdx i }.getDo h.dbasin h else c

/-- A GET of a stopped or lost flow ends as refused (R310, R350). -/
def Chip.opRefuse (c : Chip) (o : Op) : Chip :=
  match o.src, o.kind with
  | .ladle n id x, .get => ({ c with ops := c.ops.filter (fun (y : Op) => y.id ≠ o.id) }).ladleRow n id x none
  | _, _ => c.opDone o true

/-- One chunk of a response for an operation. -/
def Chip.getChunk (c : Chip) (o : Op) (k : Nat) (data : List Byte) : Chip :=
  let rest := o.seqs.filter (· != k)
  let b := o.flow.basin
  match o.src with
  | .ladle n id x =>
    let parts := o.parts ++ [(k, data)]
    if rest ≠ [] then { c with ops := c.ops.map (fun (y : Op) => if y.id = o.id then { y with seqs := rest, parts := parts } else y) }
    else
      let all := (List.range parts.length).flatMap (fun i => (parts.find? (fun e => e.1 == i)).elim [] (·.2))
      ({ c with ops := c.ops.filter (fun (y : Op) => y.id ≠ o.id) }).ladleRow n id x (some all)
  | _ =>
    let a := o.loc + c.maxPay * k
    let c := if data.isEmpty then c else match c.reach b a data.length true with
      | some p =>
        let part : Bool := match p with
          | .hbm g => c.partPoison g data.length
          | .cis _ _ => false
        let c := c.wr p data
        (match o.src with
        | .seq kc j => if part ∧ (c.kernOf kc).isSome then c.kernelFault kc j 6 0 else c
        | _ => c)
      | none => c
    let o := { o with seqs := rest }
    if rest ≠ [] then { c with ops := c.ops.map (fun (y : Op) => if y.id = o.id then o else y) } else c.opDone o false

/-- GET_RESP_PACKET (R310, R327): a response to a replaced transaction identity is discarded. -/
def getRespPacket (w : Nat) (payload : List Byte) (via : Option Nat) (c : Chip) : Chip :=
  let h := decHdr w
  let b := h.dbasin
  if !hdrOk w ∨ h.opc ≠ 2 ∨ b > 5 ∨ (!h.ref ∧ h.len ≠ payload.length) then c
  else match c.turnAway b h via with
    | some c => c
    | none =>
      let c := c.taintSeen b h
      let idx (o : Op) : Nat := subMod 16 h.xid o.xid
      match c.ops.find? (fun o => o.kind == .get && o.flow.basin == b && o.flow.coord == h.src && o.flow.dbasin == h.sbasin
          && o.flow.run == h.run && o.seqs.contains (idx o)) with
      | none => c
      | some o => if h.ref then c.opRefuse o else (c.rxVol b h.run payload.length).getChunk o (idx o) payload

/-! ### ACK (R310, R312, R326) -/

/-- One sequence number of a flow is acknowledged; an operation that waits for nothing more completes. -/
def Chip.ackOne (c : Chip) (f : Flow) (n : Nat) (ref : Bool) : Chip :=
  match c.ops.find? (fun (o : Op) => o.flow == f && o.kind != .get && o.seqs.contains n) with
  | none => c
  | some o =>
    let o' : Op := { o with seqs := o.seqs.filter (· != n), refused := o.refused || ref }
    if o'.seqs = [] ∧ o'.acks = 0 then c.opDone o o'.refused
    else { c with ops := c.ops.map (fun (y : Op) => if y.id = o.id then o' else y) }

/-- ACK_PACKET. -/
def ackPacket (w : Nat) (via : Option Nat) (c : Chip) : Chip :=
  let h := decHdr w
  let b := h.dbasin
  if !hdrOk w ∨ h.opc ≠ 7 ∨ b > 5 then c
  else match c.turnAway b h via with
    | some c => c
    | none =>
      let c := c.taintSeen b h
      let c := match c.ops.find? (fun o => o.kind == .mcast && o.acks > 0 && o.xid == h.xid && o.flow.basin == b) with
        | some o =>
          let o' : Op := { o with acks := o.acks - 1, refused := o.refused || h.ref }
          if o'.acks = 0 ∧ o'.seqs = [] then c.opDone o o'.refused
          else { c with ops := c.ops.map (fun (y : Op) => if y.id = o.id then o' else y) }
        | none => c
      let f : Flow := { basin := b, coord := h.src, dbasin := h.sbasin, run := h.run }
      let ps := c.pendingOf f
      let below (u : Unacked) : Bool := decide (subMod 16 h.seq u.seq < 32768)
      let c := { c with unacked := c.unacked.filter (fun (u : Unacked) => !(u.flow == f && below u)) }
      (ps.filter below).foldl (fun c u => c.ackOne f u.seq (h.ref && u.seq == h.seq)) c

/-! ### Timers and lost peers (R327, R350) -/

/-- Whether a source is of the side class. -/
def Chip.srcSide (c : Chip) (s : Src) : Bool :=
  match s with
  | .seq kc _ => (match c.kernOf kc with
    | some k => k.side
    | none => false)
  | .pkt b q _ => qClassSide c b q
  | .ladle n id _ => (match c.ladleOf n id with
    | some (_, r) => r.cmd.side
    | none => false)
  | .hub => false

/-- A packet of runnel C that goes out again carries the taint that its step has by then (R105). -/
def Chip.retaint (c : Chip) (b : Nat) (src : Src) (h : Hdr) : Hdr :=
  let st := c.step b
  let n := st - (st % 2 ^ 32 + 2 ^ 32 - h.step) % 2 ^ 32
  if h.run = 2 ∧ !c.srcSide src ∧ c.taintOf b n then { h with taint := true } else h

/-- The outstanding chunks of a GET are asked for again under new transaction identities. -/
def Chip.getAgain (c : Chip) (o : Op) : Chip :=
  let hdr := (c.retaint o.flow.basin o.src (decHdr o.hdr)).enc
  let n := ceilDiv o.len c.maxPay
  let x := c.nextId
  let c := { c with nextId := c.nextId + n, ops := c.ops.map (fun (y : Op) => if y.id = o.id then { y with xid := x % 65536 } else y) }
  o.seqs.foldl (fun c k =>
    let h := decHdr hdr
    let h := { h with xid := (x + k) % 65536, addr := h.addr + c.maxPay * k, len := min c.maxPay (o.len - c.maxPay * k) }
    (c.inject o.flow.basin h [] (c.srcEnd o.src)).count (BSN_FLOW_RESENDS o.flow.basin) 1) c

/-- ACK_TIMEOUT (R327): the flow's unacknowledged packets go out again in their order, and its GETs in theirs. -/
def ackTimeout (b coord dbasin run : Nat) (c : Chip) : Chip :=
  let f : Flow := { basin := b, coord := coord, dbasin := dbasin, run := run }
  let ps := c.pendingOf f
  let again (c : Chip) (u : Unacked) : Chip :=
    let src := match c.ops.find? (fun o => o.flow == f && o.seqs.contains u.seq && o.kind != .get) with
      | some o => o.src
      | none => .hub
    (c.inject b { c.retaint b src (decHdr u.hdr) with resend := true } u.payload (c.srcEnd src)).count (BSN_FLOW_RESENDS b) 1
  let os := c.ops.filter (fun (o : Op) => o.flow == f && (o.kind == .get || o.seqs != []))
  let owned (u : Unacked) : Bool := os.any (fun o => o.kind != .get && o.seqs.contains u.seq)
  let c := (ps.filter (fun (u : Unacked) => !owned u)).foldl again c
  os.foldl (fun c o =>
    if o.kind = .get then c.getAgain o else (ps.filter (fun u => o.seqs.contains u.seq)).foldl again c) c

/-- Every flow to a lost coordinate is abandoned (R350). -/
def Chip.abandonTo (c : Chip) (coord : Nat) : Chip :=
  let c := { c with unacked := c.unacked.filter (fun u => u.flow.coord != coord) }
  let os := c.ops.filter (fun (o : Op) => o.flow.coord == coord && (o.kind == .get || o.seqs != [] || o.acks != 0))
  os.foldl (fun c o => c.opRefuse o) c

/-- RELOC_WRITE (R350, R352). -/
def relocWrite (ag : Agent) (j v : Nat) (c : Chip) : Chip :=
  if !ag.top ∨ j ≥ 8 then c
  else
    let (fr, dst, valid) := (bits v 0 18, bits v 18 18, bit v 36)
    if valid ∧ c.holes.contains dst then c
    else
      let old := bits (c.word (FAB_RELOC j)) 0 37
      let c := ((c.put (FAB_RELOC.FROM j) fr).put (FAB_RELOC.TO j) dst).put (FAB_RELOC.VALID j) (b2n valid)
      if old = bits v 0 37 then c
      else
        let c := c.inc (FAB_RELOC.GEN j)
        if valid then c.abandonTo fr else c

end Sys2Proof.Machine
end

