-- ==== Sys2Proof/Machine/Secure.lean ====
section
/-! DEFINITION. The risk score and wear indicators, securing state, and the loss of a package (12 R375-R390, 15 R463-R466). -/
namespace Sys2Proof.Machine

/-! ### Risk (R375, R463, R464) -/

def riskCap (i : Nat) : Nat := [8192, 8192, 4096, 8192, 12288, 4096, 4096, 16384].getD i 0

/-- RAW of the optical error rate: the worst lane of a port in service against the port's SWAP_BER. -/
def Chip.riskBer (c : Chip) : Nat :=
  (List.range 8).foldl (fun m p =>
    let swap := c.pst p FNT_PORT_CTL.SWAP_BER
    if !c.portUp p ∨ swap = 0 then m
    else (List.range 16).foldl (fun m l => max m (4096 * berVal 12 (c.get (berField p l)) / swap)) m) 0

/-- RAW of laser ageing. -/
def Chip.riskLaser (c : Chip) : Nat :=
  let fade := (List.range 8).foldl (fun m p =>
    (List.range 18).foldl (fun m w =>
      let st := c.laser p w
      if 1 ≤ st ∧ st ≤ 3 then max m (c.get (FNT_LASER.FADE (portDie p) (portK p) w)) else m) m) 0
  let bare := (List.range 8).foldl (fun n p =>
    if c.portUp p then n + b2n (c.pst p FNT_PORT_STS.SPARES_TX == 0) + b2n (c.pst p FNT_PORT_STS.SPARES_RX == 0) else n) 0
  32 * (fade / 10) + 4096 * bare

/-- RAW of spare exhaustion. -/
def Chip.riskSpares (c : Chip) : Nat :=
  let dies := List.range 26
  let none := c.modes.sheltered && !dies.any (fun n => c.get (HUB_FORGE_STATUS.STATE n) == 2)
  let degraded := ((List.range 12).filter (fun k => c.get (HBM_STACK_STS.STATE k) == 4)).length
  let used (w : Nat) : Bool := (List.range 4).all (fun i => bit w (32 + i) || bit w (36 + i))
  let units := dies.foldl (fun t n =>
    if c.get (HUB_FORGE_STATUS.STATE n) ≠ 1 then t
    else (List.range 4).foldl (fun t m =>
      let rows := Map.get [] c.rowMaps (4 * n + m)
      let banks := ((List.range 64).filter (fun k => decide ((rows.filter (fun e => e.1 == k)).length ≥ 4))).length
      t + b2n (used (c.word (CLS_SPARE_ROWS n m)) && used (c.word (CLS_SPARE_COLS n m))) + banks) t) 0
  8192 * b2n none + 8192 * degraded + 2048 * units

/-- The level that a score and the history below each threshold give (R375). -/
def riskLevel (old score watch secure belowW belowS : Nat) : Nat :=
  let now := if score ≥ secure then 2 else if score ≥ watch then 1 else 0
  if now ≥ old then now
  else if old = 2 then (if belowS ≥ 600000 then (if belowW ≥ 600000 then 0 else 1) else 2)
  else if belowW ≥ 600000 then 0 else 1

/-- RISK_UPDATE (R375, R463): each millisecond. The rates over time that the score takes are measured: corrected granules
per hour of the worst stack, granules reconstructed or poisoned in 30 days, corrected words per hour of the worst cluster,
droop events per second of the worst die. -/
def riskUpdate (ce ue cw droop : Nat) (c : Chip) : Chip :=
  let now := c.get HUB_TICKS.TICKS
  let day := c.risk.cycles.filter (fun t => decide (now < t + 172800000000))
  let raws := [4 * ce, 2048 * ue, 16 * cw, c.riskBer, c.riskLaser, 64 * day.length, 8 * droop, c.riskSpares]
  let terms := (raws.zipIdx).map (fun e => min (riskCap e.2) ((e.1 * c.get (ASY_RISK_W.W e.2)) >>> 4))
  let score := min 65535 (terms.foldl (· + ·) 0)
  let c := (raws.zipIdx).foldl (fun c e => c.put (ASY_RISK_TERM.RAW e.2) (satTo 0xFFFF e.1)) c
  let c := (terms.zipIdx).foldl (fun c e => c.put (ASY_RISK_TERM.POINTS e.2) e.1) c
  let half (v : Nat) : Nat := if c.on ASY_RISK.EXPOSED then v / 2 else v
  let (w, s) := (half (c.get ASY_RISK.WATCH), half (c.get ASY_RISK.SECURE))
  let bw := if score < w then c.risk.belowW + 1 else 0
  let bs := if score < s then c.risk.belowS + 1 else 0
  let old := c.get ASY_RISK.LEVEL
  let lvl := riskLevel old score w s bw bs
  let c := { c.put ASY_RISK.SCORE score with risk := { c.risk with belowW := bw, belowS := bs, cycles := day } }
  if lvl = old then c else ((c.put ASY_RISK.LEVEL lvl).put ASY_RISK.LEVEL_EV 1).fire 3

/-- WEAR_SAMPLE (R465, R466): the fit of indicator `j`: days, lower bound, unit, daily means. An HBM indicator within HORIZON
starts a planned copy of pseudo-channel `p` of stack `k`, if that is healthy and the spare can be used (R252); a line within it is mapped by PLANNED_LINE_MAPPING. -/
def wearSample (j days low unit samples k p : Nat) (c : Chip) : Chip :=
  if j ≥ 6 then c
  else
    let few := decide (samples < 7)
    let d := if few then 0xFFFF else satTo 0xFFFF days
    let l := if few then 0xFFFF else satTo 0xFFFF low
    let c := (((c.put (ASY_WEAR.DAYS j) d).put (ASY_WEAR.LOW90 j) l).put (ASY_WEAR.UNIT j) unit).put (ASY_WEAR.SAMPLES j) (min 90 samples)
    if j = 1 ∧ !few ∧ d ≠ 0xFFFF ∧ l ≤ c.get ASY_WEAR_CTL.HORIZON ∧ k < 12 ∧ c.get (HBM_REBUILD.KIND k) = 0
        ∧ c.spareFree k ∧ c.get (HBM_STACK_STS.STATE k) ≠ 5 ∧ !bit (c.get (HBM_LOST_MAP.LOST k)) p then
      ((c.put (HBM_REBUILD.KIND k) 2).put (HBM_REBUILD.TARGET k) p).put (HBM_REBUILD.ROW k) 0
    else c

/-! ### Replica partner (R377, R378, R478) -/

/-- REPLICA_ENABLE (R377): a write of ASY_REPLICA that sets ENABLE. -/
def replicaEnable (ag : Agent) (v : Nat) (c : Chip) : Chip :=
  if !ag.top then c
  else
    let c := if bit v 35 then c.put ASY_REPLICA.REFUSED 0 else c
    let feed := c.get ASY_REPLICA.FEED
    if bit v 34 ∧ !c.on ASY_RISK.EXPOSED ∧ (feed = bits v 26 8 ∨ feed = 0xFF) then c.put ASY_REPLICA.REFUSED 1
    else
      let c := ((c.put ASY_REPLICA.PARTNER (bits v 0 18)).put ASY_REPLICA.PFEED (bits v 26 8)).put ASY_REPLICA.ENABLE (bits v 34 1)
      (c.put ASY_REPLICA.SHARE (bits v 36 8)).put ASY_REPLICA.FLOOR (bits v 44 16)

/-! ### Copy-out and stream (R380-R383) -/

/-- The step that BSN_SECURE_STS.STEP_LO names, as a 64-bit number at or below STEP. -/
def Chip.secureStep (c : Chip) (b : Nat) : Nat := c.step b - subMod 32 (c.step b) (c.get (BSN_SECURE_STS.STEP_LO b))

/-- SECURE_GO (R383): arms the copy-out of the step whose low 32 bits are `s`. -/
def secureGo (b s : Nat) (c : Chip) : Chip :=
  if b > 5 then c
  else if c.wasResolved b s ∨ c.get (BSN_SECURE_STS.STATE b) ≥ 2 then c.put (BSN_SECURE_STS.RESULT b) 1
  else match c.secDesc b with
    | none => c.put (BSN_SECURE_STS.RESULT b) 2
    | some d =>
      let c := (c.put (BSN_SECURE_STS.STATE b) 1).put (BSN_SECURE_STS.STEP_LO b) s
      (c.put (BSN_SECURE_STS.INGOTS b) d.ingots).put (BSN_SECURE_STS.DONE b) 0

/-- SECURE_ABORT (R383). -/
def secureAbort (b : Nat) (c : Chip) : Chip := if c.get (BSN_SECURE_STS.STATE b) = 3 then c.secureEnd b 4 else c

/-- The regions copied into a slot after its state image, and the last ingot padded (R380, R381). -/
def Chip.copyRegions (c : Chip) (d : SecDesc) (t : Nat) : Chip :=
  let (c, e) := d.regions.foldl (fun (x : Chip × Nat) r => (x.1.wrHbm x.2 (x.1.mem.reads r.1 r.2), x.2 + r.2)) (c, t + slotHdr + imageLen)
  c.wrHbm e (leBytes (t + slotHdr + d.ingots * ingotLen - e) 0)

/-- COPY_OUT_START (R381): once the armed step is resolved and its temper work is done. -/
def copyOutStart (b : Nat) (c : Chip) : Chip :=
  let s := c.secureStep b
  if c.get (BSN_SECURE_STS.STATE b) ≠ 1 ∨ !c.wasResolved b s ∨ c.engineBusy b s ∨ c.engineBusy b (s - 1) then c
  else match c.secDesc b with
    | none => c.secureEnd b 2
    | some d =>
      let c := (c.put (BSN_SECURE_STS.STATE b) 2).put (BSN_SECURE_STS.DONE b) 0
      c.copyRegions d (c.targetSlot 2 d.keep d.slotLen)

/-- The digest list of the `n` ingots of a slot. -/
def Chip.digests (c : Chip) (t n : Nat) : List Byte :=
  (List.range n).flatMap (fun i => sha3 (c.mem.reads (t + slotHdr + i * ingotLen) ingotLen))

/-- Whether every region still holds what its copy in a slot holds (R381). -/
def Chip.copied (c : Chip) (d : SecDesc) (t : Nat) : Bool :=
  (d.regions.foldl (fun (x : Bool × Nat) r => (x.1 && c.mem.reads r.1 r.2 == c.mem.reads x.2 r.2, x.2 + r.2)) (true, t + slotHdr + imageLen)).1

/-- A region that was written during its copy-out leaves undefined data in the set (R381). -/
def Chip.copySpoil (c : Chip) (d : SecDesc) (t : Nat) : Chip :=
  { c with mem := if c.copied d t then c.mem else c.mem.lose (t + slotHdr + imageLen) (d.ingots * ingotLen - imageLen) (c.losses + 1),
           losses := c.losses + 1 }

/-- COPY_OUT_COMMIT (R373, R381, R382): the KEEP slot is committed, and streaming begins. -/
def copyOutCommit (b : Nat) (c : Chip) : Chip :=
  if c.get (BSN_SECURE_STS.STATE b) ≠ 2 then c
  else match c.secDesc b with
    | none => c.secureEnd b 2
    | some d =>
      let t := c.targetSlot 2 d.keep d.slotLen
      let n := d.ingots
      let (seq, c) := c.nextSeq ((c.newestSlot 2 d.keep d.slotLen).map (·.seq))
      let c := c.copySpoil d t
      let ds := c.digests t n
      let c := (c.wrHbm t ds).wrHbm (t + 0xFFC0) (leBytes 64 (commitRec 2 seq (c.secureStep b) n (sha3 ds)))
      (c.put (BSN_SECURE_STS.STATE b) 3).put (BSN_SECURE_STS.DONE b) 0

/-- STREAM_COMMIT (R382): the stream ends committed at the partner, or without it. -/
def streamCommit (b : Nat) (good : Bool) (c : Chip) : Chip :=
  if c.get (BSN_SECURE_STS.STATE b) ≠ 3 then c
  else
    let n := c.get (BSN_SECURE_STS.INGOTS b)
    if good then
      ((c.emit (.ingots (c.get ASY_REPLICA.PARTNER) b (c.secureStep b) n)).put (BSN_SECURE_STS.DONE b) n).secureEnd b 0
    else c.secureEnd b 3

/-! ### Stop, rewind, send, adopt (R384-R388) -/

/-- A recovery command of a basin ends (R388); event 7 of the basin. -/
def Chip.recovEnd (c : Chip) (b res : Nat) : Chip :=
  let c := c.setBs b { c.bs b with recov := none }
  ((c.put (BSN_RECOVER.BUSY b) 0).put (BSN_RECOVER.RESULT b) res).fireB b 7

def Chip.recovRun (c : Chip) (b : Nat) (x : Nat × Nat × Nat) : Chip :=
  (c.put (BSN_RECOVER.BUSY b) 1).setBs b { c.bs b with recov := some x }

/-- A barrier context is cancelled (R388). -/
def Chip.barDrop (c : Chip) (b x : Nat) : Chip :=
  (((c.put (BSN_BAR_STS.STATE b x) 0).put (BSN_BAR_STS.ROUND b x) 0).put (BSN_BAR_STS.EARLY b x) 0).setBar b x {}

/-- STOP (R388). -/
def stop (ag : Agent) (b : Nat) (c : Chip) : Chip :=
  if !ag.top ∨ b > 5 ∨ c.on (BSN_RECOVER.BUSY b) then c
  else
    let c := (c.stopBasin b).dropEngines b
    let c := (List.range 16).foldl (fun c x => c.barDrop b x) c
    let c := (List.range 64).foldl (fun c q => c.abandonQ b q true) c
    c.recovRun b (1, 0, 0)

/-- The slot of step `s` (its low 32 bits) that a recovery action uses: REWIND its KEEP slot, SEND a replica slot, ADOPT the
set received, in its KEEP slots (R386, R387). -/
def Chip.recovSlot (c : Chip) (b action s : Nat) : Option (SecDesc × Slot) :=
  match c.secDesc b with
  | none => none
  | some d =>
    let ks := if action = 3 then c.slotPair 1 d.repl d.slotLen
      else if action = 2 then c.slotPair 2 d.keep d.slotLen
      else c.slotPair 1 d.keep d.slotLen ++ c.slotPair 2 d.keep d.slotLen
    (ks.find? (fun k => k.step % 2 ^ 32 == s % 2 ^ 32)).map (fun k => (d, k))

/-- A recovery action that needs a stopped basin (R388). -/
def Chip.recovGo (c : Chip) (ag : Agent) (b action s target : Nat) : Chip :=
  if !ag.top ∨ b > 5 ∨ c.on (BSN_RECOVER.BUSY b) then c
  else if !(c.bs b).stopped then c.put (BSN_RECOVER.RESULT b) 1
  else if (c.recovSlot b action s).isNone then c.put (BSN_RECOVER.RESULT b) 2
  else c.recovRun b (action, s, target)

/-- REWIND, SEND and ADOPT (R386, R387). -/
def rewind (ag : Agent) (b s : Nat) (c : Chip) : Chip := c.recovGo ag b 2 s 0
def send (ag : Agent) (b s target : Nat) (c : Chip) : Chip := c.recovGo ag b 3 s target
def adopt (ag : Agent) (b s : Nat) (c : Chip) : Chip := c.recovGo ag b 4 s 0

/-- Regions and state image restored from a slot (R387). -/
def Chip.restore (c : Chip) (b : Nat) (d : SecDesc) (k : Slot) : Chip :=
  let (c, _) := d.regions.foldl (fun (x : Chip × Nat) r => (x.1.wrHbm r.1 (x.1.mem.reads x.2 r.2), x.2 + r.2))
    (c, k.base + slotHdr + imageLen)
  let c := c.applyImage b (k.base + slotHdr)
  let c := (c.put (BSN_STEP.STEP b) (k.step + 1)).put (BSN_AGREE_STS.LAST_STEP b) k.step
  let c := ((c.put (BSN_AGREE_STS.LAST_RESULT b) 1).put (BSN_AGREE_STS.STATE b) 0).put (BSN_AGREE_STS.LOCAL_TAINT b) 0
  let c := c.put (BSN_AGREE_STS.DISTURBED b) 0
  let c := [0, 1].foldl (fun c i => match c.tablePlace b (localOfs i) 0x1000 with
    | some a => c.wrHbm a (leBytes 0x1000 0)
    | none => c) c
  let c := (List.range 16).foldl (fun c x => (c.barDrop b x).put (BSN_BAR_STS.GEN b x) (if x = 0 then k.step + 1 else 0)) c
  let r : Resolved := { step := k.step, committed := true, t := c.get (BSN_TEMPER_T.T b), e := lsOf (c.get (BSN_AGREE_STS.SEALED_LS b)) }
  c.setBs b { c.bs b with resolved := [r], distOpen := false, seenSealed := false, seenNext := false, sentGrad := false }

/-- RECOVER_COMPLETE (R386-R388): `twice`, an ingot mismatched on two routes; `lost`, a transfer failed. -/
def recoverComplete (b : Nat) (twice lost : Bool) (c : Chip) : Chip :=
  match (c.bs b).recov with
  | none => c
  | some (action, s, target) =>
    if action = 1 then
      (if c.ops.any (fun o => o.flow.basin == b) then c
      else (c.setBs b { c.bs b with stopped := true }).recovEnd b 0)
    else match c.recovSlot b action s with
      | none => c.recovEnd b 2
      | some (d, k) =>
        if action = 3 then
          let routes := (List.range 4).any (fun j => c.on (ASY_ROUTE.VALID j))
          (if lost ∨ !routes then c.recovEnd b 4
          else if twice then c.recovEnd b 3
          else (c.emit (.ingots target b k.step k.count)).recovEnd b 0)
        else if lost then c.recovEnd b 4
        else if c.digests k.base k.count ≠ c.mem.reads k.base (32 * k.count) then c.recovEnd b 3
        else (c.restore b d k).recovEnd b 0

/-! ### Last gasp (R379) -/

/-- What a last gasp says of basin `b`. -/
def Chip.gaspOf (c : Chip) (b : Nat) : Nat × Option Nat × Option Nat :=
  match c.secDesc b with
  | some d => (c.step b, (c.newestSlot 2 d.keep d.slotLen).map (·.step), (c.newestSlot 1 d.repl d.slotLen).map (·.step))
  | none => (c.step b, none, none)

/-- The last gasp goes to the replica partner, in single tenancy (R377, R379). -/
def Chip.lastGasp (c : Chip) (cause : Nat) : Chip :=
  if c.singleTenancy then
    c.emit (.lastGasp (c.get ASY_REPLICA.PARTNER) cause { coord := c.coord, cause := cause, steps := (List.range 6).map c.gaspOf })
  else c

/-- LAST_GASP_RECEIVE (R379). -/
def lastGaspReceive (g : Gasp) (c : Chip) : Chip := { c with gasps := g :: c.gasps }.fire 5

end Sys2Proof.Machine
end

