-- ==== Sys2Proof/Machine/Faults.lean ====
section
/-! DEFINITION. Routers and hubs that fail, supplies and pins, resets of the whole part (01 R15, R484, R485; 12 R364, R365;
13 R392; 14 R420, R431, R432; 16 R471-R478). -/
namespace Sys2Proof.Machine

/-! ### Stacks that cannot be reached (R484) -/

/-- Stacks whose two attachment routers are both gone read Failed, and their basins are quenched. -/
def Chip.stackCheck (c : Chip) : Chip :=
  (List.range 12).foldl (fun c k =>
    if (stackRouters k).all (fun r => c.routers.contains r) ∧ c.get (HBM_STACK_STS.STATE k) ≠ 5 then
      (c.put (HBM_STACK_STS.STATE k) 5).takeOut (k / 2) 4
    else c) c

/-! ### Hubs (R364, R365, R432) -/

/-- The link goes down (R420). -/
def Chip.linkDown (c : Chip) : Chip :=
  if c.on HUB_PCIE_STS.LINK_UP then (c.put HUB_PCIE_STS.LINK_UP 0).put HUB_PCIE_STS.DOWN_EV 1 else c

/-- HUB_TAKEOVER: the standby becomes primary and moves the lanes to itself; running copy descriptors run again from their
start, and the ATC starts empty (R364, R432). -/
def Chip.takeover (c : Chip) (cause : Nat) : Chip :=
  let h := 1 - c.get HUB_ROLE.PRIMARY
  let c := { c with irqHold := true, atc := [], copying := [] }
  let c := ((c.put HUB_ROLE.PRIMARY h).put HUB_ROLE.STANDBY_OK 0).inc HUB_ROLE.FAILOVERS
  ((c.put HUB_ROLE.LAST_CAUSE cause).linkDown.put HUB_PCIE_STS.HUB h).fire 2

/-- Hub `h` fails (R364): the standby takes over from a failed primary, the package is lost with its last hub. -/
def Chip.hubFail (c : Chip) (h cause : Nat) : Chip :=
  if h ∈ c.hubDead then c
  else
    let c := { c with hubDead := h :: c.hubDead }
    if h ≠ c.get HUB_ROLE.PRIMARY then c.put HUB_ROLE.STANDBY_OK 0
    else if c.on HUB_ROLE.STANDBY_OK then c.takeover cause
    else (List.range 6).foldl (fun c b => c.setBs b { c.bs b with frozen := true }) c

/-- SWITCH (R365). -/
def Chip.hubSwitch (c : Chip) (ag : Agent) : Chip := if ag.pfSide ∧ c.on HUB_ROLE.STANDBY_OK then c.takeover 3 else c

/-! ### Routers (R15) -/

/-- A die's router is gone, and its die with it (R15, R361); a stack that this cuts off comes first, so its basin's quench names it
(R484). The routing tables follow `routers` (`Chip.meshPath`). -/
def Chip.routerLost (c : Chip) (n : Nat) : Chip :=
  if n ≥ 32 ∨ n ∈ c.routers then c
  else
    let c := { c with routers := insNat c.routers n }.stackCheck
    if n < 26 then c.dieLost n else if n < 30 then fountainDieLoss (n - 26) c else c.hubFail (n - 30) 2

/-- ROUTER_FAILURE (R15). -/
def routerFailure (n : Nat) (c : Chip) : Chip := c.routerLost n

/-! ### The PCIe link (R420, R364) -/

/-- PCIE_LINK_UP: the link trains at a rate and width; interrupts held through a takeover go out. -/
def pcieLinkUp (rate width : Nat) (flit : Bool) (c : Chip) : Chip :=
  let again := c.get HUB_PCIE_STS.RATE != 0
  let c := (((c.put HUB_PCIE_STS.LINK_UP 1).put HUB_PCIE_STS.RATE rate).put HUB_PCIE_STS.WIDTH width).put HUB_PCIE_STS.FLIT (b2n flit)
  let c := (c.put HUB_PCIE_STS.SLOW (b2n (decide (rate < 5) || decide (width < 8)))).put HUB_PCIE_STS.HUB (c.get HUB_ROLE.PRIMARY)
  let c := if again then c.inc HUB_PCIE_STS.RETRAINS else c
  (c.irqs.filter (fun e => !c.msixMask.contains e)).foldl (fun c e => c.emit (.msix e.1 e.2))
    { c with irqHold := false, irqs := c.irqs.filter (fun e => c.msixMask.contains e) }

/-- PCIE_LINK_DOWN (R420). -/
def pcieLinkDown (c : Chip) : Chip := c.linkDown

/-! ### Resets of the part (R431, R485) -/

/-- The endpoint's own state (R431): configuration space, BAR4, MSI-X tables, routes, notifications, VF Enable and the copy
channels; a running copy ends with STATUS 4. -/
def Chip.endpointReset (c : Chip) : Chip :=
  let c := (List.range 16).foldl (fun c i =>
    let c := if (c.copying.find i).isSome then
        let base := c.get (HUB_HCOPY_BASE.BASE i)
        let n := 64 * 2 ^ c.get (HUB_HCOPY_CFG.SIZE i)
        let k := base + 32 * (c.get (HUB_HCOPY_STS.HEAD i) % n)
        if c.isHbm k then
          let w := setBits (setBits (leNat (c.mem.reads k 32)) 224 3 4) 227 1 1
          c.wrHbm k (leBytes 32 w)
        else c
      else c
    ((c.resetReg (HUB_HCOPY_CFG i)).resetReg (HUB_HCOPY_BASE i)).resetReg (HUB_HCOPY_STS i)) c
  let c := (List.range 512).foldl (fun c e => c.resetReg (HUB_EVT_ROUTE e)) c
  let c := (List.range 256).foldl (fun c j => c.resetReg (HUB_NOTIFY j)) c
  { c.resetReg HUB_BAR4_BASE with
    pcie := { bar4 := c.pcie.bar4Rst, bar4Rst := c.pcie.bar4Rst, subsys := c.pcie.subsys, totalVfs := c.pcie.totalVfs }, msixMask := [], copying := [], atc := [], irqs := [], irqHold := false }

/-- What a package reset keeps of a register besides RWS fields: what the policy part holds and the role map, the tick count, and a
rebuild or copy to be restarted (R10, R253, R393, R443, R485). Fields of the part record are loaded from it (`RegRow.inPart`). -/
def resetKeeps (r : RegRow) : Nat :=
  match r.kind with
  | .hubTicks => allBits
  | .hbmRebuild => setBits (setBits 0 23 6 63) 29 2 3
  | _ => r.cfg

/-- Every register of the part at its reset value but for the bits that `keep` names; with `rws`, RWS fields stay. -/
def Chip.resetAll (c : Chip) (rws : Bool) (keep : RegRow → Nat) : Chip :=
  { c with images := [], rowMaps := c.partRows, regs := (c.partOnly 0 0x4000000).foldl (fun m kv => Map.set m kv.1 kv.2) <|
      c.regs.filterMap (fun kv =>
      match c.locate kv.1 with
      | none => none
      | some l =>
        match l.block.reg l.off with
        | none => none
        | some (r, i, j) =>
          let d := regRst r.kind (instOf l.block l.base) i j
          let v := overlay r.inPart (Map.get (BitVec.ofNat 64 d) c.part kv.1).toNat
            (overlay (keep r ||| (if rws then r.rws else 0)) kv.2.toNat d)
          if v = d then none else some (kv.1, BitVec.ofNat 64 v)) }

/-- Every register at its reset value (`resetAll`); Failed and Retired dies stay so through every reset (R24, R485). -/
def Chip.resetRegs (c : Chip) (rws : Bool) (keep : RegRow → Nat) : Chip :=
  let sts := (List.range 26).map (fun n => c.get (HUB_FORGE_STATUS.STATE n))
  (sts.zipIdx).foldl (fun c e => if e.1 = 4 ∨ e.1 = 5 then c.put (HUB_FORGE_STATUS.STATE e.2) e.1 else c) (c.resetAll rws keep)

/-- Every die and unit of the part is reset (R431). HBM keeps its contents where `hbm`; cisterns and rill state are undefined.
A die in state Joining leaves its slot; Failed and Retired dies stay so (R485). A quench record that is being written becomes invalid
(R390). -/
def Chip.coldReset (c : Chip) (rws hbm : Bool) : Chip :=
  let c := (List.range 6).foldl (fun c b =>
    if c.get (BSN_QUENCH.STATE b) = 1 ∧ c.isHbm (c.quenchBase b) then c.wrHbm (c.quenchBase b + 0x3FFFFC0) (leBytes 64 0) else c) c
  let c := c.endpointReset
  let sts := (List.range 26).map (fun n => c.get (HUB_FORGE_STATUS.STATE n))
  let slots := (List.range 6).flatMap (fun b => (List.range 5).map (fun s => (b, s)))
  let c := slots.foldl (fun c e => if sts.getD (c.slotDie e.1 e.2) 0 = 3 then c.put (slotField e.1 e.2) 31 else c) c
  let tabs := (List.range 6).map (fun b => (c.bs b).nf)
  let flows := (List.range 6).map (fun b => ((c.bs b).sendTab, (c.bs b).recvTab))
  let c := c.resetRegs rws resetKeeps
  let c := { c with kerns := [], basins := [], dies := [], temper := [], ladle := [], ops := [], unacked := [], clusters := [],
                    spareCmd := none, held := [], heldReqs := [], ueSeenAt := [], postponed := [], ports := [], heldGets := [], sluiceNext := none, risk := {},
                    lastTrip := none, mesh := [], picks := [], vacated := [] }
  let (e, c) := c.newId
  let c := (List.range 26).foldl (fun c n => c.resetDie n e) c
  let c := (List.range 6).foldl (fun c b =>
    let (s, r) := flows.getD b ([], [])
    c.setBs b { nf := nfClear (tabs.getD b []), sendTab := if hbm then s else [], recvTab := if hbm then r else [] }) c
  if hbm then c else { c.lose 0 0x18000000000 with poison := [], parityBad := [] }

/-- The optical start-up (R287, R291, R356): the sluice takes its map, and every terminated port in service starts to acquire. -/
def Chip.opticalStart (c : Chip) : Chip :=
  let c := c.setWord SLC_MAP barMap
  let next := c.word SLC_MAP_NEXT % 2 ^ 32
  let m := if !c.modes.native then 0x99888888
    else if c.on SLC_CTL.BOOT_HOLD ∨ c.mapCheck next ≠ 0 then barMap else next
  let on (c : Chip) (p : Nat) : Bool := c.pst p FNT_PORT_CTL.ENABLE == 1
  let c := (List.range 8).foldl (fun c p =>
    let c := (c.setPort p { startup := true }).pput p FNT_PORT_STS.STATE 7
    if on c p then c.lasersOn p else c.lasersOff p) c
  let c := if m = barMap then c else (c.takeMap m).inc SLC_MAP.GEN
  (List.range 8).foldl (fun c p => if mapCode m p = 8 ∧ on c p then c.pput p FNT_PORT_STS.STATE 1 else c) c

/-! ### Supplies and pins (R471-R478) -/

/-- The power-fail sequence (R287, R379, R473): last gasp, DARK with a cause on every terminated port, lasers out, the sluice
in its bar state, forge dies and stacks without power. -/
def Chip.powerDown (c : Chip) (dark cause : Nat) : Chip :=
  let c := c.lastGasp cause
  let c := (List.range 8).foldl (fun c p =>
    if mapCode (c.word SLC_MAP) p = 8 then
      let x := c.port p
      (frameTransmit p (c.setPort p { x with ctl := (4, fld 20 4 dark) :: x.ctl })).emit (.light p 0)
    else c) c
  let c := c.coldReset true false
  { c with pwr := { c.pwr with on := false } }

/-- Package STATE after the primary loads are removed. -/
def Chip.bootState (c : Chip) (st : Nat) : Chip := c.put HUB_BOOT_STS.STATE st

/-- A thermal shutdown in the 150 µs (300 slow ticks) after a supply failed: the sequence that runs goes on, and THERMTRIP_N is
asserted (R474). -/
def Chip.lateTrip (c : Chip) : Chip :=
  match c.pwr.failAt with
  | some t => if c.get HUB_TICKS.TICKS < t + 300 then { c with pwr := { c.pwr with thermtrip := true } } else c
  | none => c

/-- A thermal shutdown (R392, R407, R477): `cause` as the last gasp gives it (2 thermal, 3 reference loss). -/
def Chip.thermalShutdown (c : Chip) (cause : Nat) : Chip :=
  if !c.pwr.on then c.lateTrip
  else
    let c := (c.fire 4).powerDown 2 cause
    { c.bootState 5 with pwr := { c.pwr with thermtrip := true, refLost := none } }

/-- FAULT_N is asserted while STATE is Held or shut down (R477). -/
def Chip.faultN (c : Chip) : Bool := c.get HUB_BOOT_STS.STATE == 4 || c.get HUB_BOOT_STS.STATE == 5

/-- STANDBY_POWER_ON (R472, R478): the straps are sampled. -/
def standbyPowerOn (feed inst : Nat) (c : Chip) : Chip :=
  if c.pwr.vsb then c else { c with pwr := { c.pwr with vsb := true, feed := feed, inst := inst } }

/-- POWER_FAIL (R473, R474): 0 VIN12, 1 VLAS33, 2 PWRGD falls. -/
def powerFail (kind : Nat) (c : Chip) : Chip :=
  if kind > 2 then c
  else
    let p := c.pwr
    let p := if kind = 2 then { p with pwrgd := false, needFall := false } else { p with rails := false, needFall := p.pwrgd }
    if !c.pwr.on then { c with pwr := p }
    else
      let c := ({ c with pwr := p }).powerDown (if kind = 2 ∧ p.rails then 2 else 1) (if kind = 2 then 1 else 0)
      { c.bootState 0 with pwr := { c.pwr with failAt := some (c.get HUB_TICKS.TICKS) } }

/-- REFERENCE_LOSS, REFERENCE_LOSS_TIMEOUT and REFERENCE_RETURN (R392). -/
def referenceLoss (c : Chip) : Chip :=
  if c.pwr.refLost.isSome then c else { c with pwr := { c.pwr with refLost := some (c.get HUB_TICKS.TICKS) } }.fire 1
def referenceLossTimeout (c : Chip) : Chip := if c.pwr.refLost.isSome then c.thermalShutdown 3 else c
def referenceReturn (c : Chip) : Chip := { c with pwr := { c.pwr with refLost := none } }

end Sys2Proof.Machine
end

