-- ==== Sys2Proof/Machine/Power.lean ====
section
/-! DEFINITION. Clocks, waking and sleeping, the issue governor, power limits and temperature (13 R391-R417). -/
namespace Sys2Proof.Machine

def Chip.dieP (c : Chip) (n : Nat) : DieP := Map.get {} c.dies n
def Chip.setDieP (c : Chip) (n : Nat) (d : DieP) : Chip := { c with dies := Map.put {} c.dies n d }

/-! ### Waking and sleeping (R391, R394-R396) -/

/-- The ASLEEP bit of a cluster (R417). -/
def Chip.asleep (c : Chip) (kc : Nat) (v : Bool) : Chip :=
  let b := c.clBasin kc
  if b < 6 then c.put (BSN_WAKE.ASLEEP b) (setBits (c.get (BSN_WAKE.ASLEEP b)) (c.clRole kc) 1 (b2n v)) else c

/-- Bit of a cluster's PLL in PWR_DIE_STS. -/
def pllBit (kc : Nat) : RF := ⟨PWR_DIE_STS (kc / 4), 14 + kc % 4, 1⟩

/-- CLUSTER_IDLE (R394): IDLE core cycles have passed with no kernel and no active stream. -/
def clusterIdle (kc : Nat) (c : Chip) : Chip :=
  let x := c.cl kc
  let b := c.clBasin kc
  if kc ≥ 104 ∨ b > 5 ∨ (c.kernOf kc).isSome ∨ x.gated ∨ !x.pllOn then c
  else if c.get (BSN_WAKE.MODE b) = 0 then c.setCl kc { x with gated := true }
  else ((c.setCl kc { x with pllOn := false, gated := true }).asleep kc true).put (pllBit kc) 0

/-- A stopped PLL is started (R396). -/
def Chip.pllStart (c : Chip) (kc : Nat) : Chip :=
  let x := c.cl kc
  if x.pllOn ∨ x.pllStart then c
  else
    let c := (c.setCl kc { x with pllStart := true }).asleep kc false
    let b := c.clBasin kc
    if b < 6 then c.inc (BSN_WAKE.WAKES b) else c

/-- Whether the launch next in queue `q` names cluster `kc` and waits for nothing but stopped clusters (R61, R169, R396). -/
def Chip.wakes (c : Chip) (b q kc : Nat) : Bool :=
  let on := (c.basinCls b).foldl (fun (c : Chip) (j : Nat) => c.setCl j { c.cl j with pllOn := true }) c
  let names (p : Nat) : Bool := bit (decLaunch p).cmask (c.clRole kc) && (match on.launchRes b q (decLaunch p) with
    | .run _ => true
    | _ => false)
  match (c.qu b q).ins with
  | (p, _) :: _ => c.qLive b q && names p
  | [] =>
    match on.headStart b q 1 with
    | .go _ _ p => names p
    | .no _ => false

/-- CLUSTER_WAKE (R396): the launch next in queue `q`, or a released batch, needs the cluster; every stopped cluster that it names starts
at once. -/
def clusterWake (kc q : Nat) (c : Chip) : Chip :=
  let b := c.clBasin kc
  if kc < 104 ∧ b < 6 ∧ c.wakes b q kc then ((c.basinCls b).filter (fun k => c.wakes b q k)).foldl (fun c k => c.pllStart k) c else c

/-- WAKE (R396, R417). -/
def wake (b : Nat) (c : Chip) : Chip := (c.basinCls b).foldl (fun c kc => c.pllStart kc) c

/-- PLL_LOCKED (R391). -/
def pllLocked (kc : Nat) (c : Chip) : Chip :=
  let x := c.cl kc
  if x.pllStart then (c.setCl kc { x with pllOn := true, pllStart := false, woken := true }).put (pllBit kc) 1 else c

/-! ### Frequency (R397) -/

/-- Clusters of a die that are neither gated nor stopped. -/
def Chip.liveCls (c : Chip) (n : Nat) : Nat :=
  ((List.range 4).filter (fun m => let x := c.cl (4 * n + m); x.pllOn && !x.gated)).length

/-- BOOST_STEP (R397): `less` where a power or thermal limit calls for less power. -/
def boostStep (n : Nat) (less : Bool) (c : Chip) : Chip :=
  let b := c.dieBasin n
  let f := c.get (PWR_DIE_STS.FREQ n)
  let d := c.dieP n
  let past (t : Option Nat) : Bool := match t with
    | none => true
    | some t => decide (t + 2000 ≤ c.ticks)
  if n ≥ 26 ∨ !c.modes.boost ∨ b > 5 then c
  else if less then (if f > 0 then c.put (PWR_DIE_STS.FREQ n) (f - 1) else c)
  else if f < 8 ∧ c.get (PWR_DIE_STS.LEVEL n) = 64 ∧ c.get (PWR_GRANT.AVG b) + 2 * c.liveCls n ≤ c.get (PWR_GRANT.GRANT b)
      ∧ c.get (TMP_DIE.TMAX n) < 8 * c.get TMP_CTL.BOOST_T ∧ past d.droopAt ∧ past d.boostAt then
    (c.put (PWR_DIE_STS.FREQ n) (f + 1)).setDieP n { d with boostAt := some c.ticks }
  else c

/-! ### The governor (R399-R402, R406) -/

/-- The new terms of a die: a thermal term rises by at most 4 (R406); a die in Boost mode above FREQ 0 keeps its terms from
falling (R397). -/
def Chip.newTerms (c : Chip) (n p t : Nat) : Chip :=
  let d := c.dieP n
  let lim (v : Nat) : Nat := max 1 (min 64 v)
  let t := min (lim t) (d.tterm + 4)
  let p := lim p
  let boost := c.modes.boost && decide (c.get (PWR_DIE_STS.FREQ n) > 0)
  (c.setDieP n { d with pterm := if boost then max p d.pterm else p, tterm := if boost then max t d.tterm else t }).relevel n

/-- GOVERNOR_UPDATE (R399-R402, R406, R410, R411): what the part measures each 100 µs: for each forge die the levels at which
power and temperature keep within their limits, for each basin its energy over the last W seconds in J, whether HBM_TARGET
lowers the levels of each stack's basin, and the package's average over W seconds and over the last millisecond in W. -/
def governorUpdate (terms : List (Nat × Nat)) (energy : List Nat) (hbm : List Bool) (avg last : Nat) (c : Chip) : Chip :=
  let w := max 1 (c.get PWR_CAP.WINDOW)
  let c := (energy.take 6).zipIdx.foldl (fun c e =>
    let cap := c.get (PWR_GRANT.GRANT e.2) * w
    let c := c.put (PWR_GRANT.AVG e.2) (satTo 0xFFF (e.1 / w))
    c.setBs e.2 { c.bs e.2 with debtOver := decide (100 * (e.1 - cap) > c.get (PWR_GRANT.DEBT_PCT e.2) * cap) }) c
  let c := (terms.take 26).zipIdx.foldl (fun c e => c.newTerms e.2 e.1.1 e.1.2) c
  let c := (hbm.take 12).zipIdx.foldl (fun c e => c.put (TMP_HBM.LIMITING e.2) (b2n e.1)) c
  let c := (c.put PWR_STS.AVG_W (satTo 0xFFF avg)).put PWR_STS.LAST_W (satTo 0xFFF last)
  if c.get PWR_STS.PEAK_W < satTo 0xFFF last then c.put PWR_STS.PEAK_W (satTo 0xFFF last) else c

/-- GRANT_REDISTRIBUTE (R402): Lansel's new grants, `shared` the measured power of the shared dies. They hold only where each
keeps its floor, their sum stays within the cap, and in basin tenancy only tenants whose policy allows it lose or gain. -/
def grantRedistribute (may : Nat → Bool) (gs : List Nat) (shared : Nat) (c : Chip) : Chip :=
  let old (b : Nat) : Nat := c.get (PWR_GRANT.GRANT b)
  let new (b : Nat) : Nat := gs.getD b (old b)
  let ok := (List.range 6).all (fun b => decide (c.get (PWR_GRANT.MIN b) ≤ new b) && decide (new b ≤ 1200)
    && (c.singleTenancy || may b || new b == old b))
  if ok ∧ (List.range 6).foldl (fun n b => n + new b) 0 + shared ≤ c.get PWR_CAP.CAP_W then
    (List.range 6).foldl (fun c b => c.put (PWR_GRANT.GRANT b) (new b)) c
  else c

/-- PEAK_READ (R410): an RC read of PWR_STS. -/
def peakRead (ag : Agent) (c : Chip) : Chip := (c.put PWR_STS.PEAK_W 0).emit (.rdata ag (c.word PWR_STS))

/-- SLACK_READ (R408, R412): an RC read of PWR_SLACK. No basin has resolved a step since. -/
def slackRead (ag : Agent) (c : Chip) : Chip :=
  ((c.put PWR_SLACK.SLACK 0).put PWR_SLACK.BASIN 7).emit (.rdata ag (c.word PWR_SLACK))

/-! ### Safety limits (R46, R403-R407) -/

/-- A safety limit holds issue on die `n`: Whole-mode kernels there are broken (R46), and in Boost mode FREQ returns to 0. -/
def Chip.holdIssue (c : Chip) (n : Nat) : Chip :=
  let c := c.breakWhole n
  (if c.modes.boost then c.put (PWR_DIE_STS.FREQ n) 0 else c).relevel n

/-- DROOP_EVENT (R403). -/
def droopEvent (n : Nat) (c : Chip) : Chip :=
  if n ≥ 26 then c
  else
    let c := (c.count (PWR_DROOP n) 1).put (PWR_DIE_STS.DROOP_EV n) 1
    (c.setDieP n { c.dieP n with droop := true, droopAt := some c.ticks }).holdIssue n

/-- DROOP_RECOVER (R403): the hold ends; its eight steps over 64 core cycles are timing. -/
def droopRecover (n : Nat) (c : Chip) : Chip :=
  if (c.dieP n).droop then (c.setDieP n { c.dieP n with droop := false }).relevel n else c

/-- A die trips (R407). `n` as in R416. -/
def Chip.trip (c : Chip) (n : Nat) : Chip :=
  let c := (c.put (TMP_DIE.TRIP n) 1).fire 4
  let second : Bool := match c.lastTrip with
    | some t => decide (c.ticks < t + 20000000)
    | none => false
  let c := { c with lastTrip := some c.ticks }
  if second then c.thermalShutdown 2 else c.routerLost n

/-- Excursions of 30 °C of a sensor (R463); readings in 0.125 °C. -/
def Chip.excursion (c : Chip) (key t : Nat) : Chip :=
  match c.risk.marks.find key with
  | none => { c with risk := { c.risk with marks := c.risk.marks.set key (t, t, false) } }
  | some (lo, hi, opn) =>
    if !opn then
      let v := if t < lo then (t, hi, false) else if t ≥ lo + 240 then (lo, t, true) else (lo, hi, false)
      { c with risk := { c.risk with marks := c.risk.marks.set key v } }
    else if t + 240 ≤ hi then
      { c with risk := { c.risk with marks := c.risk.marks.set key (t, hi, false), cycles := c.ticks :: c.risk.cycles } }
    else { c with risk := { c.risk with marks := c.risk.marks.set key (lo, max hi t, true) } }

/-- Sensor predictions of R405 in 0.00001 °C: T + slope × PRED_H. -/
def predict (t : Nat) (slope : Int) (h : Nat) : Int := 12500 * t + slope * h

/-- THERMAL_SAMPLE (R404-R407, R416, R463): die `n` of R416 with its sensors' readings in 0.125 °C and fitted slopes in 0.01 °C
per ms, or for `n` = 32 + k the base-die temperature of stack k, above 85 °C of which its refresh rate doubles (R255). -/
def thermalSample (n : Nat) (rs : List (Nat × Int)) (c : Chip) : Chip :=
  match rs with
  | [] => c
  | (t0, s0) :: _ =>
    if n ≥ 44 then c
    else if n ≥ 32 then
      let c := (c.put (TMP_HBM.TEMP (n - 32)) (satTo 0x7FF t0)).put (HBM_STACK_STS.HOT (n - 32)) (b2n (decide (t0 > 680)))
      if t0 ≥ 840 then c.thermalShutdown 2 else c
    else
      let es := rs.zipIdx
      let (tm, sl, ix) := es.foldl (fun (m : Nat × Int × Nat) e => if e.1.1 > m.1 then (e.1.1, e.1.2, e.2) else m) (t0, s0, 0)
      let c := ((c.put (TMP_DIE.TMAX n) (satTo 0x7FF tm)).put (TMP_DIE.SENSOR n) ix).put (TMP_DIE.SLOPE n) (wrapInt 12 sl)
      let c := es.foldl (fun c e => c.excursion (64 * n + e.2) e.1.1) c
      let d := c.dieP n
      let hot := (es.filter (fun e => decide (e.1.1 ≥ 960))).map (·.2)
      let trip := hot.any (fun i => d.hot.contains i)
      let h := c.get TMP_CTL.PRED_H
      let ps := rs.map (fun r => predict r.1 r.2 h)
      let past := ps.any (fun p => decide (p > 10500000))
      let low := ps.all (fun p => decide (p < 100000 * (c.get TMP_CTL.RELEASE : Int)))
      let c := c.setDieP n { d with hot := hot }
      let c := if n ≥ 26 then c
        else if d.clamp then
          (if d.clampN + 1 ≥ 100 ∧ low then
            ((c.setDieP n { c.dieP n with clamp := false, clampN := 0 }).put (TMP_DIE.CLAMP n) 0).relevel n
          else c.setDieP n { c.dieP n with clampN := d.clampN + 1 })
        else if past then
          (((c.setDieP n { c.dieP n with clamp := true, clampN := 0 }).put (TMP_DIE.CLAMP n) 1).put (TMP_DIE.CLAMP_EV n) 1).holdIssue n
        else c
      if trip then c.trip n else c

/-- A sample while the part is off: a stack past its limit within 150 µs of a supply failure (R474). -/
def thermalLate (n : Nat) (rs : List (Nat × Int)) (c : Chip) : Chip :=
  match rs with
  | (t, _) :: _ => if 32 ≤ n ∧ n < 44 ∧ t ≥ 840 then c.lateTrip else c
  | [] => c

end Sys2Proof.Machine
end

