-- ==== Sys2Proof/Machine/Counters.lean ====
section
/-! DEFINITION. Who reaches a register, counters, snapshots and the non-finite summary (01 R35; 14 R421, R423; 15 R458-R467). -/
namespace Sys2Proof.Machine

/-! ### Who reaches a register (R35, R421, R423, R468) -/

/-- The basin whose region a window offset lies in. -/
def regionOf (off : Nat) : Option Nat := if 0x1000000 ≤ off ∧ off < 0x2800000 then some ((off - 0x1000000) / 0x400000) else none

/-- Whether an agent reaches a register of the window, for a read or a write. -/
def Chip.regReach (c : Chip) (ag : Agent) (off : Nat) (write : Bool) : Bool :=
  match ag with
  | .pf | .sideband | .hub => true
  | .vf n => regionOf off == some (c.get (HUB_VF_BIND.BASIN n)) && (!write || c.on (HUB_VF_BIND.ADMIN n))
  | .prog b _ => regionOf off == some b

/-! ### Counters (R458, R459) -/

/-- Rows of event counters and of the two registers of volume counters. -/
def RegRow.isEvent (r : RegRow) : Bool := r.fields == [⟨0, 48, .ro, false⟩, ⟨63, 1, .rws, false⟩]
def RegRow.isEpoch (r : RegRow) : Bool := r.fields == [⟨0, 8, .ro, false⟩, ⟨8, 1, .wo, false⟩]
def RegRow.isVolume (r : RegRow) : Bool :=
  match r.kind with
  | .fabTxvol | .fabRxvol | .hbmRdvol | .hbmWrvol | .bsnTxvol | .bsnRxvol => true
  | _ => false

/-- A register found by its window offset: its row and where it is kept. -/
def Chip.find (c : Chip) (off : Nat) : Option (RegRow × Reg) :=
  match c.locate off with
  | none => none
  | some l => (l.block.reg l.off).map (fun e => (e.1, ⟨l.base + l.off, regRst e.1.kind (instOf l.block l.base) e.2.1 e.2.2⟩))

/-- A write to an event counter (R458): SAT takes the value, and SAT = 0 clears COUNT. -/
def ctrWrite (w : Nat) (sat : Bool) : Nat := if sat then setBits w 63 1 1 else 0

/-- EVENT_COUNTER_WRITE (R458, R467). ASY_NF_DATA stands for the counter that ASY_NF_SEL selects. -/
def eventCounterWrite (ag : Agent) (off : Nat) (sat : Bool) (c : Chip) : Chip :=
  if !c.regReach ag off true then c
  else match c.find off with
    | none => c
    | some (r, g) =>
      if r.kind = .asyNfData then
        let (b, s) := (c.get ASY_NF_SEL.BASIN, c.get ASY_NF_SEL.SLOT)
        let x := c.bs b
        if b > 5 ∨ s = 0 then c else c.setBs b { x with nf := Map.put 0 x.nf s (ctrWrite (Map.get 0 x.nf s) sat) }
      else if r.isEvent then c.setWord g (ctrWrite (c.word g) sat)
      else c

/-- VOLUME_CLEAR (R459): a write of CLEAR to a volume counter's second register. -/
def volumeClear (ag : Agent) (off : Nat) (c : Chip) : Chip :=
  if !c.regReach ag off true then c
  else match c.find off with
    | some (r, g) => if r.isEpoch then (c.setWord ⟨g.key - 8, 0⟩ 0).setWord g 0 else c
    | none => c

/-! ### Snapshots (R461, R462) -/

def snapReg (base : Nat) : Reg := ⟨base + 0xFFF8, 0⟩

/-- Key under which an image holds the non-finite counter of a basin's slot. -/
def nfKey (b s : Nat) : Nat := 0x4000000 + 1024 * b + s

/-- The counters of the block at a base, as they stand. -/
def Chip.counters (c : Chip) (b : Block) (base : Nat) : Map Word :=
  let size := if b = .hub then 0x20000 else 0x10000
  let ws := c.regs.filter (fun e => decide (base ≤ e.1 ∧ e.1 < base + size) && (match b.reg (e.1 - base) with
    | some (r, _) => r.isEvent || r.isEpoch || r.isVolume
    | none => false))
  if b = .asy then
    ws ++ (List.range 6).flatMap (fun d => (c.bs d).nf.map (fun e => (nfKey d e.1, BitVec.ofNat 64 e.2)))
  else ws

/-- A snapshot of one block is taken or released. -/
def Chip.snapOne (c : Chip) (b : Block) (base : Nat) (take : Bool) : Chip :=
  if take then { (c.setWord (snapReg base) 4) with images := c.images.set base (c.counters b base) }
  else { (c.setWord (snapReg base) 0) with images := c.images.erase base }

/-- SNAP_TAKE and SNAP_RELEASE (R461): a write of TAKE or RELEASE to the snapshot register at a window offset. -/
def Chip.snapAt (c : Chip) (ag : Agent) (off : Nat) (take : Bool) : Chip :=
  if !c.regReach ag off true then c
  else match c.locate off with
    | some l => if l.off = 0xFFF8 then c.snapOne l.block l.base take else c
    | none => c
def snapTake (ag : Agent) (off : Nat) (c : Chip) : Chip := c.snapAt ag off true
def snapRelease (ag : Agent) (off : Nat) (c : Chip) : Chip := c.snapAt ag off false

/-- Every block of the package. -/
def allBlocks : List (Block × Nat) :=
  [(.hub, 0), (.asy, 0x20000), (.pwr, 0x30000), (.tmp, 0x40000), (.fab, 0x50000), (.slc, 0x60000)]
  ++ (List.range 4).map (fun d => (.fnt, fntBase d)) ++ (List.range 12).map (fun k => (.hbm, hbmBase k))
  ++ (List.range 6).map (fun b => (.bsn, bsnBase b))
  ++ (List.range 26).flatMap (fun n => (.fge, dieBase n) :: (List.range 4).map (fun m => (.cls, clsBase n m)))

/-- SNAP_ALL_TAKE and SNAP_ALL_RELEASE (R462). -/
def snapAllTake (ag : Agent) (c : Chip) : Chip := if ag.top then allBlocks.foldl (fun c e => c.snapOne e.1 e.2 true) c else c
def snapAllRelease (ag : Agent) (c : Chip) : Chip := if ag.top then allBlocks.foldl (fun c e => c.snapOne e.1 e.2 false) c else c

/-! ### The non-finite summary (R467) -/

/-- The summary of a basin since its last read; of two slots that grew alike the lower is named. -/
def Chip.nfSum (c : Chip) (b : Nat) : Nat :=
  let g := (c.bs b).nfGrow.filter (fun e => decide (e.2 > 0))
  let (s, n) := g.foldl (fun (m : Nat × Nat) e => if e.2 > m.2 then e else m) (0, 0)
  fld 0 10 s + fld 10 22 (satTo (2 ^ 22 - 1) n) + fld 32 10 g.length + fld 42 16 (satTo 0xFFFF (c.bs b).spikeGrow)

/-- NF_SUM_READ (R467): an RC read of ASY_NF_SUM. -/
def nfSumRead (ag : Agent) (b : Nat) (c : Chip) : Chip :=
  (c.setBs b { c.bs b with nfGrow := [], spikeGrow := 0 }).emit (.rdata ag (c.nfSum b))

end Sys2Proof.Machine
end

