-- ==== Sys2Proof/Machine/HostIf.lean ====
section
/-! DEFINITION. Functions, doorbells, copy channels, notifications and the endpoint's resets (14 R418-R432). -/
namespace Sys2Proof.Machine

/-! ### Functions and configuration space (R421-R424) -/

/-- The part is Ready (R421, R435). -/
def Chip.ready (c : Chip) : Bool := c.get HUB_BOOT_STS.STATE == 3

def flag (on : Bool) (l : List Nat) (f : Nat) : List Nat := if on then insNat l f else l.filter (· != f)

/-- The IDs that a function reports (R419): vendor ID in [15:0], device ID in [31:16], class code in [55:32], subsystem vendor and
subsystem ID in [87:56]. A VF's class code and subsystem IDs are the PF's (log entry 156). -/
def Chip.cfgIds (c : Chip) (f : Nat) : Nat :=
  fld 0 16 Config.vendorId + fld 16 16 (if f = 0 then 0x57A2 else 0x57A3) + fld 32 24 0x120000 + fld 56 32 c.pcie.subsys

/-- The agent of a function. -/
def funcAgent (f : Nat) : Agent := if f = 0 then .pf else .vf (f - 1)

/-- CONFIGURATION_SPACE_WRITE (R419, R422, R423): a configuration write, or a read of a function's IDs. A VF exists while VF Enable is 1,
up to TotalVFs of them. -/
def configurationSpaceWrite (w : CfgWr) (c : Chip) : Chip :=
  let p := c.pcie
  match w with
  | .readIds f => c.emit (if f = 0 ∨ (p.vfEn ∧ f ≤ p.totalVfs) then .rdata (funcAgent f) (c.cfgIds f) else .ur (funcAgent f))
  | .bar4Size n => if 28 ≤ n ∧ n ≤ 42 then { (if n = p.bar4 then c else c.put HUB_BAR4_BASE.BASE 0) with pcie := { p with bar4 := n } } else c
  | .vfEnable on => { c with pcie := { p with vfEn := on } }
  | .memEnable f on => { c with pcie := { p with mse := flag on p.mse f } }
  | .busMaster f on => { c with pcie := { p with bme := flag on p.bme f } }
  | .ats f on => { c with pcie := { p with ats := flag on p.ats f } }
  | .msixMask f v on =>
    let rest := c.msixMask.filter (· != (f, v))
    if on then { c with msixMask := (f, v) :: rest }
    else if (f, v) ∈ c.irqs then { c with msixMask := rest, irqs := c.irqs.filter (· != (f, v)) }.sendMsix f v
    else { c with msixMask := rest }

/-- Whether queue `q` of basin `b` is idle (R161). -/
def Chip.qIdle (c : Chip) (b q : Nat) : Bool :=
  !c.on (BSN_Q_CFG.ENABLE b q) || c.get (BSN_Q_STS.RETIRED b q) == c.get (BSN_Q_STS.TAIL b q)

/-- Whether every queue of a mask is idle. -/
def Chip.maskIdle (c : Chip) (b mask : Nat) : Bool := b > 5 || (List.range 64).all (fun q => !bit mask q || c.qIdle b q)

/-- Whether VF `n` may be bound to basin `b` with these queues (R423). -/
def Chip.bindOk (c : Chip) (n b : Nat) (admin : Bool) (mask : Nat) : Bool :=
  let f := n + 1
  let off := !c.pcie.vfEn || (!c.pcie.mse.contains f && !c.pcie.bme.contains f)
  let others := (List.range 64).filter (fun m => m != n && c.get (HUB_VF_BIND.BASIN m) == b)
  off && (b < 6 || b == 7) && c.maskIdle (c.get (HUB_VF_BIND.BASIN n)) (c.word (HUB_VF_QMASK n)) && c.maskIdle b mask
    && (b == 7 || others.all (fun m => c.word (HUB_VF_QMASK m) &&& mask == 0 && !(admin && c.on (HUB_VF_BIND.ADMIN m))))

/-- VF_BIND (R423, R424): a write of HUB_VF_BIND, or with `isMask` of HUB_VF_QMASK. A refused write sets REFUSED and changes nothing
else; one that leaves the binding as it is only clears W1C bits. -/
def vfBind (ag : Agent) (n : Nat) (isMask : Bool) (v : Nat) (c : Chip) : Chip :=
  if !ag.pfSide ∨ n > 63 then c
  else
    let (b, ad, m) := (c.get (HUB_VF_BIND.BASIN n), c.on (HUB_VF_BIND.ADMIN n), c.word (HUB_VF_QMASK n))
    if isMask then
      (if v % 2 ^ 64 = m then c
      else if c.bindOk n b ad (v % 2 ^ 64) then c.setWord (HUB_VF_QMASK n) v else c.put (HUB_VF_BIND.REFUSED n) 1)
    else
      let (b2, ad2) := (bits v 0 3, bit v 3)
      let same : Bool := decide (b2 = b ∧ ad2 = ad)
      if !same ∧ !c.bindOk n b2 ad2 m then c.put (HUB_VF_BIND.REFUSED n) 1
      else
        let c := if bit v 4 then c.put (HUB_VF_BIND.REFUSED n) 0 else c
        let c := if bit v 5 then c.put (HUB_VF_BIND.DB_REFUSED n) 0 else c
        if same then c else (c.put (HUB_VF_BIND.BASIN n) b2).put (HUB_VF_BIND.ADMIN n) (b2n ad2)

/-! ### Doorbells (R162, R421, R423) -/

/-- DOORBELL (R162). Until the part is Ready it is dropped and logged, as is one of a VF that is not bound to the basin (R421). -/
def doorbell (ag : Agent) (b q tail : Nat) (c : Chip) : Chip :=
  if b > 5 ∨ q > 63 then c
  else if !c.ready then c.emit (.dropped ag)
  else match ag with
    | .pf => c.ringDoorbell b q (tail % 65536)
    | .vf n =>
      if c.get (HUB_VF_BIND.BASIN n) ≠ b then c.emit (.dropped ag)
      else if bit (c.word (HUB_VF_QMASK n)) q then c.ringDoorbell b q (tail % 65536)
      else c.put (HUB_VF_BIND.DB_REFUSED n) 1
    | _ => c

/-- NOTIFY_ARM (R430): a write of HUB_NOTIFY. -/
def notifyArm (ag : Agent) (j v : Nat) (c : Chip) : Chip :=
  let may : Bool := match ag with
    | .pf | .sideband => true
    | .vf n => c.get (HUB_NOTIFY.BASIN j) == c.get (HUB_VF_BIND.BASIN n) && bits v 0 3 == c.get (HUB_VF_BIND.BASIN n)
    | _ => false
  if j > 255 ∨ !may then c
  else ((c.put (HUB_NOTIFY.BASIN j) (bits v 0 3)).put (HUB_NOTIFY.LATCH j) (bits v 3 13)).put (HUB_NOTIFY.ARM j) (bits v 16 1)

/-! ### Copy channels (R425-R427) -/

def Chip.chFunc (c : Chip) (i : Nat) : Nat := c.get (HUB_HCOPY_CFG.FUNC i)
def Chip.chSize (c : Chip) (i : Nat) : Nat := 64 * 2 ^ c.get (HUB_HCOPY_CFG.SIZE i)

/-- Basin to which a channel's function is bound; none for the PF. -/
def Chip.chBasin (c : Chip) (i : Nat) : Option Nat := if c.chFunc i = 0 then none else some (c.get (HUB_VF_BIND.BASIN (c.chFunc i - 1)))

/-- `n` bytes of HBM that a channel may use: any for the PF, the bound basin's for a VF, never a quench region (R241, R425). -/
def Chip.chPlace (c : Chip) (i a n : Nat) : Option Nat :=
  match c.placeN a n with
  | some (.hbm k) =>
    if c.inQuench k ∨ c.inQuench (k + (n - 1)) then none
    else match c.chBasin i with
      | none => some k
      | some b => if stackOf k / 2 = b then some k else none
  | _ => none

/-- COPY_DOORBELL (R425): a new TAIL, under the rules of R162; one that they turn away changes nothing. Before Ready, and of a function
that does not own the channel, it is dropped and logged (R421). -/
def copyDoorbell (ag : Agent) (i tail : Nat) (c : Chip) : Chip :=
  let may : Bool := match ag with
    | .pf => true
    | .vf n => c.chFunc i == n + 1
    | _ => false
  let h := c.get (HUB_HCOPY_STS.HEAD i)
  let new := subMod 16 tail h
  if i > 15 then c
  else if !c.ready ∨ !may then c.emit (.dropped ag)
  else if !c.on (HUB_HCOPY_CFG.ENABLE i) ∨ new > c.chSize i ∨ new < subMod 16 (c.get (HUB_HCOPY_STS.TAIL i)) h then c
  else
    let c := c.put (HUB_HCOPY_STS.TAIL i) tail
    if c.get (HUB_HCOPY_STS.STATE i) = 0 ∧ new ≠ 0 then c.put (HUB_HCOPY_STS.STATE i) 1 else c

/-- The descriptor at a channel's HEAD, and where it lies. -/
def Chip.chDesc (c : Chip) (i : Nat) : Option (Nat × Nat) :=
  let h := c.get (HUB_HCOPY_STS.HEAD i)
  (c.chPlace i (c.get (HUB_HCOPY_BASE.BASE i) + 32 * (h % c.chSize i)) 32).map (fun k => (k, leNat (c.mem.reads k 32)))

/-- A descriptor ends: STATUS, then DONE, and the channel moves on, or halts with event 17 (R425, R426). A copy that a reset aborts
(STATUS 4) leaves the halt to the reset. -/
def Chip.chEnd (c : Chip) (i st : Nat) : Chip :=
  let c := match c.chDesc i with
    | some (k, d) => c.wrHbm k (leBytes 32 (setBits (setBits d 224 3 st) 227 1 1))
    | none => c
  let h := (c.get (HUB_HCOPY_STS.HEAD i) + 1) % 65536
  let c := (c.put (HUB_HCOPY_STS.HEAD i) h).put (HUB_HCOPY_STS.LAST i) st
  let c := { c with copying := c.copying.erase i }
  if st ≠ 0 ∧ st ≠ 4 then (c.put (HUB_HCOPY_STS.STATE i) 2).fire 17
  else c.put (HUB_HCOPY_STS.STATE i) (if h = c.get (HUB_HCOPY_STS.TAIL i) then 0 else 1)

/-- The PASID of a descriptor's requests. -/
def cdPasid (d : Nat) : Option Nat := if bit d 161 then some (bits d 162 20) else none

/-- The pages of a copy. -/
def cdPages (d : Nat) : List Nat :=
  let a := bits d 0 64
  let n := bits d 128 32
  (List.range ((a + n - 1) / 4096 - a / 4096 + 1)).map (fun i => a / 4096 + i)

def Chip.atcFind (c : Chip) (f : Nat) (d page : Nat) : Option Nat :=
  (c.atc.find? (fun e => e.func == f && e.pasid == cdPasid d && e.page == page)).map (·.dest)

/-- COPY_DESCRIPTOR_START (R425, R426): the descriptor at HEAD is checked, and where ATS is enabled its pages are translated:
`trans` gives the host's answer for each page that the ATC does not hold. -/
def copyDescriptorStart (i : Nat) (trans : List (Nat × Option Nat)) (c : Chip) : Chip :=
  let f := c.chFunc i
  if i > 15 ∨ c.get (HUB_HCOPY_STS.STATE i) ≠ 1 ∨ (c.copying.find i).isSome ∨ f > 64 ∨ !c.pcie.bme.contains f then c
  else match c.chDesc i with
    | none => c.chEnd i 2
    | some (k, d) =>
      let n := bits d 128 32
      if c.poisoned k 32 then c.chEnd i 3
      else if n < 4 ∨ n % 4 ≠ 0 ∨ (c.chPlace i (bits d 64 48) n).isNone then c.chEnd i 2
      else
        let go (c : Chip) (pages : List (Nat × Nat)) : Chip :=
          { c with copying := Map.set c.copying i { head := c.get (HUB_HCOPY_STS.HEAD i), pages := pages } }
        if !c.pcie.ats.contains f then go c []
        else
          let miss := (cdPages d).filter (fun p => (c.atcFind f d p).isNone)
          let ans := miss.map (fun p => (p, ((trans.find? (fun e => e.1 == p)).bind (·.2))))
          let new := ans.filterMap (fun e => e.2.map (fun t => ({ func := f, pasid := cdPasid d, page := e.1, dest := t } : AtcEnt)))
          let pages := (cdPages d).map (fun p => (p, (((new ++ c.atc).find? (fun e => e.func == f && e.pasid == cdPasid d && e.page == p)).map
            (·.dest)).getD 0))
          let c := { c with atc := (new ++ c.atc).take 4096 }
          if ans.any (fun e => e.2.isNone) then c.chEnd i 1 else go c pages

/-- Bytes sent to the host at the descriptor's address, or page by page at the addresses that the copy had translated. -/
def Chip.toHost (c : Chip) (d : Nat) (pages : List (Nat × Nat)) (bs : List Byte) : Chip :=
  let a := bits d 0 64
  if pages = [] then c.emit (.hostWrite a bs)
  else
    pages.foldl (fun c e =>
      let lo := max a (4096 * e.1) - a
      let hi := min (a + bs.length) (4096 * e.1 + 4096) - a
      c.emit (.hostWrite (4096 * e.2 + (a + lo) % 4096) ((bs.drop lo).take (hi - lo)))) c

/-- COPY_DESCRIPTOR_COMPLETE (R425, R426): `data` is what the host returned for a copy into HBM, `bad` that it was poisoned. -/
def copyDescriptorComplete (i : Nat) (data : List Byte) (bad : Bool) (c : Chip) : Chip :=
  match c.copying.find i, c.chDesc i with
  | some run, some (_, d) =>
    let n := bits d 128 32
    let b := (c.chBasin i).getD (c.get (HUB_HCOPY_CFG.BASIN i))
    let signal (c : Chip) : Chip := if bit d 182 ∧ b < 6 then c.latchApply b (bits d 183 13) false 1 else c
    match c.chPlace i (bits d 64 48) n with
    | none => c.chEnd i 2
    | some k =>
      if bit d 160 then
        (if c.poisoned k n then c.chEnd i 3 else ((c.toHost d run.pages (c.mem.reads k n)).chEnd i 0 |> signal))
      else if bad then c.chEnd i 3
      else if c.partPoison k n then (c.wrHbm k data).chEnd i 3
      else if data.length ≠ n then c
      else signal ((c.wrHbm k data).chEnd i 0)
  | _, _ => c

/-- COPY_RESUME (R427). -/
def copyResume (ag : Agent) (i : Nat) (c : Chip) : Chip :=
  if !ag.pfSide ∨ i > 15 ∨ c.get (HUB_HCOPY_STS.STATE i) ≠ 2 then c
  else c.put (HUB_HCOPY_STS.STATE i) (if c.get (HUB_HCOPY_STS.HEAD i) = c.get (HUB_HCOPY_STS.TAIL i) then 0 else 1)

/-- ATS_INVALIDATE_REQUEST (R418): the translations of a page of a function leave the ATC, and the request is completed. -/
def atsInvalidateRequest (func : Nat) (pasid : Option Nat) (page count : Nat) (c : Chip) : Chip :=
  let hit (e : AtcEnt) : Bool := e.func == func && e.pasid == pasid && decide (page ≤ e.page ∧ e.page < page + count)
  { c with atc := c.atc.filter (fun e => !hit e) }.emit (.invalidated func)

/-! ### Endpoint and function resets (R431) -/

/-- PF_FLR: an endpoint reset that keeps the link up. -/
def pfFlr (c : Chip) : Chip := c.endpointReset

/-- The engine commands of a queue's packets leave their units (R431). -/
def Chip.dropQueueCmds (c : Chip) (b q : Nat) : Chip :=
  let keep (e : ECmd) : Bool := match e.src with
    | .pkt d p _ => !(d == b && p == q)
    | _ => true
  (c.basinDies b).foldl (fun c n =>
    let (x, y) := (c.tu n, c.lu n)
    let c := c.setTu n { x with q := x.q.filter keep, run := x.run.filter (fun r => keep r.cmd), resume := x.resume.filter (fun r => keep r.cmd) }
    let c := c.setLu n { g := y.g.filter keep, u := y.u.filter keep, runG := y.runG.filter (fun r => keep r.cmd),
                         runU := y.runU.filter (fun r => keep r.cmd) }
    let gone := ((y.runG.toList ++ y.runU.toList).filter (fun r => !keep r.cmd)).map (·.cmd.id)
    let c := { c with ops := c.ops.filter (fun o => match o.src with
      | .ladle d i _ => d != n || !gone.contains i
      | _ => true) }
    let c := (c.put (FGE_TEMPER_STS.QDEPTH n) (x.q.filter keep).length).temperState n
    ((c.put (FGE_LADLE_STS.QDEPTH_G n) (y.g.filter keep).length).put (FGE_LADLE_STS.QDEPTH_U n) (y.u.filter keep).length).ladleSts n) c

/-- What a queue runs is stopped as a kernel fault stops it, and the queue is disabled with its ring as it stands (R431). -/
def Chip.flrQueue (c : Chip) (b q : Nat) : Chip :=
  let c := (c.kerns.filter (fun k => k.basin == b && k.queue == q)).foldl (fun c k => c.killKern k 8) c
  let mine (o : Op) : Bool := match o.src with
    | .pkt d p _ => d == b && p == q
    | _ => false
  let c := ({ c with ops := c.ops.filter (fun o => !mine o) }).dropQueueCmds b q
  let x : Basin := c.bs b
  let c : Chip := c.setBs b { x with bars := x.bars.map (fun e => (e.1, { e.2 with waiter := e.2.waiter.filter (fun w => w.1 != q) })) }
  let u : Queue := c.qu b q
  let c : Chip := match u.win.find? (fun s => !s.done) with
    | some s =>
      (c.setQu b q { u with win := u.win.map (fun t => if t.idx = s.idx then t else { t with done := true }) }).qHalt b q 8 (some s.idx)
    | none => c
  c.put (BSN_Q_CFG.ENABLE b q) 0

/-- VF_FLR (R431). -/
def vfFlr (n : Nat) (c : Chip) : Chip :=
  if n > 63 then c
  else
    let b := c.get (HUB_VF_BIND.BASIN n)
    let mask := c.word (HUB_VF_QMASK n)
    let c := if b < 6 then (List.range 64).foldl (fun c q => if bit mask q then c.flrQueue b q else c) c else c
    let c := (List.range 16).foldl (fun c i =>
      if c.chFunc i ≠ n + 1 then c
      else
        let c := if (c.copying.find i).isSome then c.chEnd i 4 else c
        (c.put (HUB_HCOPY_CFG.ENABLE i) 0).put (HUB_HCOPY_STS.STATE i) 0) c
    let c := (List.range 512).foldl (fun c e =>
      if c.get (HUB_EVT_ROUTE.FUNC e) ≠ n + 1 then c
      else
        let c := c.put (HUB_EVT_ROUTE.ENABLE e) 0
        if e ≥ 256 then c.put (HUB_NOTIFY.ARM (e - 256)) 0 else c) c
    if b < 6 ∧ c.on (HUB_VF_BIND.ADMIN n) then c.quench b 2 else c

end Sys2Proof.Machine
end

