-- ==== Sys2Proof/Machine/Boot.lean ====
section
/-! DEFINITION. Start-up, images, configuration sets and resets of the part (14 R431, R434-R446; 01 R27, R485). -/
namespace Sys2Proof.Machine

/-! ### NOR slots (R436, R437) -/

/-- A commit record of the NOR as a 512-bit number (R437). -/
def norRec (kind seq ver : Nat) (digest : List Byte) : Nat :=
  let w := 0x4E526C01 + fld 32 8 kind + fld 64 64 seq + fld 128 32 ver + fld 224 256 (leNat digest)
  w + fld 480 32 (crc32 (leBytes 60 w))

/-- A slotted area: base, slot length, slots, and the kind of its records. -/
structure Area where
  base : Nat
  len : Nat
  count : Nat
  kind : Nat
  deriving DecidableEq, Repr

def policyArea : Area := ⟨0x140000, 0x40000, 2, 1⟩
def ownerArea : Area := ⟨0x100000, 0x20000, 2, 3⟩
def historyArea : Area := ⟨0x1C0000, 0x40000, 8, 6⟩
def imageArea (kind : Nat) : Area :=
  if kind = 1 then ⟨0x1000000, 0x1000000, 2, 4⟩ else if kind = 2 then ⟨0x3000000, 0x800000, 2, 4⟩ else ⟨0x4000000, 0x200000, 2, 4⟩
def goodArea : Area := ⟨0x400000, 0x8000, 2, 5⟩

def Area.slots (a : Area) : List Nat := (List.range a.count).map (fun i => a.base + a.len * i)

/-- Contents of a slot, before its record. -/
def Sec.content (x : Sec) (a : Area) (s : Nat) : List Byte := x.nor.reads s (a.len - 64)

/-- SEQ and VERSION of a slot's record, where it is valid (R437). -/
def Sec.recAt (x : Sec) (a : Area) (s : Nat) : Option (Nat × Nat) :=
  let w := leNat (x.nor.reads (s + a.len - 64) 64)
  if bits w 0 32 = 0x4E526C01 ∧ bits w 32 8 = a.kind ∧ bits w 480 32 = crc32 (leBytes 60 w)
      ∧ bits w 224 256 = leNat (sha3 (x.content a s)) then some (bits w 64 64, bits w 128 32) else none

/-- The valid slots of an area, newest first: slot, SEQ, VERSION. -/
def Sec.valid (x : Sec) (a : Area) : List (Nat × Nat × Nat) :=
  let ins (l : List (Nat × Nat × Nat)) (e : Nat × Nat × Nat) : List (Nat × Nat × Nat) :=
    l.filter (fun y => decide (y.2.1 ≥ e.2.1)) ++ [e] ++ l.filter (fun y => decide (y.2.1 < e.2.1))
  (a.slots.filterMap (fun s => (x.recAt a s).map (fun e => (s, e)))).foldl ins []

/-- SEQ of the next record of an area; free where no record is valid. -/
def State.nextRec (s : State) (a : Area) : Nat × State :=
  let (n, c) := s.chip.nextSeq ((s.sec.valid a).head?.map (fun e => e.2.1))
  (n, { s with chip := c })

/-- A slot is written and committed (R373, R437). -/
def State.commitSlot (s : State) (a : Area) (slot ver : Nat) (content : List Byte) : State :=
  let (seq, s) := s.nextRec a
  let x := s.sec
  let nor := (x.nor.write (slot + a.len - 64) (leBytes 64 0)).write slot content
  let d := sha3 (nor.reads slot (a.len - 64))
  { s with sec := { x with nor := nor.write (slot + a.len - 64) (leBytes 64 (norRec a.kind seq ver d)) } }

/-- The slot of a two-slot area that a writer targets (R373). -/
def Sec.target (x : Sec) (a : Area) : Nat :=
  match (x.valid a).head? with
  | some (s, _) => if s = a.base then a.base + a.len else a.base
  | none => a.base

/-! ### Owner record, policy parts and images (R438-R440, R443, R444) -/

/-- The owner record in force. -/
def Sec.owner (x : Sec) : Option (List Byte) := (x.valid ownerArea).head?.map (fun e => x.content ownerArea e.1)

/-- A field of the owner record; 0 without one. -/
def Sec.ownerF (x : Sec) (i : Nat) : Nat := match x.owner with
  | some r => Config.ownerField r i
  | none => 0

/-- The part of a policy slot that the policy part fills. -/
def polBytes (slot : List Byte) : List Byte := slot.take (Config.policyHdr slot 2)

/-- Whether a policy part's signature holds (R443, R444). -/
def Sec.polSigned (x : Sec) (p : List Byte) : Bool :=
  let n := p.length - 2420
  let key := match x.owner with
    | some r => Config.ownerKey r
    | none => Config.romKey 2
  decide (p.length > 2484) && leNat (p.take 4) == 0x43464731 && Config.verify key (p.take n) (p.drop n)

/-- Whether a policy part verifies for use: signed, and at or above the floor. -/
def Sec.polOk (x : Sec) (p : List Byte) : Bool := x.polSigned p && decide (x.ownerF 0 ≤ Config.policyHdr p 1)

/-- A number in an image header (R438). -/
def Img.num (m : Img) (off n : Nat) : Nat := leNat ((m.hdr.drop off).take n)
def Img.version (m : Img) : Nat := m.num 8 4
def Img.iface (m : Img) : Nat := m.num 12 4
def Img.svn (m : Img) : Nat := m.num 16 4

/-- PEERS of an image. -/
def Img.peers (m : Img) : List (Nat × Nat) := (List.range 16).map (fun i => (m.num (0x50 + 8 * i) 1, m.num (0x54 + 8 * i) 4))

/-- The image in a slot, where its header, signature and body digest verify (R438). -/
def Sec.imgIn (x : Sec) (kind slot : Nat) : Option Img :=
  let a := imageArea kind
  let h := x.nor.reads slot 0x1000
  let len := leNat ((h.drop 0x18).take 8)
  let m : Img := { slot := slot, hdr := h, body := x.nor.reads (slot + 0x1000) len }
  let key (i : Nat) : Bool := !bit (x.ownerF 4) i && (h.drop 0xD0).take 32 == sha3 (Config.romKey i)
    && Config.verify (Config.romKey i) (h.take 0x100) ((h.drop 0x100).take 2420)
  if len + 0x1000 ≤ a.len - 64 ∧ m.num 0 4 = 0x494D4731 ∧ m.num 4 1 = kind ∧ (key 0 ∨ key 1) ∧ (h.drop 0x20).take 32 = sha3 m.body then
    some m
  else none

/-- The candidate of a kind: its newest committed slot that verifies (R440). -/
def Sec.candidate (x : Sec) (kind : Nat) : Option Img := ((x.valid (imageArea kind)).filterMap (fun e => x.imgIn kind e.1)).head?

/-- A tested combination (R439); the images in order of kind. -/
def Sec.tested (x : Sec) (p : List Byte) (ms : List Img) : Bool :=
  let step (m : Img) (k : Nat) : Bool :=
    (Config.stepping k).all (fun v => v != 0 && (List.range 8).any (fun i => m.num (0x40 + 2 * i) 2 == v))
  (ms.zipIdx).all (fun e =>
    step e.1 (e.2 + 1) && decide (e.1.num 0x14 4 ≤ Config.romVersion) && decide (x.ownerF (e.2 + 1) ≤ e.1.svn)
      && (ms.zipIdx).all (fun o => o.2 == e.2 || e.1.peers.contains (o.2 + 1, o.1.version)))
  && (match ms with
    | m :: _ => m.peers.contains (4, Config.policyHdr p 0)
    | [] => false)

/-! ### What the boot ROM runs (R440) -/

/-- The policy part with a digest, in a policy slot or the history. -/
def Sec.polByDigest (x : Sec) (d : List Byte) : Option (List Byte) :=
  let ps := (x.valid policyArea).map (fun e => polBytes (x.content policyArea e.1))
  let hs := (x.valid historyArea).map (fun e => polBytes (x.content historyArea e.1))
  (ps ++ hs).find? (fun p => sha3 p == d)

/-- The images of a known-good entry, where each is in a slot and verifies. -/
def Sec.imgsOf (x : Sec) (vers : List Nat) : Option (List Img) :=
  [1, 2, 3].mapM (fun k => ((imageArea k).slots.filterMap (fun s => x.imgIn k s)).find? (fun m => m.version == vers.getD (k - 1) 0))

/-- A known-good combination. -/
def Sec.fallback (x : Sec) : Option Combo :=
  x.good.findSome? (fun g => match x.polByDigest g.digest, x.imgsOf g.vers with
    | some p, some ms => some { policy := p, imgs := ms }
    | _, _ => none)

/-- The choice of R440: the combination, FALLBACK, and REASON. -/
def Sec.choose (x : Sec) : Option Combo × Bool × Nat :=
  let pol := (x.valid policyArea).head?.map (fun e => polBytes (x.content policyArea e.1))
  let cs := [1, 2, 3].map (fun k => x.candidate k)
  let other (r : Nat) : Option Combo × Bool × Nat := match x.fallback with
    | some f => (some f, true, r)
    | none => (none, false, r)
  match pol, cs.mapM id with
  | none, _ => other 3
  | some p, ms =>
    if !x.polOk p then other 3
    else match ms with
      | none =>
        let missing := [1, 2, 3].any (fun k => (x.candidate k).isNone && (x.valid (imageArea k)).isEmpty)
        other (if missing then 4 else 2)
      | some is => if x.tested p is then (some { policy := p, imgs := is }, false, 0) else other 1

/-! ### Fields of a configuration set (R10, R443) -/

/-- Fields of the policy part that a package reset loads: types 3 and 8. -/
def resetFields : List RF :=
  [FAB_PHYS.PX, FAB_PHYS.PY, FAB_PHYS.PZ, FAB_PHYS.DX, FAB_PHYS.DY, FAB_PHYS.DZ, FAB_PHYS.MWX, FAB_PHYS.MWY, FAB_PHYS.MWZ,
   HUB_RST_CTL.PERST_FULL] ++ (List.range 6).flatMap (fun d => [FAB_DIR.PORT d, FAB_DIR.VALID d])

/-- Fields that a commit changes at once: types 4 to 7 and 9. -/
def commitFields : List RF :=
  [PWR_CAP.CAP_W, PWR_CAP.WINDOW, TMP_CTL.PRED_H, TMP_CTL.CLAMP_LVL, TMP_CTL.RELEASE, TMP_CTL.TARGET, TMP_CTL.BOOST_T,
   TMP_CTL.HBM_TARGET, TMP_CTL.DROOP_MV, ASY_RISK.WATCH, ASY_RISK.SECURE, ASY_RISK.EXPOSED, ASY_REPLICA.PARTNER,
   ASY_REPLICA.PFEED, ASY_REPLICA.SHARE, ASY_REPLICA.FLOOR, ASY_WEAR_CTL.HORIZON, SLC_CTL.BOOT_HOLD, FAB_POOL.U, FAB_POOL.B,
   FAB_POOL.C, FAB_POOL.M, FAB_ACK_CTL.TIMEOUT]
  ++ (List.range 6).flatMap (fun b => [PWR_GRANT.GRANT b, PWR_GRANT.MIN b, PWR_GRANT.DEBT_PCT b])
  ++ (List.range 8).flatMap (fun i => [ASY_RISK_W.W i, ⟨SLC_MAP_NEXT, 4 * i, 4⟩])
  ++ (List.range 8).flatMap (fun p => [FNT_PORT_CTL.ENABLE (portDie p) (portK p), FNT_PORT_CTL.FEC (portDie p) (portK p),
      FNT_PORT_CTL.SWAP_DB (portDie p) (portK p), FNT_PORT_CTL.SWAP_BER (portDie p) (portK p)])
  ++ (List.range 12).map (fun k => HBM_SCRUB_CTL.PERIOD k)

/-- The value a policy part gives a field. -/
def polVal (p : List Byte) (f : RF) : Nat := Config.policyField p f.reg.key f.lo % 2 ^ f.len

def Chip.loadFields (c : Chip) (p : List Byte) (fs : List RF) : Chip := fs.foldl (fun c f => c.put f (polVal p f)) c

/-- A port whose ENABLE has changed is lit or goes dark, its lasers with it (R273, R297). -/
def Chip.portSync (c : Chip) (p : Nat) : Chip :=
  let on := c.pst p FNT_PORT_CTL.ENABLE == 1
  let m := mapCode (c.word SLC_MAP) p
  let c := if !on ∧ (List.range 18).any (fun w => c.lit p w) then c.lasersOff p
    else if on ∧ (List.range 18).any (fun w => c.laser p w == 0) then c.lasersOn p else c
  if !on ∧ c.portState p ≠ 0 ∧ m = 8 then c.pput p FNT_PORT_STS.STATE 0
  else if on ∧ c.portState p = 0 ∧ m = 8 then c.acquire p
  else c

/-- Fixed or Boost (R4, R397): leaving Boost returns every die to FREQ 0. -/
def Chip.setBoost (c : Chip) (on : Bool) : Chip :=
  let c := { c with modes := { c.modes with boost := on } }.put PWR_CAP.BOOST (b2n on)
  if on then c else (List.range 26).foldl (fun c n => c.put (PWR_DIE_STS.FREQ n) 0) c

/-- The fields of a policy part that take effect at its commit (R443). -/
def Chip.policyCommit (c : Chip) (p : List Byte) : Chip :=
  let c := (c.loadFields p commitFields).setBoost (Config.policyMode p 1 == 1)
  (List.range 8).foldl (fun c i => c.portSync i) c

/-- The modes and fields of a policy part that take effect at a package reset (R4, R443); a change of memory mode loses HBM
contents (R5). -/
def Chip.policyReset (c : Chip) (p : List Byte) : Chip :=
  let (opn, compat, guarded) := (Config.policyMode p 0 == 1, Config.policyMode p 2 == 1, Config.policyMode p 3 == 1)
  let changed := c.on (HBM_STACK_STS.MODE 0) != guarded
  let bar4 := max 28 (min 42 (Config.policyMode p 4))
  let c := { c with modes := { c.modes with sheltered := !opn, native := !compat },
                    pcie := { c.pcie with bar4 := bar4, bar4Rst := bar4, subsys := Config.policyMode p 12 % 2 ^ 32,
                                          totalVfs := min 64 (Config.policyMode p 13) } }
  let c := (c.loadFields p resetFields).put FAB_PHYS.COMPAT (b2n compat)
  let c := (List.range 12).foldl (fun c k => c.put (HBM_STACK_STS.MODE k) (b2n guarded)) c
  let c := (c.loadFields p commitFields).setBoost (Config.policyMode p 1 == 1)
  if changed then { c.lose 0 0x18000000000 with poison := [], parityBad := [] } else c

/-- Whether committed fields wait for a package reset (R445). -/
def Chip.pendingReset (c : Chip) (p : List Byte) : Bool :=
  resetFields.any (fun f => c.get f != polVal p f) || max 28 (min 42 (Config.policyMode p 4)) != c.pcie.bar4Rst
    || Config.policyMode p 12 % 2 ^ 32 != c.pcie.subsys || min 64 (Config.policyMode p 13) != c.pcie.totalVfs || (Config.policyMode p 0 == 1) == c.modes.sheltered
    || (Config.policyMode p 2 == 1) == c.modes.native || (Config.policyMode p 3 == 1) != c.on (HBM_STACK_STS.MODE 0)

/-- The fields of a policy part whose ranges the spec states are within them (R402, R410, R415, R376, R445). -/
def polRange (p : List Byte) : Bool :=
  let v := polVal p
  decide (1200 ≤ v PWR_CAP.CAP_W) && decide (v PWR_CAP.CAP_W ≤ 2400) && decide (1 ≤ v PWR_CAP.WINDOW) && decide (v PWR_CAP.WINDOW ≤ 10)
  && (List.range 6).all (fun b => decide (v (PWR_GRANT.MIN b) ≤ v (PWR_GRANT.GRANT b)) && decide (v (PWR_GRANT.GRANT b) ≤ 1200))
  && decide (v TMP_CTL.TARGET ≤ 104) && decide (v TMP_CTL.RELEASE ≤ 104) && decide (v TMP_CTL.BOOST_T ≤ v TMP_CTL.TARGET)
  && decide (1 ≤ v TMP_CTL.PRED_H) && decide (1 ≤ v TMP_CTL.CLAMP_LVL) && decide (v TMP_CTL.CLAMP_LVL ≤ 64)
  && decide (v ASY_RISK.WATCH < v ASY_RISK.SECURE)
  && decide (v FAB_POOL.U + v FAB_POOL.B + v FAB_POOL.C + v FAB_POOL.M ≤ 128)

/-! ### Measurements and the microcode (R145, R449) -/

/-- A measurement of digest `d` in register `i`. -/
def Sec.measure (x : Sec) (i : Nat) (d : List Byte) (tick : Nat) : Sec :=
  { x with ms := x.ms.set i (sha3 (x.ms.getD i [] ++ d)), mlog := x.mlog ++ [(i, d, tick)] }

/-- Every temper unit holds the microcode image's set (R145, R146). -/
def Chip.loadUcode (c : Chip) (m : Img) : Chip :=
  (List.range 26).foldl (fun c n =>
    (c.put (FGE_TEMPER_STS.UCODE_SLOTS n) (Config.ucodeSlots m.body)).put (FGE_TEMPER_STS.UCODE_VER n) m.iface) c

/-- Every FIFO of every temper unit is empty (R145). -/
def Chip.temperIdle (c : Chip) : Bool := (List.range 26).all (fun n => let x := c.tu n; x.q.isEmpty && x.run.isNone && x.resume.isEmpty)

/-! ### The boot ROM and package reset (R431, R434, R440, R447) -/

/-- Whether hub `h` is out: marked failed, or its key does not match its certificate (R447). -/
def State.hubOut (s : State) (h : Nat) : Bool :=
  let key := if h = 0 then s.sec.keyA else s.sec.keyB
  s.chip.hubDead.contains h || (key && !Config.certOk h (s.sec.nor.reads 0 0x100000))

/-- The boot ROM runs (R434, R440): keys, primary hub, measurements, the combination, and STATE 2 or Held. PHASE, a progress code
whose numbers the spec does not give, is a free value from STATE 2 on (R435, log entry 169). -/
def State.bootRom (s : State) : State :=
  let x := s.sec
  let t := s.chip.ticks
  let ident := x.nor.reads 0 0x100000
  let ok (h : Nat) (k : Bool) : Nat := b2n (k && Config.certOk h ident)
  let c := (s.chip.put HUB_BOOT_STS.ID_A_OK (ok 0 x.keyA)).put HUB_BOOT_STS.ID_B_OK (ok 1 x.keyB)
  let c := (c.put HUB_ROLE.PRIMARY (b2n (s.hubOut 0))).put ASY_REPLICA.FEED c.pwr.feed
  let c := c.put HUB_PCIE_STS.HUB (c.get HUB_ROLE.PRIMARY)
  let x := x.measure 0 Config.romDigest t
  let x := match x.owner with
    | some r => x.measure 7 (sha3 r) t
    | none => x
  let (combo, fb, reason) := if s.hubOut 0 ∧ s.hubOut 1 then (none, false, 5) else x.choose
  let c := (c.put HUB_BOOT_STS.FALLBACK (b2n fb)).put HUB_BOOT_STS.REASON reason
  let c := c.put HUB_CFG_STS.HISTORY (x.valid historyArea).length
  match combo with
  | none => { s with chip := c.bootState 4, sec := { x with combo := none } }
  | some k =>
    let x := x.measure 4 (sha3 k.policy) t
    let x := (k.imgs.zipIdx).foldl (fun x e => x.measure (e.2 + 1) (sha3 e.1.body) t) x
    let c := (c.policyReset k.policy).put HUB_CFG_STS.ACTIVE_VER (Config.policyHdr k.policy 1)
    let g : Good := { digest := sha3 k.policy, polVer := Config.policyHdr k.policy 1, vers := k.imgs.map (·.version) }
    let c := c.put HUB_CFG_STS.GOOD (b2n (x.good.contains g))
    let c := match k.imgs with
      | [_, _, u] => c.loadUcode u
      | _ => c
    let c := (List.range 12).foldl (fun c i =>
      c.put (HBM_STACK_STS.STATE i) (if c.deadStacks.contains i ∨ (stackRouters i).all (fun r => c.routers.contains r) then 5 else 1)) c
    let (v, c) := c.opticalStart.fresh
    { s with chip := (c.put HUB_BOOT_STS.PHASE (v % 32)).bootState 2, sec := { x with combo := some k } }

/-- A package reset, or with `power` a power-on (R431): every die is reset and the boot ROM runs. Each router is taken to work after
it (the security engine interface's command word at 0), so that a stack cut off before comes up with its contents (R484); one that does not is found again by ROUTER_FAILURE (log entry
135). -/
def State.packageReset (s : State) (power : Bool) : State :=
  let c := s.chip.coldReset true (!power)
  let c := { c with mem := c.mem.write 0x31004000000 (leBytes 8 0) }
  let c := if power then { c with pwr := { c.pwr with on := true, refLost := none, failAt := none }, routers := [], hubDead := s.chip.hubDead }
    else { c with routers := [] }.inc HUB_BOOT_STS.RESETS
  let x := s.sec
  let x := { x with keyA := x.keyA || power, keyB := x.keyB || power, ms := List.replicate 8 (List.replicate 32 0), mlog := [],
                    level := 0, keysCleared := false, unlocks := 0, challenge := none, hallmark := [], pf := {}, sb := {},
                    readyAt := none, unclean := false, combo := none }
  { s with chip := c, sec := x }.bootRom

/-- PERST_ASSERT (R431, R474): ignored while the part is without primary power. -/
def perstAssert (s : State) : State :=
  if !s.chip.pwr.on then s
  else if s.chip.on HUB_RST_CTL.PERST_FULL then s.packageReset false
  else { s with chip := s.chip.endpointReset }

/-- PWRGD and both rails are there: the part starts (R434, R472). -/
def State.tryStart (s : State) : State :=
  let p := s.chip.pwr
  if p.vsb ∧ p.rails ∧ p.pwrgd ∧ !p.on ∧ !p.needFall then s.packageReset true else s

/-- POWER_GOOD (R434, R472, R474, R477, R478): PWRGD rises with both rails in range; the straps are sampled. -/
def powerGood (feed inst : Nat) (s : State) : State :=
  if s.chip.pwr.pwrgd ∨ !s.chip.pwr.vsb then s
  else
    let p := { s.chip.pwr with pwrgd := true, rails := true, thermtrip := false, feed := feed, inst := inst }
    { s with chip := { s.chip with pwr := p } }.tryStart

/-- PRIMARY_RAILS_IN_RANGE (R472, R474): both rails come into range while PWRGD is asserted. The part took no notice of PWRGD until now,
unless PWRGD has stayed asserted since a rail failed. -/
def primaryRailsInRange (s : State) : State :=
  let p := s.chip.pwr
  let p := if p.pwrgd ∨ !p.vsb then { p with rails := true } else { p with rails := true, pwrgd := true, thermtrip := false }
  { s with chip := { s.chip with pwr := p } }.tryStart

/-- STANDBY_POWER_LOSS (R393, R447, R474): a failure of VIN12; the key store, the tick count, the always-on SRAM and RWS fields
are lost. -/
def standbyPowerLoss (s : State) : State :=
  if !s.chip.pwr.vsb then s
  else
    let c := if s.chip.pwr.on then s.chip.powerDown 1 0 else s.chip
    let c := c.resetRegs false (fun r => if r.kind = .hubTicks then 0 else resetKeeps r)
    let c := { c.bootState 0 with gasps := [], pwr := { c.pwr with vsb := false, on := false, needFall := c.pwr.pwrgd } }
    let c := (List.range 6).foldl (fun c b => c.setBs b { c.bs b with nf := [] }) c
    { s with chip := c, sec := { s.sec with keyA := false, keyB := false, pf := {}, sb := {}, level := 0, challenge := none } }

/-! ### Roles at start-up and Ready (R27, R28, R29, R485) -/

/-- The slots of a basin in the present die-spare mode (R18, R27). -/
def Chip.slotCount (c : Chip) (b : Nat) : Nat := if !c.modes.sheltered ∧ (b = 2 ∨ b = 3) then 5 else 4

/-- A die at start-up: fit for a slot, kept out, or failing its tests. -/
def Chip.fit (c : Chip) (bad : List Nat) (n : Nat) : Bool :=
  decide (n < 26) && !bad.contains n && c.get (HUB_FORGE_STATUS.STATE n) != 4 && c.get (HUB_FORGE_STATUS.STATE n) != 5

/-- Roles are loaded from the map in force: each slot keeps its die while it is fit. -/
def Chip.loadRoles (c : Chip) (bad : List Nat) : Chip :=
  let c := bad.foldl (fun c n => if n < 26 ∧ c.get (HUB_FORGE_STATUS.STATE n) < 4 then
    (c.put (HUB_FORGE_STATUS.STATE n) 4).incSat (HUB_FORGE_STATUS.FAIL_COUNT n) 1 else c) c
  let c := (List.range 6).foldl (fun c b =>
    let n := c.slotCount b
    let home := if b = 2 then 16 else 9
    let c := if n = 5 ∧ c.slotDie b 4 = 31 ∧ (List.range 6).all (fun d => (List.range 5).all (fun s => c.slotDie d s != home)) then
        c.put (slotField b 4) home
      else if n = 4 then c.put (slotField b 4) 31 else c
    (List.range n).foldl (fun c s =>
      let d := c.slotDie b s
      if c.fit bad d then
        let c := (c.put (HUB_FORGE_STATUS.BASIN d) b).put (HUB_FORGE_STATUS.SLOT d) s
        (c.put (HUB_FORGE_STATUS.HOPS d) (stackHops d b)).put (HUB_FORGE_STATUS.STATE d) 1
      else c.put (slotField b s) 31) c) c
  (List.range 26).foldl (fun c n =>
    if c.fit bad n ∧ c.dieBasin n = 7 then c.put (HUB_FORGE_STATUS.STATE n) (if c.modes.sheltered then 2 else 0) else c) c

/-- Empty slots are filled from the spares, basin by basin and slot by slot; a basin without enough dies, or with a Failed
stack, is out of service (R23, R251, R485). -/
def Chip.fillRoles (c : Chip) : Chip :=
  (List.range 6).foldl (fun c b =>
    let n := c.slotCount b
    let c := (List.range n).foldl (fun c s =>
      if c.slotDie b s ≠ 31 then c
      else match c.pickSpare b with
        | some k => c.seatDie b s k 1
        | none => c) c
    let have4 := ((List.range n).filter (fun s => decide (c.slotDie b s < 26))).length
    let c := if n = 5 ∧ have4 = 4 ∧ c.slotDie b 4 < 26 then
        let s := ((List.range 4).find? (fun s => c.slotDie b s == 31)).getD 0
        let m := c.slotDie b 4
        ((c.unplace m).seatDie b s m 1).put (slotField b 4) 31
      else c
    let ok := have4 ≥ 4 ∧ c.stacksOk b = true
    (c.put (BSN_DIE_MAP.SLOTS b) (if ok then have4 else 0)).setBs b { c.bs b with outOfService := !decide ok }) c

/-- A stack comes up: a rebuild starts again, a lost pseudo-channel leaves it Degraded (R250, R253, R264). -/
def Chip.stackUp (c : Chip) (k : Nat) : Chip :=
  if c.get (HBM_STACK_STS.STATE k) = 5 then c
  else c.put (HBM_STACK_STS.STATE k) (c.stackState k)

/-- BOOT_READY (R434, R485): start-up ends `ms` after power-good; `bad` are the dies that fail their tests. -/
def bootReady (ms : Nat) (bad : List Nat) (s : State) : State :=
  let c := s.chip
  if c.get HUB_BOOT_STS.STATE ≠ 2 then s
  else
    let c := (List.range 12).foldl (fun c k => c.stackUp k) c
    let c := (c.loadRoles bad).fillRoles
    let c := match s.sec.combo with
      | some k => c.loadFields k.policy commitFields
      | none => c
    let c := c.put HUB_ROLE.STANDBY_OK (b2n (!s.hubOut 0 && !s.hubOut 1))
    let c := (List.range 8).foldl (fun c p => if c.portState p = 1 then c.acquire p else c) c
    let c := ((c.put HUB_BOOT_STS.READY_MS ms).bootState 3).fire 0
    { s with chip := c, sec := { s.sec with readyAt := some c.ticks } }

/-- Mailbox commands that run when a hub takes over end with RESULT 8 (R432). -/
def State.cutCommands (s : State) : State :=
  let cut (p : MPath) : MPath := { p with run := p.run.map (fun r => { r with result := 8, resp := some [] }) }
  { s with sec := { s.sec with pf := cut s.sec.pf, sb := cut s.sec.sb, unclean := true } }

/-- PRIMARY_HEARTBEAT_LOSS (R364): `reported` where the primary reported its own fault. -/
def primaryHeartbeatLoss (reported : Bool) (s : State) : State :=
  if !s.chip.pwr.on then s
  else { s with chip := s.chip.hubFail (s.chip.get HUB_ROLE.PRIMARY) (if reported then 2 else 1) }.cutCommands

/-- SWITCH (R365). -/
def switch (ag : Agent) (s : State) : State :=
  if ag.pfSide ∧ s.chip.on HUB_ROLE.STANDBY_OK then { s with chip := s.chip.hubSwitch ag }.cutCommands else s

end Sys2Proof.Machine
end

