-- ==== Sys2Proof/Machine/Mailbox.lean ====
section
/-! DEFINITION. The mailbox commands of both paths (14 R441-R457). Each command has its effect when it is given; its status and
response follow at MAILBOX_COMMAND_DONE. -/
namespace Sys2Proof.Machine

/-! ### The executor (R454-R456) -/

/-- Bases of the host mailbox, of its response area and of the security engine interface (R263, R453, R457). -/
def mbxBase : Nat := 0x31000000000
def mbxResp : Nat := 0x31000080000
def mbxRespLen : Nat := 0x80000
def seBase : Nat := 0x31004000000

/-- Commands that write the NOR, RESET and LIVE_UPDATE (R456). -/
def opAlone (op : Nat) : Bool := [0x10, 0x11, 0x12, 0x21, 0x22, 0x23, 0x30, 0x40].contains op

/-- Commands not served in the Held state (R455). -/
def opNotHeld (op : Nat) : Bool := op == 0x12 || op == 0x58

/-- Commands served before power-good (R433). -/
def opStandby (op : Nat) : Bool := [0x01, 0x02, 0x03, 0x10, 0x11, 0x12, 0x20, 0x21, 0x22, 0x23, 0x30, 0x40].contains op

def Sec.path (x : Sec) (ag : Agent) : MPath := if ag = .sideband then x.sb else x.pf
def Sec.setPath (x : Sec) (ag : Agent) (p : MPath) : Sec := if ag = .sideband then { x with sb := p } else { x with pf := p }

/-- Whether an agent can give a command now: the host through its physical function while the endpoint answers, the sideband
on standby power. -/
def State.mayCommand (s : State) (ag : Agent) : Bool :=
  match ag with
  | .pf => s.chip.pwr.on && [2, 3, 4].contains (s.chip.get HUB_BOOT_STS.STATE)
  | .sideband => s.chip.pwr.vsb
  | _ => false

/-- The path beside that of an agent. -/
def otherPath (ag : Agent) : Agent := if ag = .sideband then .pf else .sideband

/-- A command is running; one that comes while the other path's runs is behind it (R456: in arrival order). -/
def State.runCmd (s : State) (ag : Agent) (r : MRun) : State :=
  let r := { r with behind := (s.sec.path (otherPath ag)).run.isSome }
  let x := s.sec.setPath ag { s.sec.path ag with run := some r }
  { s with sec := x, chip := if ag = .sideband then s.chip else s.chip.put HUB_MBX_STS.BUSY 1 }

/-- TAG of the command word of a path; the sideband's messages name none (log entry 33). -/
def State.cmdTag (s : State) (ag : Agent) : Nat := if ag = .sideband then 0 else s.chip.get HUB_MBX_CMD.TAG

/-- Whether a command that must run alone runs on either path. -/
def Sec.aloneRuns (x : Sec) : Bool := [x.pf.run, x.sb.run].any (fun r => match r with
  | some r => opAlone r.op && !r.refused
  | none => false)

/-- RESULT of a command that the executor refuses; none where it runs (R433, R455, R456). -/
def State.turned (s : State) (op : Nat) : Option Nat :=
  if !s.chip.pwr.on ∧ !opStandby op then some 5
  else if s.chip.get HUB_BOOT_STS.STATE = 4 ∧ opNotHeld op then some 5
  else if opAlone op ∧ s.sec.aloneRuns then some 1
  else none

/-- What a command answers with: RESULT, whether the combination is untested, and its response. -/
structure Reply where
  result : Nat := 0
  untested : Bool := false
  resp : Option (List Byte) := some []
  deriving DecidableEq, Repr

/-- A command comes on a path (R454-R456): refused with RESULT 1 while the path is busy, else it runs. -/
def State.command (s : State) (ag : Agent) (op : Nat) (f : State → Reply × State) : State :=
  if !s.mayCommand ag then s
  else if (s.sec.path ag).run.isSome then
    if ag = .sideband then { s with chip := s.chip.emit (.mctp [1]) } else { s with chip := s.chip.put HUB_MBX_STS.RESULT 1 }
  else
    let (r, t) : Reply × State := match s.turned op with
      | some n => ({ result := n }, s)
      | none => f s
    t.runCmd ag { op := op, tag := s.cmdTag ag, result := r.result, untested := r.untested, resp := r.resp,
                  refused := (s.turned op).isSome }

/-- A RESULT other than 0 that the spec does not name. -/
def State.openResult (s : State) : Reply × State :=
  let (v, c) := s.chip.fresh
  ({ result := 1 + v % 15 }, { s with chip := c })

/-- Whether the command of a path is the next to end: it is behind none of the other path's (R456). -/
def Sec.mayEnd (x : Sec) (ag : Agent) (r : MRun) : Bool := !(r.behind && (x.path (otherPath ag)).run.isSome)

/-- A path's command has ended, and the other path's is behind none. -/
def Sec.ended (x : Sec) (ag : Agent) : Sec :=
  let x := x.setPath ag { x.path ag with run := none }
  let o := x.path (otherPath ag)
  x.setPath (otherPath ag) { o with run := o.run.map (fun r => { r with behind := false }) }

/-- Event of a commit that has ended, with whatever RESULT: 13 for a policy part's, 14 for an image's (R428, log entry 169). -/
def Chip.commitEv (c : Chip) (r : MRun) : Chip :=
  if r.refused then c else if 0x21 ≤ r.op ∧ r.op ≤ 0x23 then c.fire 13 else if r.op = 0x11 then c.fire 14 else c

/-- MAILBOX_COMMAND_DONE (R454, R456): the commands of both paths end in the order in which they came; the response, the status word,
and events 13 to 15. A response whose contents the spec does not give is undefined. -/
def mailboxCommandDone (ag : Agent) (s : State) : State :=
  let p := s.sec.path ag
  match p.run with
  | none => s
  | some r =>
    if !s.sec.mayEnd ag r then s else
    let s := { s with sec := s.sec.ended ag }
    let resp := if r.result = 0 then r.resp else some []
    let (v, c) := s.chip.fresh
    let c := c.commitEv r
    let n := match resp with
      | some bs => bs.length
      | none => v % (mbxRespLen + 1)
    let w := fld 1 1 1 + fld 2 4 r.result + fld 6 1 (b2n r.untested) + fld 16 16 r.tag + fld 32 32 n
    if ag = .sideband then
      let bs := match resp with
        | some bs => bs
        | none => (List.range n).map (fun i => Config.freeByte v i)
      { s with chip := c.emit (.mctp (leBytes 8 w ++ bs)) }
    else
      let c := match resp with
        | some bs => { c with mem := c.mem.write mbxResp bs }
        | none => c.lose mbxResp mbxRespLen
      { s with chip := (c.setWord HUB_MBX_STS w).fire 15 }

/-! ### Reports (R433, R448, R451, R455) -/

/-- STATUS: the spec does not give the response's contents. -/
def mbxStatus (ag : Agent) (s : State) : State := s.command ag 0x01 (fun s => ({ resp := none }, s))

/-- LOG_READ: a range of the boot and fault log (R436), whose entries the spec does not give: its bytes are free (log entry 169). -/
def logRead (ag : Agent) (off len : Nat) (s : State) : State :=
  s.command ag 0x02 (fun s =>
    if off + len ≤ 0x800000 ∧ len ≤ mbxRespLen then
      let (v, c) := s.chip.fresh
      ({ resp := some ((List.range len).map (fun i => Config.freeByte v i)) }, { s with chip := c })
    else ({ result := 6 }, s))

/-- CERTS (R448). -/
def certs (ag : Agent) (s : State) : State :=
  s.command ag 0x03 (fun s => ({ resp := some (Config.certChain (s.sec.nor.reads 0 0x100000)) }, s))

/-! ### The hallmark (R449-R451) -/

/-- PKID of a hub (R448). -/
def pkid (h : Nat) : List Byte := sha3 (Config.hubKey h)

/-- The measurement log as bytes: register number, digest and HUB_TICKS of each entry (R457). -/
def Sec.logBytes (x : Sec) : List Byte := x.mlog.flatMap (fun e => leBytes 8 e.1 ++ e.2.1 ++ leBytes 8 e.2.2)

/-- The package modes in force, one bit per pair in the order of R4's table, 1 for the second mode. -/
def Chip.modeBits (c : Chip) : Nat :=
  b2n (!c.modes.sheltered) + 2 * b2n c.modes.boost + 64 * b2n (!c.modes.native) + 1024 * c.get (HBM_STACK_STS.MODE 0)

/-- The bytes of a hallmark that are signed (R450). -/
def State.hallmarkBody (s : State) (nonce : List Byte) : List Byte :=
  let c := s.chip
  let x := s.sec
  let img (k : Nat) : List Byte := match x.combo with
    | some m => match m.imgs[k]? with
      | some i => leBytes 4 i.version ++ leBytes 4 i.svn ++ leBytes 4 i.iface ++ leBytes 4 0
      | none => leBytes 16 0
    | none => leBytes 16 0
  leBytes 4 0x484D4B31 ++ leBytes 2 1 ++ leBytes 2 2964 ++ leBytes 8 (c.get HUB_BOOT_STS.RESETS)
  ++ nonce ++ pkid 0 ++ pkid 1 ++ leBytes 1 (c.get HUB_ROLE.PRIMARY) ++ leBytes 1 x.level
  ++ leBytes 1 (c.get HUB_BOOT_STS.FALLBACK + 2 * c.get HUB_BOOT_STS.REASON) ++ leBytes 1 0
  ++ leBytes 4 (c.get HUB_CFG_STS.ACTIVE_VER) ++ leBytes 8 c.ticks
  ++ ([1, 2, 3].flatMap (fun k => leBytes 2 ((Config.stepping k).headD 0))) ++ leBytes 10 0
  ++ img 0 ++ img 1 ++ img 2 ++ x.ms.flatMap id
  ++ leBytes 8 c.modeBits ++ leBytes 8 (b2n c.singleTenancy) ++ leBytes 8 (bits (c.word FAB_PHYS) 0 18) ++ leBytes 40 0
  ++ sha3 x.logBytes

/-- Whether the primary hub can sign: the level is below Vendor and its key matches its certificate (R451, R452). -/
def State.maySign (s : State) : Bool :=
  let h := s.chip.get HUB_ROLE.PRIMARY
  s.sec.level != 2 && (if h = 0 then s.sec.keyA else s.sec.keyB) && Config.certOk h (s.sec.nor.reads 0 0x100000)

/-- HALLMARK (R450, R451). -/
def hallmark (ag : Agent) (nonce : List Byte) (s : State) : State :=
  s.command ag 0x04 (fun s =>
    if nonce.length ≠ 32 then ({ result := 6 }, s)
    else if !s.maySign then ({ result := 5 }, s)
    else
      let body := s.hallmarkBody nonce
      let (v, c) := s.chip.fresh
      let h := body ++ ((Config.sign (c.get HUB_ROLE.PRIMARY) body v) ++ List.replicate 2420 0).take 2420
      ({ resp := some h }, { s with chip := c, sec := { s.sec with hallmark := h } }))

/-! ### Images (R442) -/

/-- The slot of a kind that does not hold the image in use. -/
def Sec.stageSlot (x : Sec) (kind : Nat) : Nat :=
  let a := imageArea kind
  match x.combo.bind (fun k => k.imgs[kind - 1]?) with
  | some m => if m.slot = a.base then a.base + a.len else a.base
  | none => x.target a

/-- IMAGE_STAGE (R442): the first chunk zeroes the slot's commit record. -/
def imageStage (ag : Agent) (kind off : Nat) (data : List Byte) (s : State) : State :=
  s.command ag 0x10 (fun s =>
    let a := imageArea kind
    if kind = 0 ∨ kind > 3 then s.openResult
    else if off + data.length > a.len - 64 then ({ result := 6 }, s)
    else
      let x := s.sec
      let slot := x.stageSlot kind
      let nor := x.nor.write (slot + a.len - 64) (leBytes 64 0)
      ({}, { s with sec := { x with nor := nor.write (slot + off) data } }))

/-- Whether what the boot ROM would now choose from the newest parts is tested. -/
def Sec.nextTested (x : Sec) : Bool :=
  match (x.valid policyArea).head?, [1, 2, 3].mapM (fun k => x.candidate k) with
  | some e, some ms => x.tested (polBytes (x.content policyArea e.1)) ms
  | _, _ => false

/-- IMAGE_COMMIT (R442). -/
def imageCommit (ag : Agent) (kind : Nat) (s : State) : State :=
  s.command ag 0x11 (fun s =>
    if kind = 0 ∨ kind > 3 then s.openResult
    else
      let slot := s.sec.stageSlot kind
      match s.sec.imgIn kind slot with
      | none => ({ result := 2 }, s)
      | some m =>
        if m.svn < s.sec.ownerF kind then ({ result := 3 }, s)
        else
          let s := s.commitSlot (imageArea kind) slot m.version []
          let x := s.sec.measure 6 (sha3 (s.sec.content (imageArea kind) slot)) s.chip.ticks
          ({ untested := !x.nextTested }, { s with sec := x }))

/-- The running combination's entry of the known-good list (R441). -/
def Combo.entry (k : Combo) : Good :=
  { digest := sha3 k.policy, polVer := Config.policyHdr k.policy 1, vers := k.imgs.map (·.version) }

/-- LIVE_UPDATE (R442): `starts` tells whether the standby hub starts the new image. -/
def liveUpdate (ag : Agent) (starts : Bool) (s : State) : State :=
  s.command ag 0x12 (fun s =>
    match s.sec.combo, s.sec.candidate 1 with
    | some k, some m =>
      match k.imgs with
      | [l, f, u] =>
        if !s.chip.on HUB_ROLE.STANDBY_OK then ({ result := 5 }, s)
        else if !m.peers.contains (1, l.version) ∨ !s.sec.tested k.policy [m, f, u] ∨ !starts then ({ result := 4 }, s)
        else
          let d := sha3 m.body
          let x := (s.sec.measure 1 d s.chip.ticks).measure 6 d s.chip.ticks
          let k : Combo := { k with imgs := [m, f, u] }
          let c := (s.chip.takeover 3).put HUB_ROLE.STANDBY_OK 1
          let t := { s with chip := c.put HUB_CFG_STS.GOOD (b2n (x.good.contains k.entry)), sec := x }.cutCommands
          ({}, { t with sec := { t.sec with combo := some k, readyAt := some s.chip.ticks, unclean := false } })
      | _ => ({ result := 5 }, s)
    | _, _ => ({ result := 5 }, s))

/-! ### Configuration sets (R445) -/

/-- CFG_STAGE. -/
def cfgStage (ag : Agent) (off : Nat) (data : List Byte) (s : State) : State :=
  s.command ag 0x20 (fun s =>
    if off + data.length > policyArea.len - 64 then ({ result := 6 }, s)
    else
      let p := s.sec.path ag
      ({}, { s with sec := s.sec.setPath ag { p with stage := p.stage.write off data } }))

/-- A new image of the temper microcode takes effect at a configuration commit made while every temper FIFO is empty (R145). -/
def State.newUcode (s : State) : State :=
  match s.sec.combo, s.sec.candidate 3 with
  | some k, some m =>
    match k.imgs with
    | [l, f, u] =>
      if s.chip.temperIdle ∧ m ≠ u ∧ s.sec.tested k.policy [l, f, m] then
        { s with chip := s.chip.loadUcode m,
                 sec := { s.sec.measure 3 (sha3 m.body) s.chip.ticks with combo := some { k with imgs := [l, f, m] } } }
      else s
    | _ => s
  | _, _ => s

/-- A policy part has become active (R443, R445, R446): M6, and where the part runs, the fields whose point of change has come. -/
def State.cfgActive (s : State) (slot : List Byte) : State :=
  let p := polBytes slot
  let s := { s with sec := s.sec.measure 6 (sha3 slot) s.chip.ticks }
  let c := s.chip
  if !c.pwr.on then s
  else
    let c := (c.put HUB_CFG_STS.ACTIVE_VER (Config.policyHdr p 1)).put HUB_CFG_STS.HISTORY (s.sec.valid historyArea).length
    match s.sec.combo with
    | none => { s with chip := c }
    | some k =>
      let c := (c.policyCommit p).put HUB_CFG_STS.PENDING_RESET (b2n (c.pendingReset p))
      let s := { s with chip := c, sec := { s.sec with combo := some { k with policy := p } } }.newUcode
      match s.sec.combo with
      | some k => { s with chip := s.chip.put HUB_CFG_STS.GOOD (b2n (s.sec.good.contains k.entry)) }
      | none => s

/-- The slot of the next history entry of the ring. -/
def Sec.histSlot (x : Sec) : Nat :=
  match (x.valid historyArea).head? with
  | some (s, _) => historyArea.base + ((s - historyArea.base) / historyArea.len + 1) % 8 * historyArea.len
  | none => historyArea.base

/-- Why a staged policy part is refused: RESULT, or an open one for a field out of range; none where it is accepted (R445). -/
def Sec.cfgRefused (x : Sec) (p : List Byte) : Option (Option Nat) :=
  let v := Config.policyHdr p 1
  let lansel := match x.combo with
    | some k => k.imgs.head?
    | none => x.candidate 1
  let ifaceOk := match lansel with
    | some m => m.peers.contains (4, Config.policyHdr p 0)
    | none => false
  let newer := match (x.valid policyArea).head? with
    | some (s, _) => decide (Config.policyHdr (polBytes (x.content policyArea s)) 1 < v)
    | none => true
  if !x.polSigned p then some (some 2)
  else if !ifaceOk ∨ !newer ∨ v < x.ownerF 0 then some (some 3)
  else if !polRange p then some none
  else none

/-- CFG_COMMIT (R445). -/
def cfgCommit (ag : Agent) (s : State) : State :=
  s.command ag 0x21 (fun s =>
    let slot := (s.sec.path ag).stage.reads 0 (policyArea.len - 64)
    match s.sec.cfgRefused (polBytes slot) with
    | some (some n) => ({ result := n }, s)
    | some none => s.openResult
    | none =>
      let prev := s.sec.target policyArea
      let s := match s.sec.recAt policyArea prev with
        | some (_, v) => s.commitSlot historyArea s.sec.histSlot v (s.sec.content policyArea prev)
        | none => s
      ({}, (s.commitSlot policyArea prev (Config.policyHdr (polBytes slot) 1) slot).cfgActive slot))

/-- CFG_REVERT (R445): the previous set's commit record is written again with the next SEQ. -/
def cfgRevert (ag : Agent) (s : State) : State :=
  s.command ag 0x22 (fun s =>
    let prev := s.sec.target policyArea
    match s.sec.recAt policyArea prev with
    | none => ({ result := 5 }, s)
    | some (_, v) => ({}, (s.commitSlot policyArea prev v []).cfgActive (s.sec.content policyArea prev)))

/-- CFG_RESTORE (R445): history entry k goes to the slot that is not active. -/
def cfgRestore (ag : Agent) (k : Nat) (s : State) : State :=
  s.command ag 0x23 (fun s =>
    let h := historyArea.base + k * historyArea.len
    if k > 7 then ({ result := 5 }, s)
    else match s.sec.recAt historyArea h with
      | none => ({ result := 5 }, s)
      | some (_, v) =>
        let slot := s.sec.content historyArea h
        ({}, (s.commitSlot policyArea (s.sec.target policyArea) v slot).cfgActive slot))

/-- OWNER_SET (R444). M7 is extended with the record that is now in force (R449, log entry 105). -/
def ownerSet (ag : Agent) (rec : List Byte) (s : State) : State :=
  s.command ag 0x30 (fun s =>
    let n := ownerArea.len - 64
    if rec.length > n then ({ result := 6 }, s)
    else
      let r := rec ++ List.replicate (n - rec.length) 0
      let commit (s : State) : Reply × State :=
        let s := s.commitSlot ownerArea (s.sec.target ownerArea) (Config.ownerField r 5) r
        ({}, { s with sec := s.sec.measure 7 (sha3 r) s.chip.ticks })
      if Config.ownerField r 4 % 4 = 3 then s.openResult
      else match s.sec.owner with
        | none => if ag = .sideband then commit s else ({ result := 5 }, s)
        | some o =>
          if !Config.ownerSigned o r then ({ result := 2 }, s)
          else if Config.ownerField r 5 ≤ Config.ownerField o 5 then ({ result := 3 }, s)
          else commit s)

/-! ### RESET (R407, R431, R455) -/

/-- Supplies are there for the part to run on. -/
def Chip.supplied (c : Chip) : Bool := c.pwr.vsb && c.pwr.rails && c.pwr.pwrgd && !c.pwr.needFall

/-- RESET: a package reset; after a thermal shutdown it brings the part back (R407); without primary power nothing is running
that it could reset. -/
def mbxReset (ag : Agent) (s : State) : State :=
  if !s.mayCommand ag ∨ (s.sec.path ag).run.isSome ∨ (s.turned 0x40).isSome then s.command ag 0x40 (fun s => ({}, s))
  else if s.chip.pwr.on then s.packageReset false
  else if s.chip.get HUB_BOOT_STS.STATE = 5 ∧ s.chip.supplied then
    let t := s.packageReset true
    { t with chip := t.chip.inc HUB_BOOT_STS.RESETS }
  else s.command ag 0x40 (fun s => ({}, s))

/-! ### Debug lock (R452) -/

/-- DEBUG_CHALLENGE: 32 bytes from the entropy source. -/
def debugChallenge (ag : Agent) (s : State) : State :=
  s.command ag 0x50 (fun s =>
    let n := s.sec.entropy
    let ch := (List.range 4).flatMap (fun i => leBytes 8 (Config.entropy (2 ^ 64 + n + i)))
    ({ resp := some ch }, { s with sec := { s.sec with challenge := some ch, entropy := n + 4 } }))

/-- The debug level goes up; at level Vendor the key store is cleared first. -/
def Sec.unlock (x : Sec) (level : Nat) : Sec :=
  let x := if level = 2 then { x with keyA := false, keyB := false, keysCleared := true } else x
  { x with level := max x.level level, unlocks := (x.unlocks + 1) % 65536 }

/-- DEBUG_UNLOCK: each challenge serves one attempt. -/
def debugUnlock (ag : Agent) (level : Nat) (token : List Byte) (s : State) : State :=
  s.command ag 0x51 (fun s =>
    match s.sec.challenge with
    | none => ({ result := 5 }, s)
    | some ch =>
      let x := { s.sec with challenge := none }
      let s := { s with sec := x }
      let msg := ch ++ pkid 0 ++ pkid 1 ++ leBytes 1 level
      let ok := if level = 1 then (match x.owner with
          | some r => Config.verify (Config.ownerKey r) msg token
          | none => false)
        else level == 2 && Config.verify (Config.romKey 3) msg token
      if !ok then ({ result := 2 }, s)
      else ({}, { s with sec := (x.unlock level).measure 5 (sha3 msg) s.chip.ticks }))

/-- DEBUG_LOCK: Locked at once; halts made by debug commands end. -/
def debugLock (ag : Agent) (s : State) : State :=
  s.command ag 0x52 (fun s =>
    ({}, { s with chip := { s.chip with dbgHalt := [] }, sec := { s.sec with level := 0, challenge := none } }))

/-! ### What Lansel records by itself (R441, R445) -/

/-- KNOWN_GOOD_TIMER (R441): GOOD_S seconds are 2,000,000 slow ticks each. -/
def knownGoodTimer (s : State) : State :=
  match s.sec.combo, s.sec.readyAt with
  | some k, some t =>
    if s.chip.ready ∧ !s.sec.unclean ∧ t + 2000000 * Config.policyMode k.policy 5 ≤ s.chip.ticks then
      { s with sec := { s.sec with good := (k.entry :: s.sec.good.filter (· ≠ k.entry)).take 8 }, chip := s.chip.put HUB_CFG_STS.GOOD 1 }
    else s
  | _, _ => s

/-- A CFG_ command runs on either path (R456). -/
def Sec.cfgRuns (x : Sec) : Bool := [x.pf.run, x.sb.run].any (fun r => match r with
  | some r => decide (0x20 ≤ r.op ∧ r.op ≤ 0x23) && !r.refused
  | none => false)

/-- The fields that the part record holds, as they stand (R443). -/
def Chip.partNow (c : Chip) : Map Word :=
  c.regs.filterMap (fun kv => match c.locate kv.1 with
    | none => none
    | some l =>
      match l.block.reg l.off with
      | none => none
      | some (r, i, j) =>
        let d := regRst r.kind (instOf l.block l.base) i j
        let v := overlay r.inPart kv.2.toNat d
        if v = d then none else some (kv.1, BitVec.ofNat 64 v))

/-- PART_RECORD_COMMIT (R253, R443, R445, R446, R456): the hub records what has changed, and later resets load it. -/
def partRecordCommit (s : State) : State :=
  if !s.chip.pwr.on ∨ s.sec.cfgRuns then s
  else { s with chip := { s.chip.inc HUB_CFG_STS.PART_GEN with part := s.chip.partNow, partRows := s.chip.rowMaps } }

end Sys2Proof.Machine
end

