-- ==== Sys2Proof/Machine/Hbm.lean ====
section
/-! DEFINITION. Stack controllers and cisterns: errors, poison, parity, lost pseudo-channels, spares (08 R240-R271). -/
namespace Sys2Proof.Machine

/-! ### Placement (R242-R244) -/

def Chip.guarded (c : Chip) (k : Nat) : Bool := c.on (HBM_STACK_STS.MODE k)

/-- Where a stack offset lies in Guarded mode (R244): stripe row, group, member, and the parity member of the row. -/
def guardedAt (o : Nat) : Nat × Nat × Nat × Nat :=
  let b := o / 256
  let r := b / 60
  let j := b % 60
  let i := j % 15
  (r, j / 15, if i < r % 16 then i else i + 1, r % 16)

/-- The pseudo-channel of an HBM address (R243, R244). -/
def Chip.pcOf (c : Chip) (a : Nat) : Nat :=
  if c.guarded (stackOf a) then
    let (_, g, m, _) := guardedAt (a % 2 ^ 37)
    g + 4 * m
  else
    let b := a % 2 ^ 37 / 256
    (b ^^^ (b / 64)) % 64

/-- The offset in its pseudo-channel of an HBM address (R243, R244). -/
def Chip.pcOffset (c : Chip) (a : Nat) : Nat :=
  let b := a % 2 ^ 37 / 256
  (if c.guarded (stackOf a) then b / 60 else b / 64) * 256 + a % 256

/-- The pseudo-channel that holds the parity of an address's group row (R244). -/
def parityPc (a : Nat) : Nat :=
  let (_, g, _, q) := guardedAt (a % 2 ^ 37)
  g + 4 * q

/-- The first byte of the group row of an address (R245). -/
def groupRow (a : Nat) : Nat := a - a % 2 ^ 37 + a % 2 ^ 37 / 3840 * 3840

/-- The addresses that share an address's place in the 15 data blocks of its group row (R244). -/
def rowMates (a : Nat) : List Nat := (List.range 15).map (fun i => groupRow a + 256 * i + a % 256)

/-- The parity byte of an address's place: the exclusive-or of the 15 data bytes (R244). It is a function of them while the group row's
parity is good (`Chip.parityBad`), and no agent reads it. -/
def Chip.parityByte (c : Chip) (a : Nat) : Byte := (rowMates a).foldl (fun x m => x ^^^ (c.mem.reads m 1).getD 0 0) 0

/-- Whether a pseudo-channel is lost and not replaced, and whether its parity group holds a lost one. -/
def Chip.pcLost (c : Chip) (k p : Nat) : Bool := bit (c.get (HBM_LOST_MAP.LOST k)) p
def Chip.grpExposed (c : Chip) (k g : Nat) : Bool := bit (c.get (HBM_STACK_STS.EXPOSED k)) g

/-! ### Priority (R254) -/

/-- The three priorities of a request. -/
inductive Prio where
  | urgent
  | normal
  | bulk
  deriving DecidableEq, Repr

/-- The priority that a fabric request, a spout or a ladle request takes from its runnel: U 0, B 1, C 2. -/
def runPrio (run : Nat) : Prio := if run = 0 then .urgent else if run = 1 then .bulk else .normal

/-- The priority of a requester (R254): a ladle command's RUNNEL picks runnel U; engine traffic is otherwise normal. -/
def Chip.prio (c : Chip) : Reader → Prio
  | .kernel _ _ => .urgent
  | .stream _ _ | .temper _ | .host _ => .normal
  | .ladle n upd => (match (c.lu n).run upd with
    | some r => if bit r.d 5 then .urgent else .normal
    | none => .normal)
  | .spout id => (match c.ops.find? (fun o => o.id == id) with
    | some o => if o.flow.run = 1 then .bulk else .normal
    | none => .normal)
  | .fabric run => runPrio run
  | .record => .bulk

/-- Normal and bulk requests at a ratio of 3 to 1 while both wait, each in arrival order (R254). -/
def threeToOne {α : Type} : List α → List α → List α
  | a :: b :: c :: ns, d :: ds => a :: b :: c :: d :: threeToOne ns ds
  | ns, ds => ns ++ ds

/-- The order in which a controller serves requests that wait (R254): urgent ones in arrival order, then normal and bulk 3 to 1. -/
def Chip.serveOrder (c : Chip) (rs : List HbmReq) : List HbmReq :=
  let of (p : Prio) : List HbmReq := rs.filter (fun r => c.prio r.who == p)
  of .urgent ++ threeToOne (of .normal) (of .bulk)

/-! ### Granules in error (R246-R248) -/

/-- What a controller finds in a granule: its data, or nothing that can be read. -/
inductive Found where
  | good
  | corrected
  | recon
  | bad
  deriving DecidableEq, Repr

/-- Whether another data granule of the group row of an address cannot be read: it is poisoned, or its pseudo-channel is lost. -/
def Chip.mateBad (c : Chip) (a : Nat) : Bool :=
  (rowMates a).any (fun m => m != a && (c.poison.contains (m / 64) || c.pcLost (stackOf a) (c.pcOf m)))

/-- Whether the parity of an address's group row cannot be read: it was written poisoned, or its pseudo-channel is lost. -/
def Chip.parityGone (c : Chip) (a : Nat) : Bool := c.parityBad.contains (groupRow a) || c.pcLost (stackOf a) (parityPc a)

/-- A granule with `syms` symbols in error; `others` and `par`: the other 14 data granules, and the parity granule, of its group row are
correctable. A block of a lost pseudo-channel has no granule of its own (R249). -/
def Chip.inspect (c : Chip) (a syms : Nat) (others par : Bool) : Found :=
  let k := stackOf a
  let lost := c.pcLost k (c.pcOf a)
  if !lost ∧ syms = 0 then .good
  else if !lost ∧ syms ≤ 2 then .corrected
  else if c.guarded k && others && par && !c.mateBad a && !c.parityGone a then .recon
  else .bad

/-- HBM_UE_LOG records the first uncorrectable granule (R268). -/
def Chip.ueLog (c : Chip) (k a p : Nat) (recovered : Bool) : Chip :=
  let c := if c.on (HBM_UE_LOG.VALID k) then c
    else (((c.put (HBM_UE_LOG.ADDR k) (a / 64 * 64)).put (HBM_UE_LOG.PC k) p).put (HBM_UE_LOG.RECOVERED k) (b2n recovered)).put
      (HBM_UE_LOG.VALID k) 1
  c.fire 11

/-! ### Lost pseudo-channels (R249-R252) -/

/-- A stack becomes Failed and its basin goes out of service (R251). -/
def Chip.stackFail (c : Chip) (k : Nat) : Chip :=
  let c := { c with deadStacks := insNat c.deadStacks k, held := c.held.filter (· != k), heldReqs := c.heldReqs.filter (fun r => stackOf r.a != k) }
  ((c.put (HBM_STACK_STS.STATE k) 5).takeOut (k / 2) 4).fire 11

/-- One pseudo-channel is lost (R249-R251). -/
def Chip.losePc (c : Chip) (k p : Nat) : Chip :=
  if c.get (HBM_STACK_STS.STATE k) = 5 then c
  else
    let ofSpare := c.on (HBM_STACK_STS.SPARE_USED k) && c.get (HBM_STACK_STS.SPARE_FOR k) == p
    let c := if ofSpare then { c.put (HBM_STACK_STS.SPARE_USED k) 0 with spareDead := insNat c.spareDead k } else c
    if !ofSpare ∧ c.pcLost k p then c
    else if !c.guarded k ∨ c.grpExposed k (p % 4) then c.stackFail k
    else
      let c := c.put (HBM_LOST_MAP.LOST k) (setBits (c.get (HBM_LOST_MAP.LOST k)) p 1 1)
      let c := c.put (HBM_STACK_STS.EXPOSED k) (setBits (c.get (HBM_STACK_STS.EXPOSED k)) (p % 4) 1 1)
      let c := if c.get (HBM_REBUILD.KIND k) = 2 then c.put (HBM_REBUILD.KIND k) 0 else c
      if c.get (HBM_REBUILD.KIND k) = 0 ∧ c.spareFree k then
        ((c.put (HBM_REBUILD.KIND k) 1).put (HBM_REBUILD.TARGET k) p).put (HBM_REBUILD.ROW k) 0
      else c

/-- The unused spare is lost: it is never used again, and a rebuild or copy into it ends (R250, R252). -/
def Chip.loseSpare (c : Chip) (k : Nat) : Chip :=
  { (if c.get (HBM_REBUILD.KIND k) = 0 then c else c.put (HBM_REBUILD.KIND k) 0) with spareDead := insNat c.spareDead k }

/-- A controller declares a pseudo-channel lost, or the channel that holds it; new requests to the stack are held until the release. -/
def Chip.declareLost (c : Chip) (k p : Nat) (channel : Bool) : Chip :=
  if p = 64 then (if c.on (HBM_STACK_STS.SPARE_USED k) then c else c.loseSpare k)
  else
    let c := if c.get (HBM_STACK_STS.STATE k) = 5 then c else { c with held := insNat c.held k }
    let c := if channel then (c.losePc k (p / 2 * 2)).losePc k (p / 2 * 2 + 1) else c.losePc k p
    if c.get (HBM_STACK_STS.STATE k) = 5 then c else c.fire 11

/-- Granule `g` of pseudo-channel `p` (64 the unused spare) is found uncorrectable: the fourth within 1 ms, which is 2,000 slow ticks,
declares the pseudo-channel lost (R249). -/
def Chip.ueSeen (c : Chip) (k p g : Nat) : Chip :=
  let now := c.get HUB_TICKS.TICKS
  let key := 65 * k + p
  let l := (key, g, now) :: c.ueSeenAt.filter (fun e => decide (now < e.2.2 + 2000) && !(e.1 == key && e.2.1 == g))
  if (l.filter (fun e => e.1 == key)).length ≥ 4 then ({ c with ueSeenAt := l.filter (fun e => e.1 != key) }).declareLost k p false
  else { c with ueSeenAt := l }

/-- The controller handles a granule it has read (R246, R248). -/
def Chip.handle (c : Chip) (a syms : Nat) (others par : Bool) : Chip :=
  let k := stackOf a
  let p := c.pcOf a
  let lost := c.pcLost k p
  match c.inspect a syms others par with
  | .good => c
  | .corrected => c.count (HBM_CE_COUNT k) 1
  | .recon =>
    let c := c.count (HBM_RECON_COUNT k) 1
    if lost then c else (c.ueLog k a p true).ueSeen k p (a / 64)
  | .bad =>
    if c.poison.contains (a / 64) then c
    else
      let c := (({ c with poison := insNat c.poison (a / 64) }).count (HBM_UE_COUNT k) 1).ueLog k a p false
      if lost then c else c.ueSeen k p (a / 64)

/-- What a poisoned granule, or an address fault at a controller, does to the agent that met it (R241, R247, R248): the sender of a
fabric packet is answered by the packet's own row, and a host access by its own. -/
def Chip.meet (c : Chip) (who : Reader) : Chip :=
  match who with
  | .kernel kc k | .stream kc k => if (c.kernOf kc).isSome then c.kernelFault kc k 6 0 else c
  | .temper n =>
    (match (c.tu n).run with
    | some r => c.temperEnd n r.cmd r.works 4 r.done r.nfg
    | none => c)
  | .ladle n upd =>
    let x := c.lu n
    (match x.run upd with
    | some r => c.setLu n (x.setRun upd (some { r with fault := true }))
    | none => c)
  | .spout id =>
    (match c.ops.find? (fun o => o.id == id) with
    | some o =>
      let c := { c with ops := c.ops.filter (fun x => x.id != id) }
      (match o.src with
      | .seq kc k => if (c.kernOf kc).isSome then c.kernelFault kc k 6 0 else c
      | .pkt b q i => c.qHalt b q 8 (some i)
      | _ => c)
    | none => c)
  | .fabric _ | .host _ | .record => c

/-- Whether a requester may reach an address (R241): a quench region is written by the hub's quench record alone, and read by the host's
physical function, the virtual function bound to the basin and the sideband. -/
def Chip.mayHbm (c : Chip) (who : Reader) (a : Nat) (write : Bool) : Bool :=
  !c.inQuench a || (match who with
    | .record => write
    | .host ag => !write && (match ag with
      | .pf | .sideband => true
      | .vf n => c.get (HUB_VF_BIND.BASIN n) == stackOf a / 2 && c.on (HUB_VF_BIND.ADMIN n)
      | _ => false)
    | _ => false)

/-- A stack takes a request: its controller is not in self-refresh (R257). -/
def Chip.takes (c : Chip) (k : Nat) : Bool := c.get (HBM_STACK_STS.STATE k) != 6

/-- The parity of a group row after a write to it (R245), `f` what the old granule held: where the old data or the old parity cannot be
read, the parity is formed from the data granules, and is written poisoned if one of those cannot be read either. -/
def Chip.parityAfter (c : Chip) (a : Nat) (f : Found) (others par : Bool) : Chip :=
  if c.guarded (stackOf a) ∧ !c.pcLost (stackOf a) (parityPc a) ∧ (f = .bad ∨ !par) ∧ (!others ∨ c.mateBad a) then
    { c with parityBad := insNat c.parityBad (groupRow a) }
  else c

/-- A read of `n` bytes of one granule (R246-R249, R256, R268), with `syms` symbols in error and the other granules of its group row
correctable or not, that took `ns`. -/
def Chip.serveRead (c : Chip) (a n syms : Nat) (others par : Bool) (ns : Nat) (who : Reader) : Chip :=
  let k := stackOf a
  let c := c.volume (HBM_RDVOL k) (HBM_RDVOLE.EPOCH k) n
  let c := if c.prio who = .urgent ∧ ns > c.get (HBM_URGENT_MAX.NS k) then c.put (HBM_URGENT_MAX.NS k) (satTo 0xFFFF ns) else c
  let c := c.handle a syms others par
  if c.poison.contains (a / 64) then c.meet who else c

/-- A write of bytes of one granule, or of a whole group row (R245, R247). -/
def Chip.serveWrite (c : Chip) (a : Nat) (data : List Byte) (syms : Nat) (others par : Bool) (who : Reader) : Chip :=
  let k := stackOf a
  let c := c.volume (HBM_WRVOL k) (HBM_WRVOLE.EPOCH k) data.length
  if data.length > 64 then c.wrHbm a data
  else
    let f := if c.poison.contains (a / 64) then Found.bad else c.inspect a syms others par
    let c1 := if f = .bad then c else c.handle a syms others par
    if data.length = 64 then (c1.parityAfter a f others par).wrHbm a data
    else if f = .bad then (if c.poison.contains (a / 64) then c else c.handle a syms others par).meet who
    else (c1.parityAfter a f others par).wrHbm a data

/-- A request that a controller serves. -/
def Chip.serve (c : Chip) (r : HbmReq) : Chip :=
  match r.data with
  | none => c.serveRead r.a r.n r.syms r.others r.par r.ns r.who
  | some d => c.serveWrite r.a d r.syms r.others r.par r.who

/-- A request arrives at a controller (R241, R249, R257): one that may not reach its address meets an address fault, one to a stack whose
requests are held waits for the release, and a controller that is quenched takes none. -/
def Chip.request (c : Chip) (r : HbmReq) : Chip :=
  let k := stackOf r.a
  if !c.isHbm r.a ∨ !c.takes k then c
  else if !c.mayHbm r.who r.a r.data.isSome then c.meet r.who
  else if c.held.contains k then { c with heldReqs := c.heldReqs ++ [r] }
  else c.serve r

/-- Whether a write is of bytes of one granule, or of a whole group row (R245). -/
def wfHbmWrite (a n : Nat) : Bool := decide (0 < n ∧ a % 64 + n ≤ 64) || (n == 3840 && groupRow a == a)

/-- HBM_READ_REQUEST (R246-R249, R256, R268): `n` bytes of one granule from `a`. -/
def hbmReadRequest (a n syms : Nat) (others par : Bool) (ns : Nat) (who : Reader) (c : Chip) : Chip :=
  if n = 0 ∨ a % 64 + n > 64 then c else c.request ⟨a, n, none, syms, others, par, ns, who⟩

/-- HBM_WRITE_REQUEST (R245, R247): bytes of one granule or a whole group row, with what the controller finds in the old granule. -/
def hbmWriteRequest (a : Nat) (data : List Byte) (syms : Nat) (others par : Bool) (who : Reader) (c : Chip) : Chip :=
  if wfHbmWrite a data.length then c.request ⟨a, data.length, some data, syms, others, par, 0, who⟩ else c

/-- BANK_REFRESH (R255): a refresh for whose bank an urgent read waits is postponed, at most 8 times. -/
def bankRefresh (k p bank : Nat) (waiting : Bool) (c : Chip) : Chip :=
  let key := (k * 65 + p) * 256 + bank
  let n := Map.get 0 c.postponed key
  { c with postponed := Map.put 0 c.postponed key (if waiting ∧ n < 8 then n + 1 else 0) }

/-- A granule read by the scrub that holds no data of an address (R258): of parity, which is rebuilt from the 15 data granules `others`
where it cannot be corrected and is poisoned where that fails, or of the unused spare, whose contents nothing can rebuild. The spec gives
such a granule no package address: UE_LOG shows a free value (log entry 154). -/
def Chip.scrubOther (c : Chip) (k : Nat) (at' : ScrubAt) (syms : Nat) (others : Bool) : Chip :=
  if syms = 0 then c
  else if syms ≤ 2 then c.count (HBM_CE_COUNT k) 1
  else
    let (v, c) := c.fresh
    let poisoned (c : Chip) (p : Nat) : Chip := (c.count (HBM_UE_COUNT k) 1).ueLog k (v % 2 ^ 48) p false
    match at' with
    | .parity a =>
      let bad := (rowMates a).any (fun m => c.poison.contains (m / 64) || c.pcLost k (c.pcOf m))
      let c := if others && !bad then (c.count (HBM_RECON_COUNT k) 1).ueLog k (v % 2 ^ 48) (parityPc a) true
        else poisoned { c with parityBad := insNat c.parityBad (groupRow a) } (parityPc a)
      c.ueSeen k (parityPc a) (2 ^ 42 + a / 64)
    | .spare g =>
      let (p, c) := c.fresh
      (poisoned c (p % 64)).ueSeen k 64 g
    | .data _ => c

/-- SCRUB_READ (R258): a granule read at scrub priority; `last` ends a full pass. -/
def scrubRead (k : Nat) (at' : ScrubAt) (syms : Nat) (others par last : Bool) (c : Chip) : Chip :=
  let go : Bool := match at' with
    | .data a => stackOf a == k
    | .parity a => stackOf a == k && c.guarded k && !c.pcLost k (parityPc a)
    | .spare _ => c.spareFree k && c.get (HBM_REBUILD.KIND k) == 0
  let a := match at' with
    | .data a | .parity a => a
    | .spare _ => k * 2 ^ 37
  if k ≥ 12 ∨ !go ∨ !c.isHbm a ∨ !c.takes k ∨ !c.on (HBM_SCRUB_CTL.ENABLE k) ∨ c.held.contains k then c
  else
    let c := c.volume (HBM_RDVOL k) (HBM_RDVOLE.EPOCH k) 64
    let c := match at' with
      | .data a => c.handle a syms others par
      | x => c.scrubOther k x syms others
    if last then c.inc (HBM_SCRUB_CTL.PASSES k) else c

/-- PSEUDO_CHANNEL_LOSS (R249): a pseudo-channel, or the channel that holds it; 64 is the spare while it stands for none. -/
def pseudoChannelLoss (k p : Nat) (channel : Bool) (c : Chip) : Chip :=
  if k ≥ 12 ∨ p > 64 then c else c.declareLost k p channel

/-- REQUEST_HOLD_RELEASE (R249 step 5): the stack is Rebuilding, or Degraded where nothing can be rebuilt, and the requests that were
held are served in the order of their priorities (R254). One that declares a further loss leaves the rest held. -/
def requestHoldRelease (k : Nat) (c : Chip) : Chip :=
  if c.held.contains k then
    let rs := c.serveOrder (c.heldReqs.filter (fun r => stackOf r.a == k))
    let c := { c with held := c.held.filter (· != k), heldReqs := c.heldReqs.filter (fun r => stackOf r.a != k) }
    let c := if c.takes k then c.put (HBM_STACK_STS.STATE k) (if c.get (HBM_REBUILD.KIND k) = 1 then 3 else 4) else c
    rs.foldl (fun c r => c.request r) c
  else c

/-- Rows of a running rebuild or copy completed in a slow tick (R250, R252): how many, at a share of the column slots, is timing and free;
the last row is REBUILD_COMPLETE's or PLANNED_COPY_COMPLETE's. A quenched controller makes no progress (R257). -/
def Chip.rebuildTick (c : Chip) (k : Nat) : Chip :=
  if c.get (HBM_REBUILD.KIND k) = 0 ∨ !c.takes k ∨ c.get (HBM_REBUILD.ROW k) ≥ 4718591 then c
  else
    let (v, c) := c.fresh
    c.put (HBM_REBUILD.ROW k) (c.get (HBM_REBUILD.ROW k) + v % (4718592 - c.get (HBM_REBUILD.ROW k)))

/-- The spare stands for the target of the rebuild or copy that ends. -/
def Chip.spareIn (c : Chip) (k : Nat) : Chip :=
  let p := c.get (HBM_REBUILD.TARGET k)
  let c := (c.put (HBM_STACK_STS.SPARE_USED k) 1).put (HBM_STACK_STS.SPARE_FOR k) p
  (c.put (HBM_REBUILD.KIND k) 0).put (HBM_REBUILD.ROW k) 4718592

/-- REBUILD_COMPLETE (R250). -/
def rebuildComplete (k : Nat) (c : Chip) : Chip :=
  if c.get (HBM_REBUILD.KIND k) ≠ 1 then c
  else
    let p := c.get (HBM_REBUILD.TARGET k)
    let c := c.spareIn k
    let lost := setBits (c.get (HBM_LOST_MAP.LOST k)) p 1 0
    let c := (c.put (HBM_LOST_MAP.LOST k) lost).put (HBM_STACK_STS.EXPOSED k)
      (setBits (c.get (HBM_STACK_STS.EXPOSED k)) (p % 4) 1 0)
    (if c.takes k then c.put (HBM_STACK_STS.STATE k) (if lost = 0 then 2 else 4) else c).fire 11

/-- HBM_SPARE_COPY (R252, R266). -/
def hbmSpareCopy (ag : Agent) (k p : Nat) (c : Chip) : Chip :=
  if !ag.pfSide ∨ k ≥ 12 then c
  else if !c.spareFree k ∨ c.get (HBM_REBUILD.KIND k) ≠ 0 ∨ c.pcLost k (p % 64) then c.put (HBM_STACK_STS.CMD_REFUSED k) 1
  else ((c.put (HBM_REBUILD.KIND k) 2).put (HBM_REBUILD.TARGET k) p).put (HBM_REBUILD.ROW k) 0

/-- PLANNED_COPY_COMPLETE (R252). -/
def plannedCopyComplete (k : Nat) (c : Chip) : Chip := if c.get (HBM_REBUILD.KIND k) = 2 then c.spareIn k else c

/-- URGENT_MAX_READ (R268): an RC read. -/
def urgentMaxRead (ag : Agent) (k : Nat) (c : Chip) : Chip :=
  (c.put (HBM_URGENT_MAX.NS k) 0).emit (.rdata ag (c.get (HBM_URGENT_MAX.NS k)))

/-! ### Cisterns (R262) -/

/-- CISTERN_SCRUB (R262): a word is read, by the background scrub or for an agent (log entry 155), and `errs` bits of it are in error. -/
def cisternScrub (kc off errs : Nat) (c : Chip) : Chip :=
  let (n, m) := (kc / 4, kc % 4)
  if errs = 1 then c.count (CLS_CISTERN_CE n m) 1
  else if errs = 2 then
    let c := if c.on (CLS_CISTERN_STS.UE n m) then c else c.put (CLS_CISTERN_STS.UE_OFS n m) (off / 8 * 8)
    let c := (c.put (CLS_CISTERN_STS.UE n m) 1).setCl kc { c.cl kc with testing := some (cisBank off) }
    let b := c.clBasin kc
    let c := match c.kernOf kc with
      | some k => k.clusters.foldl (fun c kc => c.stopCluster kc) c
      | none => c
    if b < 6 then c.setBs b { c.bs b with frozen := true } else c
  else c

/-- CISTERN_BANK_TEST_DONE (R262): the test of the bank that holds the word ends; `row` is the faulty row, where the test finds one. -/
def cisternBankTestDone (kc bank : Nat) (row : Option Nat) (c : Chip) : Chip :=
  let (n, m) := (kc / 4, kc % 4)
  if (c.cl kc).testing ≠ some bank ∨ !(row.all (fun r => decide (r < 6144))) then c
  else
    let c := c.setCl kc { c.cl kc with testing := none }
    let b := c.clBasin kc
    let go (c : Chip) : Chip := if b < 6 then (c.loadLatches b (c.dieSlot n)).resume b else c
    let used := Map.get [] c.rowMaps kc
    match row with
    | none => go c
    | some r =>
      if (used.filter (fun e => e.1 == bank)).length ≥ 4 then c.dieLost n
      else
        let c := { c with rowMaps := Map.put [] c.rowMaps kc ((bank, r) :: used) }
        let c := (c.incSat (CLS_CISTERN_STS.SPARE_USED n m) 1).put (CLS_CISTERN_STS.LAST_BANK n m) bank
        go (c.put (CLS_CISTERN_STS.LAST_ROW n m) r)

end Sys2Proof.Machine
end

