-- ==== Sys2Proof/Machine/RegAccess.lean ====
section
/-! DEFINITION. Reads and writes of registers by the hosts, the sideband and programs (00 R10-R12; 15 R468), each write under
the access codes and the write conditions of its register. -/
namespace Sys2Proof.Machine

/-! ### Who, and when -/

/-- An agent that writes a register of basin `b`'s blocks (R35, R423). -/
def Chip.mayBsn (c : Chip) (ag : Agent) (b : Nat) : Bool := decide (b < 6) && c.regReach ag (bsnBase b) true

/-- Whether a register of basin `b` holds a value that a sealed and unresolved step needs (R112, R116, R120). -/
def Chip.sealedNow (c : Chip) (b : Nat) : Bool := c.get (BSN_AGREE_STS.STATE b) != 0

/-- Whether every main-class queue of a basin is idle (R116, R161, R195). -/
def Chip.mainIdle (c : Chip) (b : Nat) : Bool := (List.range 64).all (fun q => qClassSide c b q || c.qIdle b q)

/-- No port carries a packet of a job (R333). -/
def Chip.quiet (c : Chip) : Bool := (List.range 8).all (fun p => (c.port p).wait.isEmpty && (c.port p).replay.isEmpty) && c.unacked.isEmpty

/-! ### Commands on basins given through registers -/

/-- AGREE_CTL_RELEASE, AGREE_CTL_ABANDON and AGREE_CTL_TAINT (R104, R115, R118). -/
def agreeCtlRelease (ag : Agent) (b n : Nat) (c : Chip) : Chip := if b < 6 ∧ c.mayQuench ag b then c.agreeRelease b n else c
def agreeCtlAbandon (ag : Agent) (b n : Nat) (c : Chip) : Chip := if b < 6 ∧ c.mayQuench ag b then c.agreeAbandon b n else c
def agreeCtlTaint (ag : Agent) (b : Nat) (c : Chip) : Chip :=
  let prog : Bool := match ag with
    | .prog d _ => d == b
    | _ => false
  if b < 6 ∧ (c.mayQuench ag b ∨ prog) then c.agreeTaint b else c

/-- LOSS_IN and LOSS_RESTART (R125). -/
def lossInWrite (ag : Agent) (b w : Nat) (c : Chip) : Chip :=
  let side : Bool := match ag with
    | .prog _ s => s
    | _ => false
  if c.mayBsn ag b ∧ !side then c.lossIn b (w % 2 ^ 32) else c
def lossRestart (ag : Agent) (b : Nat) (c : Chip) : Chip := if c.mayBsn ag b then c.lossAgain b else c

/-- NAN_TRAP_REARM (R93). -/
def nanTrapRearm (ag : Agent) (b : Nat) (c : Chip) : Chip := if c.mayBsn ag b then c.trapRearm b else c

/-- QUEUE_RELEASE and QUEUE_DISCARD (R161). -/
def queueRelease (ag : Agent) (b q : Nat) (c : Chip) : Chip := if c.mayBsn ag b ∧ q < 64 then c.qRelease b q else c
def queueDiscard (ag : Agent) (b q : Nat) (c : Chip) : Chip := if c.mayBsn ag b ∧ q < 64 then c.qDiscard b q else c

/-- BATCH_CFG_FLUSH (R60, R63) and BATCH_DISABLE (R62). -/
def batchCfgFlush (ag : Agent) (b x : Nat) (c : Chip) : Chip := if c.mayBsn ag b ∧ x < 8 then c.batchClose b x 2 else c
def batchDisable (ag : Agent) (b x : Nat) (c : Chip) : Chip :=
  if c.mayBsn ag b ∧ x < 8 then (c.batchClose b x 2).put (BSN_BATCH_CFG.ENABLE b x) 0 else c

/-- CANCEL, SECURE_GO, SECURE_ABORT and WAKE come as register writes (R182, R383, R396). -/
def cancelWrite (ag : Agent) (b x : Nat) (c : Chip) : Chip := if c.mayBsn ag b ∧ x < 16 then cancel b x c else c
def secureGoWrite (ag : Agent) (b s : Nat) (c : Chip) : Chip := if c.mayBsn ag b then secureGo b s c else c
def secureAbortWrite (ag : Agent) (b : Nat) (c : Chip) : Chip := if c.mayBsn ag b then secureAbort b c else c
def wakeWrite (ag : Agent) (b : Nat) (c : Chip) : Chip := if c.mayBsn ag b then wake b c else c

/-! ### Writes (R11) -/

/-- A register's word after a plain write: RW and RWS fields take the value, W1C bits clear where it has ones. -/
def RegRow.store (r : RegRow) (old v : Nat) : Nat :=
  r.fields.foldl (fun w f => match f.acc with
    | .rw | .rws => setBits w f.lo f.len (bits v f.lo f.len)
    | .w1c => if bit v f.lo then setBits w f.lo 1 0 else w
    | _ => w) old

/-- A field takes its bits of a written word. -/
def Chip.take (c : Chip) (f : RF) (v : Nat) : Chip := c.put f (bits v f.lo f.len)

/-- Writes of hub registers with rules of their own (R422-R430); `plain` is the write as the access codes alone have it. -/
def Chip.writeHub (c : Chip) (ag : Agent) (k : RegKind) (i v : Nat) (plain : Chip) : Chip :=
  let pf (x : Chip) : Chip := if ag.pfSide then x else c
  match k with
  | .hubSpareCmd =>
    if !bit v 63 then c
    else c.spareGo ag (bits v 0 5) (if bits v 10 2 = 1 then bits v 5 5 else 31) (bits v 10 2)
  | .hubVfBind => vfBind ag i false v c
  | .hubVfQmask => vfBind ag i true v c
  | .hubBar4Base => pf (if bits v 0 48 % 2 ^ c.pcie.bar4 = 0 then plain else c)
  | .hubRstCtl => pf plain
  | .hubMbxWin | .hubMbxCmd | .hubMbxSts => if ag = .pf then plain else c
  | .hubHcopyCfg =>
    if !ag.pfSide then c
    else
      let c := if c.get (HUB_HCOPY_STS.STATE i) ≠ 0 then c.take (HUB_HCOPY_CFG.ENABLE i) v
        else
          let f := bits v 0 7
          let b := if 1 ≤ f ∧ f ≤ 64 then c.get (HUB_VF_BIND.BASIN (f - 1)) else bits v 7 3
          (c.setWord (HUB_HCOPY_CFG i) (bits v 0 7 + fld 7 3 b + fld 10 5 (bits v 10 5)))
      if bit v 15 then copyResume ag i c else c
  | .hubHcopyBase => pf (if c.get (HUB_HCOPY_STS.STATE i) = 0 then plain else c)
  | .hubEvtRoute =>
    let f := bits v 0 7
    let owner : Nat := if 64 ≤ i ∧ i < 256 then (i - 64) / 32 else if 256 ≤ i then c.get (HUB_NOTIFY.BASIN (i - 256)) else 7
    let may := match ag with
      | .vf n => decide (64 ≤ i ∧ i < 256) && owner == c.get (HUB_VF_BIND.BASIN n) && c.on (HUB_VF_BIND.ADMIN n)
      | a => a.pfSide
    let fits := if f = 0 ∨ f = 127 then true
      else decide (f ≤ 64) && decide (owner < 6) && owner == c.get (HUB_VF_BIND.BASIN (f - 1))
    if !may ∨ !fits ∨ (f ≠ 127 ∧ vecLimit f ≤ bits v 7 11) then c
    else if bit v 19 then plain.put (HUB_EVT_ROUTE.MERGED i) 0 else plain
  | .hubNotify => notifyArm ag i v c
  | _ => if ag.top then plain else c

/-- Writes of the package's other blocks (R285, R297, R304, R333-R335, R350-R355, R376-R378, R402, R410, R415, R462, R466,
R467). -/
def Chip.writeTop (c : Chip) (ag : Agent) (k : RegKind) (i v : Nat) (plain : Chip) : Chip :=
  match k with
  | .asySnapAll =>
    let c := if bit v 1 then snapAllRelease ag c else c
    if bit v 0 then snapAllTake ag c else c
  | .asyRisk => if bits v 34 16 ≤ bits v 18 16 then (if bit v 51 then c.put ASY_RISK.LEVEL_EV 0 else c) else plain
  | .asyReplica => replicaEnable ag v c
  | .pwrCap =>
    let c := if 1200 ≤ bits v 0 12 ∧ bits v 0 12 ≤ 2400 then c.take PWR_CAP.CAP_W v else c
    if 1 ≤ bits v 12 4 ∧ bits v 12 4 ≤ 10 then c.take PWR_CAP.WINDOW v else c
  | .pwrGrant =>
    let c := (c.take (PWR_GRANT.MIN i) v).take (PWR_GRANT.DEBT_PCT i) v
    if bits v 12 12 ≤ bits v 0 12 ∧ bits v 0 12 ≤ 1200 then c.take (PWR_GRANT.GRANT i) v else c
  | .tmpCtl =>
    if bits v 25 8 > 104 ∨ bits v 17 8 > 104 ∨ bits v 33 8 > bits v 25 8 then c else plain
  | .fabShape => if c.quiet then (if bits (c.word FAB_SHAPE) 0 39 = bits v 0 39 then plain else plain.reshape) else c
  | .fabDir =>
    let old := bits (c.word (FAB_DIR i)) 0 5
    if old = bits v 0 5 then c
    else
      let c := (c.take (FAB_DIR.PORT i) v).take (FAB_DIR.VALID i) v
      (if bit v 4 ∧ !bit old 4 then detourSet i c else (c.take (FAB_DIR.DETOUR i) v).inc (FAB_DIR.GEN i)).reshape
  | .fabPool => if bits v 0 8 + bits v 8 8 + bits v 16 8 + bits v 24 8 > 128 then c else plain
  | .fabReloc => relocWrite ag i v c
  | .fabHole => holeWrite ag i v c
  | .slcCtl =>
    let c := plain
    let c := if bit v 0 then apply ag c else c
    if bit v 1 then bar ag c else c
  | _ => plain

/-- Writes of a port's registers (R297, R304); `p` is the port. -/
def Chip.writePort (c : Chip) (ag : Agent) (k : RegKind) (p v : Nat) (plain : Chip) : Chip :=
  if !ag.top then c
  else match k with
    | .fntPortCtl =>
      let c := plain.portSync p
      let c := if bit v 2 then retrain ag p c else c
      let c := if bit v 36 then remapGo ag p (bits v 32 4) c else c
      if bit v 42 then returnGo ag p (bits v 37 5) c else c
    | .fntWeirCmd => if bit v 63 then weirMeasure ag p (bits v 0 3) (bits v 3 5) (bits v 8 5) (bits v 13 3) c else c
    | _ => plain

/-- Whether a base lies in the basin's own HBM outside its quench region, at a multiple of `al`. -/
def Chip.baseOk (c : Chip) (b base len al : Nat) : Bool := base % al == 0 && (c.ownHbm b base len).isSome

/-- Whether a write leaves a field as it is. -/
def Chip.same (c : Chip) (f : RF) (v : Nat) : Bool := bits v f.lo f.len == c.get f

/-- Writes of a command queue's configuration (R161). -/
def Chip.writeQCfg (c : Chip) (ag : Agent) (b q v : Nat) : Chip :=
  if bits v 48 4 > 9 then c.emit (.dropped ag)
  else
    let fs := [BSN_Q_CFG.BASE b q, BSN_Q_CFG.SIZE b q, BSN_Q_CFG.CLASS b q]
    let c := if c.qIdle b q then fs.foldl (fun c f => c.take f v) c
      else if fs.all (fun f => c.same f v) then c else c.emit (.dropped ag)
    let c := c.take (BSN_Q_CFG.ENABLE b q) v
    let c := if bit v 54 then queueRelease ag b q c else c
    if bit v 55 then queueDiscard ag b q c else c

/-- Writes of a batching queue's configuration (R62, R63). One that changes MODE or INFLIGHT while the queue is not idle is rejected
whole: no field takes a value, and its ENABLE = 0 and FLUSH act no more than the rest (R4, R62). -/
def Chip.writeBatch (c : Chip) (ag : Agent) (b x v : Nat) : Chip :=
  let idle := c.get (BSN_BATCH_STS.PENDING b x) = 0 ∧ c.get (BSN_BATCH_STS.INFL b x) = 0
  let fs := [BSN_BATCH_CFG.MODE b x, BSN_BATCH_CFG.INFLIGHT b x]
  if !fs.all (fun f => c.same f v) ∧ ¬ idle then c.emit (.dropped ag) else
  let c := fs.foldl (fun c f => c.take f v) c
  let c := ((c.take (BSN_BATCH_CFG.TARGET_Q b x) v).take (BSN_BATCH_CFG.ROWLEN b x) v).take (BSN_BATCH_CFG.DEADLINE b x) v
  let c := if bit v 2 then c.put (BSN_BATCH_CFG.ENABLE b x) 1 else batchDisable ag b x c
  if bit v 56 then batchCfgFlush ag b x c else c

/-- Writes of basin registers with rules of their own. A change of mode or of arrangement outside its point of change is rejected: the
mode stays, and the write is reported as dropped (R4, R32, R124; log entry 136). BSN_BATCH_BUF is stored as written, BASE a multiple of
64 or not, where the whole 1,024-row ring at the present ROWLEN lies in the basin's own HBM (DESIGN CHOICE, log entry 137: R64 does not
say what another BASE does, nor how much of the buffer must lie there). -/
def Chip.writeBsn (c : Chip) (ag : Agent) (k : RegKind) (b i v : Nat) (plain : Chip) : Chip :=
  match k with
  | .bsnBatchCfg => c.writeBatch ag b i v
  | .bsnBatchBuf =>
    let idle := c.get (BSN_BATCH_STS.PENDING b i) = 0 ∧ c.get (BSN_BATCH_STS.INFL b i) = 0
    if idle ∧ (c.ownHbm b (bits v 0 48) (1024 * c.rowLen b i)).isSome then plain else c.emit (.dropped ag)
  | .bsnNanTrapCtl =>
    let c := (c.take (BSN_NAN_TRAP_CTL.ENABLE b) v).take (BSN_NAN_TRAP_CTL.ACTION b) v
    let c := if bit v 3 then nanTrapRearm ag b c else c
    c.put (BSN_NAN_TRAP_CTL.ARMED b) (b2n (c.on (BSN_NAN_TRAP_CTL.ENABLE b) && !c.on (BSN_NAN_TRAP_CTL.HELD b)))
  | .bsnStep => if c.mainIdle b ∧ !c.sealedNow b then plain.put (BSN_BAR_STS.GEN b 0) (v % 2 ^ 32) else c
  | .bsnTemperT => if c.sealedNow b then c else plain
  | .bsnLossScale => if c.sealedNow b then c else plain
  | .bsnAmaxBase => if !c.sealedNow b ∧ c.baseOk b (bits v 0 48) 0x24000 4096 then plain else c
  | .bsnAgreeCtl =>
    let c := if c.mayQuench ag b then c.take (BSN_AGREE_CTL.TIMEOUT b) v else c
    let n := bits v 26 32
    let c := if bit v 25 then agreeCtlRelease ag b n c else c
    let c := if bit v 24 then agreeCtlAbandon ag b n c else c
    if bit v 58 then agreeCtlTaint ag b c else c
  | .bsnGenCtl => if c.basinIdle b then plain else c.emit (.dropped ag)
  | .bsnLossIn => lossInWrite ag b (bits v 0 32) c
  | .bsnLossCtl => if bit v 28 then lossRestart ag b plain else plain
  | .bsnQCfg => c.writeQCfg ag b i v
  | .bsnPourSet => if c.mainIdle b then plain else c
  | .bsnPourBase => if c.mainIdle b then plain else c
  | .bsnSlice =>
    if ag ≠ .pf then c
    else if (List.range 6).all (fun d => c.allIdle d) ∨ bits v 0 16 = c.get (BSN_SLICE.TAG b) then plain else c.emit (.dropped ag)
  | .bsnJobPos => if ag.pfSide ∧ c.allIdle b then plain else c
  | .bsnPortEn => if ag.pfSide then plain else c
  | .bsnFlowBase => if c.allIdle b then plain else c
  | .bsnBarCtx => if c.get (BSN_BAR_STS.STATE b i) = 0 then plain.barGroup b i else c.take (BSN_BAR_CTX.TIMEOUT b i) v
  | .bsnBarSts => if bit v 41 then cancelWrite ag b i plain else plain
  | .bsnQuench =>
    let c := if bit v 21 then quenchCmd ag b c else c
    if bit v 22 then basinReturn ag b c else c
  | .bsnSecureCmd =>
    let c := if bit v 32 then secureAbortWrite ag b c else c
    if bit v 63 then secureGoWrite ag b (bits v 0 32) c else c
  | .bsnRecover =>
    if !bit v 63 then c
    else match bits v 0 3 with
      | 1 => stop ag b c
      | 2 => rewind ag b (bits v 3 32) c
      | 3 => Machine.send ag b (bits v 3 32) (bits v 35 18) c
      | 4 => adopt ag b (bits v 3 32) c
      | _ => c
  | .bsnWake => if bit v 61 then wakeWrite ag b plain else plain
  | _ => plain

/-- A write of a word to the register at a window offset (R11, R12, R35). -/
def Chip.regWrite (c : Chip) (ag : Agent) (off v : Nat) : Chip :=
  match c.locate off with
  | none => c
  | some l =>
    match l.block.reg l.off with
    | none => c
    | some (r, i, j) =>
      let n := instOf l.block l.base
      let g : Reg := ⟨l.base + l.off, regRst r.kind n i j⟩
      let plain := c.setWord g (r.store (c.word g) v)
      let vfAsy : Bool := match ag with
        | .vf m => c.on (HUB_VF_BIND.ADMIN m) && (if r.kind = .asyNfSel then bits v 0 3 == c.get (HUB_VF_BIND.BASIN m)
            else r.kind == .asyNfData && c.get ASY_NF_SEL.BASIN == c.get (HUB_VF_BIND.BASIN m))
        | _ => false
      if r.kind = .anySnap then
        let c := if bit v 1 then snapRelease ag off c else c
        if bit v 0 then snapTake ag off c else c
      else if r.kind = .asyNfSel ∧ vfAsy then plain
      else if r.kind = .asyNfData ∧ vfAsy then eventCounterWrite .hub off (bit v 63) c
      else if l.block = .hub then c.writeHub ag r.kind i v plain
      else if !c.regReach ag off true then c
      else if r.isEvent then eventCounterWrite ag off (bit v 63) c
      else if r.isEpoch then (if bit v 8 then volumeClear ag off c else c)
      else match l.block with
        | .fnt => c.writePort ag r.kind ([[0, 2], [1, 3], [4, 6], [5, 7]].getD n [] |>.getD i 8) v plain
        | .hbm =>
          if r.kind = .hbmSpareCmd then (if bit v 63 then hbmSpareCopy ag n (bits v 0 6) c else c) else plain
        | .bsn => c.writeBsn ag r.kind n i v plain
        | .fge =>
          if r.kind = .fgeLadleCfg then (if c.mayQuench ag (c.dieBasin n) then plain else c) else plain
        | .cls => plain
        | _ => c.writeTop ag r.kind i v plain

/-! ### Reads (R11, R461) -/

/-- A register's word as a read shows it: write-only fields are zero. -/
def RegRow.show (r : RegRow) (w : Nat) : Nat := w &&& r.mask (fun f => f.acc != .wo)

/-- Whether an agent may read the register at a window offset (R35, R468). -/
def Chip.mayRead (c : Chip) (ag : Agent) (off : Nat) : Bool :=
  !c.emptySlot off && (c.regReach ag off false || (match ag with
    | .vf n => c.on (HUB_VF_BIND.ADMIN n) && (off == 0x20408) && c.get ASY_NF_SEL.BASIN == c.get (HUB_VF_BIND.BASIN n)
    | _ => false))

/-- The word of a counter: from the block's image while one is held (R461). -/
def Chip.counterWord (c : Chip) (l : Loc) (r : RegRow) (g : Reg) : Nat :=
  let img := c.images.find l.base
  if r.kind = .asyNfData then
    let (b, s) := (c.get ASY_NF_SEL.BASIN, c.get ASY_NF_SEL.SLOT)
    match img with
    | some m => (Map.get 0 m (nfKey b s)).toNat
    | none => Map.get 0 (c.bs b).nf s
  else match img with
    | some m => (Map.get 0 m g.key).toNat
    | none => c.word g

/-- A read of the register at a window offset: its value, and the part after the RC fields have cleared. -/
def Chip.regRead (c : Chip) (off : Nat) : Nat × Chip :=
  match c.locate off with
  | none => (0, c)
  | some l =>
    match l.block.reg l.off with
    | none => (0, c)
    | some (r, i, j) =>
      let n := instOf l.block l.base
      let g : Reg := ⟨l.base + l.off, regRst r.kind n i j⟩
      if r.isEvent ∨ r.isEpoch ∨ r.isVolume ∨ r.kind = .asyNfData then (r.show (c.counterWord l r g), c)
      else match r.kind with
        | .pwrSts => (c.word g, c.put PWR_STS.PEAK_W 0)
        | .pwrSlack => (c.word g, (c.put PWR_SLACK.SLACK 0).put PWR_SLACK.BASIN 7)
        | .hbmUrgentMax => (c.word g, c.put (HBM_URGENT_MAX.NS n) 0)
        | .asyNfSum => (c.nfSum i, c.setBs i { c.bs i with nfGrow := [], spikeGrow := 0 })
        | _ => (r.show (c.word g), c)

/-- HUB_DEBUG_STS as the security unit has it (R452). -/
def Sec.debugWord (x : Sec) : Nat := x.level + 4 * b2n x.keysCleared + fld 3 16 x.unlocks

/-- A read of a register of the part. -/
def State.regRead (s : State) (off : Nat) : Nat × State :=
  if off = HUB_DEBUG_STS.key then (s.sec.debugWord, s)
  else
    let (v, c) := s.chip.regRead off
    (v, { s with chip := c })

/-- A write of a register of the part; SWITCH also ends the mailbox commands that run (R365, R432). -/
def State.regWrite (s : State) (ag : Agent) (off v : Nat) : State :=
  if off = HUB_ROLE.key then (if bit v 20 then switch ag s else s)
  else { s with chip := s.chip.regWrite ag off v }

/-- Whether registers answer an agent now: the hub block once the boot ROM has run, everything when Ready (R433, R434, R440). -/
def Chip.answers (c : Chip) (off : Nat) : Bool :=
  c.pwr.on && (if off < 0x20000 then [2, 3, 4].contains (c.get HUB_BOOT_STS.STATE) else c.ready)

/-- REGISTER_WRITE (R11). -/
def registerWrite (ag : Agent) (off v : Nat) (s : State) : State :=
  let prog : Bool := match ag with
    | .prog _ _ => true
    | _ => false
  if off % 8 ≠ 0 ∨ off ≥ 0x4000000 ∨ (!prog ∧ !s.chip.answers off) then s else s.regWrite ag off (v % 2 ^ 64)

end Sys2Proof.Machine
end

