-- ==== Sys2Proof/Machine/Sequencer.lean ====
section
/-! DEFINITION. The sequencers of a cluster (07 R201-R214, R227-R239): bundles, the S and X slots, loads, latch operations,
fences and MSYNC. -/
namespace Sys2Proof.Machine

/-! ### Scalar arithmetic (R210) -/

/-- The result of a two-operand scalar operation on 64-bit words. -/
def AluOp.run (op : AluOp) (a b : Nat) : Nat :=
  let (x, y) := (sext 64 a, sext 64 b)
  let n := b % 64
  match op with
  | .add => (a + b) % 2 ^ 64
  | .sub => subMod 64 a b
  | .and => a &&& b
  | .or => a ||| b
  | .xor => a ^^^ b
  | .shl => a * 2 ^ n % 2 ^ 64
  | .shr => a >>> n
  | .sra => wrapInt 64 (x / (2 ^ n : Nat))
  | .mul => a * b % 2 ^ 64
  | .mulh => wrapInt 64 (x * y / (2 ^ 64 : Nat))
  | .mulhu => a * b / 2 ^ 64
  | .min => if x ≤ y then a else b
  | .max => if x < y then b else a
  | .minu => if a ≤ b then a else b
  | .maxu => if a ≤ b then b else a
  | .slt => b2n (decide (x < y))
  | .sltu => b2n (decide (a < b))
  | .seq => b2n (a == b)

/-- Whether a branch relation holds (R210). -/
def Rel.holds (r : Rel) (a b : Nat) : Bool :=
  match r with
  | .eq => a == b
  | .ne => a != b
  | .lt => decide (sext 64 a < sext 64 b)
  | .ge => decide (sext 64 b ≤ sext 64 a)
  | .ltu => decide (a < b)
  | .geu => decide (b ≤ a)

/-! ### Loads and stores (R35, R211) -/

/-- Registers as programs address them (R35). -/
def regWindow : Nat := 0x30000000000
def inRegs (a : Nat) : Bool := decide (regWindow ≤ a ∧ a < regWindow + 0x4000000)

/-- Whether a program may access `n` bytes at an address as a register: one aligned 64-bit word of its own basin's blocks. -/
def Chip.regAt (c : Chip) (k : Kern) (a n : Nat) (write : Bool) : Bool :=
  inRegs a && n == 8 && c.regReach (.prog k.basin k.side) (a - regWindow) write && !c.emptySlot (a - regWindow)

/-- A store of a program; none is an address fault (R176, R211), or a part write of a poisoned granule, which stops the kernel as one
(R247). -/
def Chip.progStore (c : Chip) (k : Kern) (a n v : Nat) : Option Chip :=
  if a ≥ 2 ^ 48 ∨ a % n ≠ 0 then none
  else if inRegs a then
    (if c.regAt k a n true then some (c.regWrite (.prog k.basin k.side) (a - regWindow) v) else none)
  else match c.reach k.basin a n false with
    | some p => if inLatches p n || c.partPoisonAt p n then none else some (c.wr p (leBytes n v))
    | none => none

/-- Sign or zero extension of a loaded value to 64 bits. -/
def extend (n : Nat) (signed : Bool) (v : Nat) : Nat := if signed then wrapInt 64 (sext (8 * n) v) else v

/-- What a load does: its value at once, a load sent through the router, or an address fault. -/
inductive LoadRes where
  | now (v : Nat)
  | sent
  | fault
  deriving DecidableEq, Repr

/-- A load of a program (R211). -/
def Chip.progLoad (c : Chip) (kc : Nat) (k : Kern) (a n : Nat) : LoadRes :=
  if a ≥ 2 ^ 48 ∨ a % n ≠ 0 then .fault
  else if inRegs a then (if c.regAt k a n false then .sent else .fault)
  else match c.reach k.basin a n false with
    | some (.cis kd off) => if kd = kc then .now (c.rdn (.cis kd off) n) else .sent
    | some (.hbm _) => .sent
    | none => .fault

/-! ### The S slot (R209-R213) -/

/-- Where a bundle leads: on, to a branch target (popping loop levels or not), into a loop, or to the end. -/
inductive SFlow where
  | next
  | branch (dest : Int) (pops : Bool)
  | loop (stop count : Nat)
  | halt
  deriving DecidableEq, Repr

/-- What an S slot gives. -/
inductive SRes where
  | ok (c : Chip) (f : SFlow)
  | fault (cause code : Nat)
  deriving DecidableEq, Repr

/-- What the cycle count of an unbroken Whole-mode kernel depends on (R7): its identity, step and seed, where it runs, how far the
sequencer has come, its registers, and the memory it works on. -/
def Chip.cycleArgs (c : Chip) (kc sq : Nat) (k : Kern) : List Nat :=
  let q := c.seqr kc sq
  [k.kid, k.stamp, c.get (BSN_GEN_SEED.SEED k.basin), c.clRole kc, sq, q.issues, k.cmask] ++ (List.range 32).map (fun r => Map.get 0 q.s r)
    ++ c.mem.cells.flatMap (fun e => [e.1, e.2.toNat])

/-- A control value (R213). CYCLE is free: in a Whole-mode kernel that no safety limit has broken it is a function of what R7 lets it
depend on, so that it repeats; elsewhere it is fresh at each read. -/
def Chip.csr (c : Chip) (kc sq : Nat) (k : Kern) (n : Int) : Option (Nat × Chip) :=
  if n = 0 then
    (if k.whole && !k.broken then some (Config.wholeCycle (c.cycleArgs kc sq k) % 2 ^ 64, c)
    else (let (v, c) := c.fresh; some (v % 2 ^ 64, c)))
  else if n = 1 then some (k.kid, c)
  else if n = 2 then some (k.stamp % 2 ^ 64, c)
  else if n = 3 then some (sq, c)
  else if n = 4 then some (c.clRole kc, c)
  else if n = 5 then some (k.basin, c)
  else none

/-- The S slot of a bundle at cistern offset `pc`; `s` gives the registers as the bundle reads them. -/
def execS (c : Chip) (kc sq : Nat) (k : Kern) (s : Nat → Nat) (pc : Nat) (i : SInst) : SRes :=
  let put (rd v : Nat) : SRes := .ok (c.setS kc sq rd v) .next
  let jump (ofs : Int) : SFlow := .branch (pc + 32 * ofs) true
  match i with
  | .empty => .ok c .next
  | .alu op rd ra rb => put rd (op.run (s ra) (s rb))
  | .alui op rd ra imm => put rd (op.run (s ra) (wrapInt 64 imm))
  | .movi rd imm => put rd (wrapInt 64 imm)
  | .orhi rd ra imm => put rd (s ra ||| imm % 2 ^ 18 * 2 ^ 46)
  | .load n signed rd ra imm =>
    let a := (s ra + wrapInt 64 imm) % 2 ^ 64
    (match c.progLoad kc k a n with
    | .fault => .fault 6 0
    | .now v => put rd (extend n signed v)
    | .sent =>
      let (id, c) := c.newId
      let q := c.seqr kc sq
      .ok (c.setSeqr kc sq { q with loads := q.loads ++ [{ id := id, rd := rd, addr := a, size := n, signed := signed, pc := pc }] }) .next)
  | .store n rd ra imm =>
    (match c.progStore k ((s ra + wrapInt 64 imm) % 2 ^ 64) n (s rd) with
    | some c => .ok c .next
    | none => .fault 6 0)
  | .br r ra rb ofs => .ok c (if r.holds (s ra) (s rb) then jump ofs else .next)
  | .jmp ofs => .ok c (jump ofs)
  | .call ra ofs => .ok (c.setS kc sq ra (pc + 32)) (.branch (pc + 32 * ofs) false)
  | .jr ra => .ok c (.branch (s ra : Nat) false)
  | .loop ra stop =>
    let n := s ra % 2 ^ 32
    if n ≠ 0 ∧ (c.seqr kc sq).loops.length ≥ 4 then .fault 3 0 else .ok c (.loop stop n)
  | .loopi stop n => if n ≠ 0 ∧ (c.seqr kc sq).loops.length ≥ 4 then .fault 3 0 else .ok c (.loop stop n)
  | .mfc rd imm =>
    (match c.csr kc sq k imm with
    | some (v, c) => .ok (c.setS kc sq rd v) .next
    | none => .fault 1 0)
  | .trap code => .fault 10 code
  | .halt => .ok c .halt

/-! ### Releases and fences (R184-R186, R229, R235) -/

/-- Whether an engine command is queued or runs. -/
def Chip.engineHas (c : Chip) (id : Nat) : Bool :=
  c.temper.any (fun e => e.2.q.any (·.id == id) || (match e.2.run with
      | some r => r.cmd.id == id
      | none => false) || e.2.resume.any (·.cmd.id == id))
  || c.ladle.any (fun e => e.2.g.any (·.id == id) || e.2.u.any (·.id == id) || [e.2.runG, e.2.runU].any (fun r => match r with
      | some r => r.cmd.id == id
      | none => false))

/-- The engine commands that a sequencer has outstanding. -/
def Chip.engineOf (c : Chip) (src : Src) : List Nat :=
  let of (l : List ECmd) : List Nat := (l.filter (fun e => e.src = src)).map (·.id)
  c.temper.flatMap (fun e => of (e.2.q ++ e.2.run.toList.map (·.cmd) ++ e.2.resume.map (·.cmd)))
  ++ c.ladle.flatMap (fun e => of (e.2.g ++ e.2.u ++ e.2.runG.toList.map (·.cmd) ++ e.2.runU.toList.map (·.cmd)))

/-- The marks of a sequencer's earlier accesses at a scope: 0 its cluster's cistern, 1 the package, 2 the fabric. -/
def Chip.marks (c : Chip) (kc sq : Nat) (k : Kern) (scope : Nat) : Marks :=
  let x := c.cl kc
  let m := if k.mown = sq then x.arr.issued else {}
  let src := Src.seq kc sq
  let ops := (c.ops.filter (fun o => o.src = src && (scope == 2 || (scope == 1 && o.kind = .spout)))).map (·.id)
  let eng := if scope = 0 then [] else c.engineOf src
  let loads := if scope = 0 then [] else (x.seq sq).loads.map (·.id)
  { m with ops := ops ++ eng ++ loads }

/-- Everything that an agent's release at package scope follows (R186): its loads, the streams it drives, and its earlier latch
operations. -/
def Chip.relMarks (c : Chip) (kc sq : Nat) (k : Kern) : Marks :=
  let m := c.marks kc sq k 0
  { m with ops := (c.seqr kc sq).loads.map (·.id) ++ (((c.bs k.basin).lops.filter (fun o => o.src = .seq kc sq)).map (·.id)) }

/-- Whether everything marked is performed. -/
def Chip.met (c : Chip) (kc : Nat) (m : Marks) : Bool :=
  let x := c.cl kc
  let d := x.arr.done
  let loads := x.seq0.loads ++ x.seq1.loads
  decide (m.loads ≤ d.loads) && decide (m.passes ≤ d.passes) && decide (m.drains0 ≤ d.drains0) && decide (m.drains1 ≤ d.drains1)
    && m.ops.all (fun i => !c.ops.any (·.id == i) && !c.engineHas i && !loads.any (·.id == i)
      && !c.basins.any (fun e => e.2.lops.any (·.id == i)))

/-- Whether the events of an MSYNC have occurred (R235). -/
def Chip.msyncMet (c : Chip) (kc mask : Nat) (m : Marks) : Bool :=
  let a := (c.cl kc).arr
  (!bit mask 0 || decide (m.loads ≤ a.done.loads)) && (!bit mask 1 || decide (m.passes ≤ a.done.passes))
    && (!bit mask 2 || decide (m.passes ≤ a.sums)) && (!bit mask 3 || decide (m.drains0 ≤ a.done.drains0))
    && (!bit mask 4 || decide (m.drains1 ≤ a.done.drains1))

/-! ### The X slot (R227-R235) -/

/-- What an X slot gives; a hold for the next bundle. -/
inductive XRes where
  | ok (c : Chip) (h : Hold)
  | wait
  | fault (cause : Nat)
  deriving DecidableEq, Repr

/-- A cistern range that an X-slot instruction names; a store keeps out of the latch area. -/
def cisRange (off n : Nat) (write : Bool) : Bool := decide (off + n ≤ (if write then latchOfs else cisSize))

/-- The stream of AG4 or AG5 for `len` bytes of a spout copy, or an address fault (R232, R487): whole rows, the last perhaps in part. -/
def Cluster.spoutAg (x : Cluster) (g len : Nat) (write : Bool) : Option Ag :=
  match x.ag.find g with
  | none => none
  | some a =>
    let n := ceilDiv len (dRowBytes a.desc)
    if a.spoutRow + n ≤ dRows a.desc ∧ dRowsOk a.desc a.spoutRow n write then some a else none

/-- A fabric instruction: PUT, GET, AADD.I, AADD.F, RPUT and MCAST (R230, R231). -/
def execXf (c : Chip) (kc sq : Nat) (k : Kern) (pc : Nat) (op : XfOp) (rl rr rc n run rfmt axis : Nat) (sig : Option Nat) : XRes :=
  let opc := match op with
    | .put => 0 | .get => 1 | .aaddI => 3 | .aaddF => 4 | .rput => 5 | _ => 6
  let (coord, db) := (bits rc 0 18, bits rc 18 3)
  let r : SendReq :=
    { b := k.basin, src := .seq kc sq, side := k.side, stamp := k.stamp, kind := .put, opc := opc, run := run, coord := coord,
      dbasin := db, addr := rr, sig := sig, pc := pc }
  if !c.sendOk opc run rc rl rr n rfmt axis ∨ rr ≥ 2 ^ 48 then .fault 9
  else if (rl ≥ 2 ^ 48 ∧ opc ≠ 3 ∧ opc ≠ 4) ∨ !c.mayReach k.basin (c.dest coord) ∨ sig.any (· > 5119) then .fault 6
  else if opc ≠ 1 ∧ !c.flowRoom k.basin coord db run 2 then .wait
  else
    let data : Option (List Byte) := match c.reach k.basin rl n true with
      | some (.hbm a) => if c.poisoned a n then none else some (c.rd (.hbm a) n)
      | some p => some (c.rd p n)
      | none => if n = 0 then some [] else none
    match op with
    | .aaddI => .ok (c.send { r with kind := .aadd, payload := leBytes 8 n }) .none
    | .aaddF => .ok (c.send { r with kind := .aadd, payload := leBytes 8 (n % 2 ^ 32) }) .none
    | .get =>
      (match c.reach k.basin rl n true with
      | some p => if inLatches p n then .fault 6 else .ok (c.send { r with kind := .get, get := some (rl, n) }) .none
      | none => .fault 6)
    | _ =>
      match data with
      | none => .fault 6
      | some bs =>
        (match op with
        | .put => .ok (c.send { r with kind := .put, payload := bs }) .none
        | .rput => .ok (c.send { r with kind := .rput, rfmt := rfmt, payload := bs }) .none
        | _ => .ok (c.send { r with kind := .mcast, maxis := axis, mspan := bits rc 21 6, payload := bs }) .none)

/-- SPOUT (R232). -/
def execSpout (c : Chip) (kc sq : Nat) (k : Kern) (pc rl rr rc len run : Nat) (strm : Bool) (sig : Option Nat) : XRes :=
  let (coord, db) := (bits rc 0 18, bits rc 18 3)
  let home := c.dest coord == c.coord
  let toAg := home && rr == 0
  if rc ≥ 2 ^ 27 ∨ run > 2 ∨ db > 5 ∨ len % 64 ≠ 0 ∨ len = 0 ∨ len ≥ 2 ^ 40 ∨ (!home ∧ rr ≥ 2 ^ 48) then .fault 9
  else if sig.any (· > 5119) ∨ !c.mayReach k.basin (c.dest coord) then .fault 6
  else
    let x := c.cl kc
    let src : Option (Option Ag) := if strm then (x.spoutAg 4 len false).map some
      else if (c.reach k.basin rl len true).isSome then some none else none
    let dst : Option (Option Ag) := if toAg then (x.spoutAg 5 len true).map some
      else if home then (match c.reach k.basin rr len false with
        | some p => if inLatches p len then none else some none
        | none => none)
      else some none
    match src, dst with
    | none, _ => .fault 6
    | _, none => .fault 6
    | some s, some d =>
      let bad : Bool := match s, c.reach k.basin rl len true with
        | none, some (.hbm a) => !home && c.poisoned a len
        | _, _ => false
      if bad then .fault 6
      else if !home ∧ !c.flowRoom k.basin coord db run (ceilDiv len c.maxPay) then .wait
      else
        let r : SendReq :=
          { b := k.basin, src := .seq kc sq, side := k.side, stamp := k.stamp, kind := .spout, opc := 0, run := run,
            coord := coord, dbasin := db, addr := rr, sig := sig, pc := pc }
        let c := c.spout r rl rr len (s.map (fun g => (kc, g))) (d.map (fun g => (kc, g)))
        let x := c.cl kc
        let skip (m : Map Ag) (g : Nat) (o : Option Ag) : Map Ag := match o with
          | some a => m.set g { a with row := a.spoutRow + ceilDiv len (dRowBytes a.desc), elem := 0 }
          | none => m
        .ok (c.setCl kc { x with ag := skip (skip x.ag 4 s) 5 d }) .none

/-- TISSUE and LISSUE (R233). -/
def execEngine (c : Chip) (kc sq : Nat) (k : Kern) (bundle : Nat) (isTemper : Bool) (desc rr : Nat) (sig : Option Nat) : XRes :=
  let die := kc / 4
  match c.reach k.basin desc 64 true with
  | none => .fault 6
  | some pl =>
    let d := c.rdn pl 64
    let comp := if isTemper then rr else bits d 448 48
    let upd := !isTemper && bits d 0 2 == 2
    if sig.any (· > 5119) ∨ (c.reach k.basin comp 16 true).isNone then .fault 6
    else if (if isTemper then (c.tu die).q.length else if upd then (c.lu die).u.length else (c.lu die).g.length) ≥ 32 then .wait
    else
      let (id, c) := c.newId
      let e : ECmd :=
        { id := id, desc := desc, comp := comp, sig := sig.map (fun l => (l, 1)), stamp := k.stamp, kid := k.kid,
          side := k.side, src := .seq kc sq, tkc := kc, tbase := k.tagbase, queue := k.queue, bundle := bundle,
          bstep := c.step k.basin, kern := k.id }
      .ok (if isTemper then c.enqT die e else c.enqL die upd e) .none

/-- The X slot of the bundle at package address `bundle`; `x0` holds the sources as the bundle reads them. -/
def execX (c : Chip) (kc sq : Nat) (k : Kern) (x0 : Cluster) (bundle : Nat) (i : XInst) : XRes :=
  let s := (x0.seq sq).reg
  let putA (an v : Nat) : XRes :=
    if (an < 8) = (sq = 0) then
      let x := c.cl kc
      .ok (c.setCl kc { x with a := Map.put 0 x.a an v }) .none
    else .fault 5
  let num (n : Nat) (lr : Bool) (rb : Nat) : Option Nat :=
    let l := if lr then s rb else n
    if l < 5120 ∧ (c.latchPlace k.basin l).isSome then some l else none
  match i with
  | .empty => .ok c .none
  | .ald an ra imm =>
    let off := (s ra + imm) % 2 ^ 64
    if off % 64 ≠ 0 ∨ !cisRange off 64 false then .fault 6 else putA an (c.rdn (.cis kc off) 64)
  | .ast an ra imm =>
    let off := (s ra + imm) % 2 ^ 64
    if off % 64 ≠ 0 ∨ !cisRange off 64 true then .fault 6
    else .ok (c.wr (.cis kc off) (leBytes 64 (Map.get 0 x0.a an))) .none
  | .awr an w ra => putA an (setBits (Map.get 0 x0.a an) (64 * w) 64 (s ra))
  | .ard an w rd => .ok (c.setS kc sq rd (bits (Map.get 0 x0.a an) (64 * w) 64)) .none
  | .latch isSet n lr rb ra =>
    (match num n lr rb with
    | none => .fault 6
    | some l =>
      let m := c.relMarks kc sq k
      let (supp, c) := c.gate (.seq kc sq)
      let (id, c) := c.newId
      let bs := c.bs k.basin
      let o : LatchOp := { id := id, latch := l, isSet := isSet, val := s ra, src := .seq kc sq, marks := m, supp := supp }
      .ok (c.setBs k.basin { bs with lops := bs.lops ++ [o] }) .none)
  | .lwait n lr rb ra =>
    (match num n lr rb with
    | none => .fault 6
    | some l => .ok c (.lwait l (s ra)))
  | .fence scope => .ok c (.fence (scope == 0) (c.marks kc sq k scope))
  | .msync mask => .ok c (.msync mask (c.cl kc).arr.issued)
  | .f op rl rr rc rn run rfmt axis sigen siglatch strm =>
    let sig := if sigen then some siglatch else none
    (match op with
    | .spout => execSpout c kc sq k (bundle % 2 ^ 25) (s rl) (s rr) (s rc) (s rn) run strm sig
    | .tissue => execEngine c kc sq k bundle true (s rl) (s rr) sig
    | .lissue => execEngine c kc sq k bundle false (s rl) (s rr) sig
    | _ => execXf c kc sq k (bundle % 2 ^ 25) op (s rl) (s rr) (s rc) (s rn) run rfmt axis sig)
  | .qpost rd ra idx =>
    let off := s ra
    if !cisRange off 64 false then .fault 6
    else if !c.met kc { (if k.mown = sq then x0.arr.issued else {}) with ops := (x0.seq sq).loads.map (·.id) } then .wait
    else
      let (c, st) := c.qPost k.basin (idx % 64) (c.rdn (.cis kc off) 64)
      .ok (c.setS kc sq rd st) .none
  | .tharv rd idx =>
    (match c.tagOf kc k idx with
    | .addr => .fault 6
    | .bad => .fault 7
    | .ok t =>
      if k.side then .ok (c.setS kc sq rd 1) .none
      else if k.stamp ≠ c.step k.basin then .ok (c.setS kc sq rd 2) .none
      else .ok (((c.tagUse kc t.off).harvest kc k.basin t k.stamp).setS kc sq rd 0) .none)

/-! ### Registers and streams that a bundle uses (R205, R237) -/

def SInst.reads : SInst → List Nat
  | .alu _ _ ra rb => [ra, rb]
  | .alui _ _ ra _ => [ra]
  | .orhi _ ra _ => [ra]
  | .load _ _ _ ra _ => [ra]
  | .store _ rd ra _ => [rd, ra]
  | .br _ ra rb _ => [ra, rb]
  | .jr ra => [ra]
  | .loop ra _ => [ra]
  | _ => []
def SInst.writes : SInst → List Nat
  | .alu _ rd _ _ => [rd]
  | .alui _ rd _ _ => [rd]
  | .movi rd _ => [rd]
  | .orhi rd _ _ => [rd]
  | .load _ _ rd _ _ => [rd]
  | .call ra _ => [ra]
  | .mfc rd _ => [rd]
  | _ => []
def VInst.reads : VInst → List Nat
  | .r op _ va vb _ _ _ _ _ _ _ bs =>
    (if op = .vbcast ∨ op = .pfirst then [va % 32] else []) ++ (if bs ∨ op = .vext then [vb % 32] else [])
  | _ => []
def VInst.writes : VInst → List Nat
  | .r op vd _ _ _ _ _ _ _ _ _ _ =>
    if op = .vext ∨ op = .vredSum ∨ op = .vredMax ∨ op = .vredDot ∨ op = .pcnt then [vd % 32] else []
  | _ => []
def MInst.reads : MInst → List Nat
  | .mpass _ rs rr _ _ => if rs then [rr] else []
  | .mdrain _ _ raw _ _ clo chi _ _ _ rc rt => (if clo ∨ chi then [rc] else []) ++ (if raw then [] else [rt])
  | _ => []
def XInst.reads : XInst → List Nat
  | .ald _ ra _ => [ra]
  | .ast _ ra _ => [ra]
  | .awr _ _ ra => [ra]
  | .latch _ _ lr rb ra => ra :: (if lr then [rb] else [])
  | .lwait _ lr rb ra => ra :: (if lr then [rb] else [])
  | .f op rl rr rc rn _ _ _ _ _ _ => if op = .tissue then [rl, rr] else if op = .lissue then [rl] else [rl, rr, rc, rn]
  | .qpost _ ra _ => [ra]
  | _ => []
def XInst.writes : XInst → List Nat
  | .ard _ _ rd => [rd]
  | .qpost rd _ _ => [rd]
  | .tharv rd _ => [rd]
  | _ => []

/-- A bundle, slot by slot. -/
structure Bundle where
  s : SInst
  v : VInst
  m : MInst
  x : XInst
  deriving DecidableEq, Repr

/-- Decoding of a 256-bit bundle (R201, R202). -/
def decodeBundle (w : Nat) : Option Bundle :=
  match decodeS (slotWord w 0), decodeV (slotWord w 1), decodeM (slotWord w 2), decodeX (slotWord w 3) with
  | some s, some v, some m, some x => some { s := s, v := v, m := m, x := x }
  | _, _, _, _ => none

def Bundle.reads (i : Bundle) : List Nat := i.s.reads ++ i.v.reads ++ i.m.reads ++ i.x.reads

/-- Two slots write one s-register. -/
def Bundle.clash (i : Bundle) : Bool :=
  let (a, b, d) := (i.s.writes, i.v.writes, i.x.writes)
  a.any (fun r => b.contains r || d.contains r) || b.any (fun r => d.contains r)

/-- The active streams that an array's sequencer drives (R237): generator, descriptor, and whether it writes. -/
def Arr.streams (a : Arr) : List (Nat × Nat × Bool) :=
  let drain (d : DrainCmd) : List (Nat × Nat × Bool) := (2, d.desc, true) :: (d.vec.toList.map (fun v => (3, v.1, false)))
  a.q.flatMap (fun q => match q with
    | .load _ _ _ d _ _ _ => [(1, d, false)]
    | .pass _ _ _ d _ _ _ _ => [(0, d, false)]
    | .drain d => drain d)
  ++ a.loading.toList.map (fun l => (1, l.2.1, false)) ++ a.drains.flatMap (fun d => drain d.cmd)

/-- Streams that a bundle's slots consume. -/
def Bundle.streams (i : Bundle) : List (Nat × Bool) :=
  (match i.v with
   | .m .vst _ _ _ _ _ _ _ => [(5, true)]
   | .m _ _ _ _ _ _ _ _ => [(4, false)]
   | _ => [])
  ++ (match i.m with
   | .mload _ _ _ => [(1, false)]
   | .mpass _ _ _ _ _ => [(0, false)]
   | .mdrain _ _ _ _ _ _ _ bias rsc csc _ _ => (2, true) :: (if bias ∨ rsc ≠ 0 ∨ csc ≠ 0 then [(3, false)] else [])
   | _ => [])

/-- The own-cistern bytes of an S-slot load or store, and whether it writes. -/
def Chip.sBytes (c : Chip) (kc : Nat) (s : Nat → Nat) (i : SInst) : Option (Int × Int × Bool) :=
  let of (n ra : Nat) (imm : Int) (w : Bool) : Option (Int × Int × Bool) :=
    match c.placeN ((s ra + wrapInt 64 imm) % 2 ^ 64) n with
    | some (.cis kd off) => if kd = kc then some ((off : Int), (off + n : Nat), w) else none
    | _ => none
  match i with
  | .load n _ _ ra imm => of n ra imm false
  | .store n _ ra imm => of n ra imm true
  | _ => none

/-- The own-cistern bytes, by offset, that the X slot names in its registers, and whether it writes them (R239): address registers, the
local operand of a fabric instruction or spout copy, the destination of a copy within the package, and a packet to post. -/
def Chip.xBytes (c : Chip) (kc : Nat) (s : Nat → Nat) (i : XInst) : List (Int × Int × Bool) :=
  let of (a n : Nat) (w : Bool) : List (Int × Int × Bool) :=
    match c.placeN a (max n 1) with
    | some (.cis kd off) => if kd = kc then [((off : Int), ((off + n : Nat) : Int), w)] else []
    | _ => []
  let loc (off n : Nat) (w : Bool) : List (Int × Int × Bool) := [((off : Int), ((off + n : Nat) : Int), w)]
  match i with
  | .ald _ ra imm => loc ((s ra + imm) % 2 ^ 64) 64 false
  | .ast _ ra imm => loc ((s ra + imm) % 2 ^ 64) 64 true
  | .qpost _ ra _ => loc (s ra) 64 false
  | .f op rl rr rc rn _ _ _ _ _ strm =>
    (match op with
    | .put | .rput | .mcast => of (s rl) (s rn) false
    | .get => of (s rl) (s rn) true
    | .spout => (if strm then [] else of (s rl) (s rn) false) ++ (if c.dest (bits (s rc) 0 18) = c.coord then of (s rr) (s rn) true else [])
    | .tissue | .lissue => of (s rl) 64 false
    | _ => [])
  | _ => []

/-- The streams of AG4 and AG5 that the X slot consumes (R232). -/
def Chip.xStreams (c : Chip) (s : Nat → Nat) (i : XInst) : List (Nat × Bool) :=
  match i with
  | .f .spout _ rr rc _ _ _ _ _ _ strm =>
    (if strm then [(4, false)] else []) ++ (if c.dest (bits (s rc) 0 18) = c.coord ∧ s rr = 0 then [(5, true)] else [])
  | _ => []

/-- The streams of spout copies that a sequencer has outstanding. -/
def Chip.spoutStreams (c : Chip) (kc sq : Nat) : List (Nat × Nat × Bool) :=
  (c.ops.filter (fun o => o.src = .seq kc sq && o.kind = .spout)).flatMap (fun o =>
    o.agSrc.toList.map (fun g => (4, g.2.desc, false)) ++ o.agDst.toList.map (fun g => (5, g.2.desc, true)))

/-- The stream-range interlock (R237, R239). -/
def Chip.interlock (c : Chip) (kc sq : Nat) (k : Kern) (i : Bundle) : Bool :=
  let x := c.cl kc
  let s := (x.seq sq).reg
  let act := (if k.mown = sq then x.arr.streams else []) ++ c.spoutStreams kc sq
  let bytes := ((c.sBytes kc s i.s).toList ++ c.xBytes kc s i.x).map (fun e => ((16, 0), e))
  let strs := (i.streams ++ c.xStreams s i.x).filterMap (fun e =>
    (x.ag.find e.1).map (fun g => ((e.1, g.desc), ((dRange g.desc).1, (dRange g.desc).2, e.2))))
  (bytes ++ strs).any (fun e => act.any (fun a =>
    (a.1, a.2.1) != e.1 && (a.2.2 || e.2.2.2) && decide (e.2.1 < (dRange a.2.1).2) && decide ((dRange a.2.1).1 < e.2.2.1)))

/-- The package addresses that the S and X slots read or write: address, length, and whether written. -/
def Chip.slotAddrs (c : Chip) (s : Nat → Nat) (i : Bundle) : List (Nat × Nat × Bool) :=
  (match i.s with
  | .load n _ _ ra imm => [((s ra + wrapInt 64 imm) % 2 ^ 64, n, false)]
  | .store n _ ra imm => [((s ra + wrapInt 64 imm) % 2 ^ 64, n, true)]
  | _ => [])
  ++ (match i.x with
  | .f op rl rr rc rn _ _ _ _ _ _ =>
    let home := c.dest (bits (s rc) 0 18) = c.coord
    (match op with
    | .put | .rput | .mcast => (s rl, s rn, false) :: (if home then [(s rr, s rn, true)] else [])
    | .get => (s rl, s rn, true) :: (if home then [(s rr, s rn, false)] else [])
    | .aaddI | .aaddF => if home then [(s rr, 8, true)] else []
    | _ => [])
  | _ => [])

/-- The package addresses that a sequencer's own unfinished loads and operations still read or write (R184). A spout copy is an agent of
its own. -/
def Chip.ownBusy (c : Chip) (kc sq : Nat) : List (Nat × Nat × Bool) :=
  (c.seqr kc sq).loads.map (fun l => (l.addr, l.size, false))
  ++ (c.ops.filter (fun o => o.src = .seq kc sq && o.kind != .spout)).flatMap (fun o =>
    let h := decHdr o.hdr
    (if o.kind = .get then [(o.loc, o.len, true)] else [])
    ++ (if o.flow.coord = c.coord then [(h.addr, o.len, o.kind != .get)] else []))

/-- One agent's accesses to overlapping bytes are performed in program order (R184): a bundle waits for those before it. -/
def Chip.orderWait (c : Chip) (kc sq : Nat) (i : Bundle) : Bool :=
  (c.slotAddrs (c.seqr kc sq).reg i).any (fun a => (c.ownBusy kc sq).any (fun o =>
    (a.2.2 || o.2.2) && decide (a.1 < o.1 + o.2.1) && decide (o.1 < a.1 + a.2.1)))

/-! ### BUNDLE_ISSUE (R201-R207, R212) -/

/-- Role address of a bundle (R36). -/
def Chip.roleAddr (c : Chip) (kc pc : Nat) : Nat :=
  0x20000000000 + c.clBasin kc * 0x40000000 + c.dieSlot (kc / 4) * 0x8000000 + kc % 4 * 0x2000000 + pc

/-- The bundle at an offset: from the buffer of the last eight fetched, else from the cistern (R203). -/
def Chip.fetch (c : Chip) (kc sq pc : Nat) : Nat × Chip :=
  let q := c.seqr kc sq
  match q.buf.find? (fun e => e.1 == pc) with
  | some e => (e.2, c)
  | none =>
    let w := c.rdn (.cis kc pc) 32
    (w, c.setSeqr kc sq { q with buf := ((pc, w) :: q.buf).take 8 })

/-- A branch is taken: after a FENCE.C the buffer is fetched anew (R203). -/
def Seqr.taken (q : Seqr) : Seqr := if q.fenced then { q with buf := [], fenced := false } else q

/-- Levels that a branch target leaves are popped (R212); the innermost level stands first. -/
def popLoops (dst : Nat) : List Loop → List Loop
  | [] => []
  | l :: t => if l.start ≤ dst ∧ dst ≤ l.stop then l :: t else popLoops dst t

/-- The end bundle of levels: the first with count above 1 goes round again, others close (R212). -/
def loopEnd (pc : Nat) : List Loop → List Loop × Option Nat
  | [] => ([], none)
  | l :: t =>
    if l.stop ≠ pc then (l :: t, none)
    else if l.count > 1 then ({ l with count := l.count - 1 } :: t, some l.start)
    else loopEnd pc t

/-- PC of a sequencer (R208). -/
def seqPc (kc sq : Nat) : RF := CLS_SEQ_STS.PC (kc / 4) (kc % 4) sq
def seqState (kc sq : Nat) : RF := CLS_SEQ_STS.STATE (kc / 4) (kc % 4) sq

/-- After a bundle: the next PC and the loop stack; none where a branch or a skipped loop leaves the range of the PC. -/
def Chip.advance (c : Chip) (kc sq pc : Nat) (f : SFlow) : Option Chip :=
  let q := c.seqr kc sq
  match f with
  | .halt => some (c.put (seqState kc sq) 3)
  | .branch dst pops =>
    if dst < 0 ∨ dst ≥ 2 ^ 25 then none
    else
      let t := dst.toNat
      some ((c.setSeqr kc sq { q.taken with loops := if pops then popLoops t q.loops else q.loops }).put (seqPc kc sq) t)
  | .loop stop n =>
    let e := pc + 32 * stop
    if n = 0 then (if e + 32 ≥ 2 ^ 25 then none else some (c.put (seqPc kc sq) (e + 32)))
    else some ((c.setSeqr kc sq { q with loops := { start := pc + 32, stop := e, count := n } :: q.loops }).put (seqPc kc sq) (pc + 32))
  | .next =>
    match loopEnd pc q.loops with
    | (ls, some dst) => some ((c.setSeqr kc sq { q.taken with loops := ls }).put (seqPc kc sq) dst)
    | (ls, none) => some ((c.setSeqr kc sq { q with loops := ls }).put (seqPc kc sq) (pc + 32))

/-- What a bundle comes to. -/
inductive BRes where
  | done (c : Chip) (nan : Option Nat)
  | wait
  | fault (cause code : Nat)
  deriving DecidableEq, Repr

/-- A decoded bundle issues: its slots in the order S, V, M, X (R202, R205). -/
def Chip.runBundle (c : Chip) (kc sq : Nat) (k : Kern) (pc : Nat) (i : Bundle) : BRes :=
  let x0 := c.cl kc
  if (i.v ≠ .empty ∧ k.vown ≠ sq) ∨ (i.m ≠ .empty ∧ k.mown ≠ sq) then .fault 2 0
  else if i.clash then .fault 4 0
  else if (x0.seq sq).loads.any (fun l => (i.reads ++ i.s.writes ++ i.v.writes ++ i.x.writes).contains l.rd)
      ∨ c.interlock kc sq k i ∨ c.orderWait kc sq i then .wait
  else match execS c kc sq k (x0.seq sq).reg pc i.s with
    | .fault a b => .fault a b
    | .ok c f =>
      match execV c kc sq k x0 i.v with
      | .fault a b => .fault a b
      | .wait => .wait
      | .ok c nan =>
        match execM c kc sq k x0 (c.roleAddr kc pc) i.m with
        | .fault a b => .fault a b
        | .wait => .wait
        | .ok c _ =>
          match execX c kc sq k x0 (c.roleAddr kc pc) i.x with
          | .fault a => .fault a 0
          | .wait => .wait
          | .ok c h =>
            match c.advance kc sq pc f with
            | none => .fault 6 0
            | some c =>
              if h = .none ∨ f = .halt then .done c nan
              else .done ((c.setSeqr kc sq { c.seqr kc sq with hold := h }).put (seqState kc sq) 2) nan

/-- Whether a sequencer may issue now: a kernel runs, its cluster has its clock, and nothing holds it. -/
def Chip.mayIssue (c : Chip) (kc sq : Nat) : Option Kern :=
  let x := c.cl kc
  if sq > 1 ∨ c.get (seqState kc sq) ≠ 1 ∨ (x.seq sq).hold ≠ .none ∨ !x.pllOn ∨ x.gated ∨ x.testing.isSome
      ∨ c.basinOff (c.clBasin kc) then none
  else c.kernOf kc

/-- A sequencer issues its next bundle. -/
def Chip.issue (c : Chip) (kc sq : Nat) : Chip :=
  match c.mayIssue kc sq with
  | none => c
  | some k =>
    let pc := c.get (seqPc kc sq)
    if pc % 32 ≠ 0 ∨ pc + 32 > latchOfs then c.kernelFault kc sq 6 0
    else
      let (w, c) := c.fetch kc sq pc
      match decodeBundle w with
      | none => c.kernelFault kc sq 1 0
      | some i =>
        match c.runBundle kc sq k pc i with
        | .wait => c
        | .fault a b => c.kernelFault kc sq a b
        | .done d nan =>
          let q := d.seqr kc sq
          let d := d.setSeqr kc sq { q with issues := q.issues + 1 }
          match nan with
          | some tag => d.kernNan kc k tag 1 (c.roleAddr kc pc) (c.step k.basin)
          | none => d

/-- BUNDLE_ISSUE (R202): unless a debug command has halted the sequencer (R452). -/
def bundleIssue (kc sq : Nat) (c : Chip) : Chip := if c.dbgHalt.contains (2 * kc + sq) then c else c.issue kc sq

/-! ### What holds a sequencer ends (R185, R211, R229, R235) -/

/-- LOAD_DATA_RETURN (R211): the data of load number `i` of a sequencer returns. A poisoned granule stops the kernel (R248). -/
def loadDataReturn (kc sq i : Nat) (c : Chip) : Chip :=
  let q := c.seqr kc sq
  match q.loads[i]?, c.kernOf kc with
  | some l, some k =>
    let c := c.setSeqr kc sq { q with loads := q.loads.eraseIdx i }
    if inRegs l.addr then
      let (v, c) := c.regRead (l.addr - regWindow)
      c.setS kc sq l.rd v
    else match c.reach k.basin l.addr l.size false with
      | some p =>
        let bad : Bool := match p with
          | .hbm a => c.poisoned a l.size
          | _ => false
        if bad then c.kernelFaultAt kc sq 6 l.pc else c.setS kc sq l.rd (extend l.size l.signed (c.rdn p l.size))
      | none => c.kernelFaultAt kc sq 6 l.pc
  | _, _ => c

/-- The hold of a sequencer ends. -/
def Chip.unhold (c : Chip) (kc sq : Nat) (fenceC : Bool) : Chip :=
  let q := c.seqr kc sq
  (c.setSeqr kc sq { q with hold := .none, fenced := q.fenced || fenceC }).put (seqState kc sq) 1

/-- LWAIT_RELEASE (R229). -/
def lwaitRelease (kc sq : Nat) (c : Chip) : Chip :=
  match (c.seqr kc sq).hold, c.kernOf kc with
  | .lwait l thr, some k => if thr ≤ c.latch k.basin l then c.unhold kc sq false else c
  | _, _ => c

/-- FENCE_COMPLETE (R185). -/
def fenceComplete (kc sq : Nat) (c : Chip) : Chip :=
  match (c.seqr kc sq).hold with
  | .fence fc m => if c.met kc m then c.unhold kc sq fc else c
  | _ => c

/-- MSYNC_RELEASE (R235). -/
def msyncRelease (kc sq : Nat) (c : Chip) : Chip :=
  match (c.seqr kc sq).hold with
  | .msync mask m => if c.msyncMet kc mask m then c.unhold kc sq false else c
  | _ => c

/-- LATCH_OP_APPLY (R178, R186): latch operation `id` of basin `b`, once its release permits it. -/
def latchOpApply (b id : Nat) (c : Chip) : Chip :=
  let s := c.bs b
  match s.lops.find? (fun o => o.id == id) with
  | none => c
  | some o =>
    let kc := match o.src with
      | .seq kc _ => kc
      | _ => 0
    if s.frozen ∨ !c.met kc o.marks then c
    else
      let c := c.setBs b { s with lops := s.lops.filter (fun x => x.id != id) }
      if o.supp then c else c.latchApply b o.latch o.isSet o.val

end Sys2Proof.Machine
end

