-- ==== Sys2Proof/Machine/HostBar.lean ====
section
/-! DEFINITION. What comes in from outside as a whole: host reads and writes through the BARs, the GO word of the mailbox, sideband
messages, level-1 debug operations and the test access port (14 R421-R423, R433, R452-R457). -/
namespace Sys2Proof.Machine

/-! ### Level-1 debug operations (R452) -/

/-- What a debug operation does and answers with. -/
def DbgOp.run (d : DbgOp) (s : State) : Reply × State :=
  let c := s.chip
  match d with
  | .cistern kc off len =>
    if kc < 104 ∧ off + len ≤ cisSize ∧ len ≤ mbxRespLen then ({ resp := some (c.mem.reads (cisKey kc off) len) }, s)
    else ({ result := 6 }, s)
  | .halt kc k on =>
    if kc < 104 ∧ k < 2 then
      ({}, { s with chip := { c with dbgHalt := if on then insNat c.dbgHalt (2 * kc + k) else c.dbgHalt.filter (· != 2 * kc + k) } })
    else s.openResult
  | .step kc k =>
    if c.dbgHalt.contains (2 * kc + k) then ({}, { s with chip := c.issue kc k }) else s.openResult
  | .rill kc r =>
    if kc ≥ 104 then s.openResult
    else if r < 64 then ({ resp := some (leBytes 8192 ((c.cl kc).vreg kc r)) }, s)
    else if r < 72 then ({ resp := some (leBytes 256 ((c.cl kc).preg kc (r - 64))) }, s)
    else s.openResult

/-- DEBUG_ACCESS (R452, R455). -/
def debugAccess (ag : Agent) (d : DbgOp) (s : State) : State :=
  s.command ag 0x58 (fun s => if s.sec.level = 0 then ({ result := 5 }, s) else d.run s)

/-! ### A mailbox command from its request bytes (R453-R456) -/

/-- Word `i` of a request. -/
def reqWord (req : List Byte) (i : Nat) : Nat := leNat ((req.drop (8 * i)).take 8)

/-- The debug operation that a request spells (its layout is the model's: an operation number and its operands, 8 bytes each). -/
def reqDbg (req : List Byte) : Option DbgOp :=
  let w := reqWord req
  match w 0 with
  | 0 => some (.cistern (w 1) (w 2) (w 3))
  | 1 => some (.halt (w 1) (w 2) (w 3 % 2 == 1))
  | 2 => some (.step (w 1) (w 2))
  | 3 => some (.rill (w 1) (w 2))
  | _ => none

/-- Bytes that the fixed part of a command's request takes. -/
def reqNeeds (op : Nat) : Nat :=
  match op with
  | 0x02 => 16
  | 0x04 => 32
  | 0x10 => 24
  | 0x11 | 0x20 | 0x23 | 0x51 => 8
  | 0x58 => 24
  | _ => 0

/-- A command given as an opcode and a request. The layout of a request is the model's: its operands in the order of R455's table,
8 bytes each, then its data. -/
def State.give (s : State) (ag : Agent) (op : Nat) (req : List Byte) : State :=
  let w := reqWord req
  if req.length < reqNeeds op then s.command ag op (fun s => ({ result := 6 }, s))
  else match op with
    | 0x01 => mbxStatus ag s
    | 0x02 => logRead ag (w 0) (w 1) s
    | 0x03 => certs ag s
    | 0x04 => hallmark ag (req.take 32) s
    | 0x10 => imageStage ag (w 0) (w 1) (req.drop 24) s
    | 0x11 => imageCommit ag (w 0) s
    | 0x12 =>
      let (v, c) := s.chip.fresh
      liveUpdate ag (v % 2 == 1) { s with chip := c }
    | 0x20 => cfgStage ag (w 0) (req.drop 8) s
    | 0x21 => cfgCommit ag s
    | 0x22 => cfgRevert ag s
    | 0x23 => cfgRestore ag (w 0) s
    | 0x30 => ownerSet ag req s
    | 0x40 => mbxReset ag s
    | 0x50 => debugChallenge ag s
    | 0x51 => debugUnlock ag (w 0) (req.drop 8) s
    | 0x52 => debugLock ag s
    | 0x58 => (match reqDbg req with
      | some d => debugAccess ag d s
      | none => s.command ag 0x58 State.openResult)
    | _ => s.command ag op State.openResult

/-- GO of the host mailbox (R453, R454): the request lies at mailbox offset 0x1000. -/
def State.go (s : State) (ag : Agent) : State :=
  let n := s.chip.get HUB_MBX_CMD.LEN
  let op := s.chip.get HUB_MBX_CMD.OPCODE
  if n > 0x7F000 then s.command ag op (fun s => ({ result := 6 }, s))
  else s.give ag op (s.chip.mem.reads (mbxBase + 0x1000) n)

/-- A command of the PF's path carries the TAG of the word that gave it. -/
def State.retag (s : State) (tag : Nat) : State :=
  { s with sec := { s.sec with pf := { s.sec.pf with run := s.sec.pf.run.map (fun r => { r with tag := tag }) } } }

/-- GO of the security engine interface (R457): HALLMARK over the nonce held there, and DEBUG_CHALLENGE, as the interface's own command
word gives them; they run as commands of the PF's path, whichever agent gave them. -/
def State.goSe (s : State) : State :=
  let w := leNat (s.chip.mem.reads seBase 8)
  let t := match bits w 0 16 with
    | 0x04 => hallmark .pf (s.chip.mem.reads (seBase + 0x1000) 32) s
    | 0x50 => debugChallenge .pf s
    | op => s.command .pf op (fun s => ({ result := 5 }, s))
  if s.sec.pf.run.isSome then t else t.retag (bits w 16 16)

/-! ### Where a BAR leads (R421, R422, R453) -/

/-- What an access through a BAR reaches: a register, a queue's or a copy channel's doorbell, HBM, or an offset in the hub
region. -/
inductive BarTo where
  | reg (off : Nat)
  | bell (b q : Nat)
  | copyBell (i : Nat)
  | hbm (a : Nat)
  | hub (off : Nat)
  | none
  deriving DecidableEq, Repr

/-- An offset in the register window, with the mailbox alias. -/
def Chip.window (c : Chip) (off : Nat) : BarTo :=
  if off ≥ 0x4000000 then .none
  else if off < 0x10000 then .reg off
  else if off < 0x18000 then .hub (off - 0x10000)
  else if off < 0x20000 then .hub (0x80000 + 0x8000 * c.get HUB_MBX_WIN.PAGE + (off - 0x18000))
  else .reg off

/-- An offset in the doorbell window (R162, R425). -/
def bellAt (off : Nat) : BarTo :=
  if off % 0x1000 ≠ 0 then .none
  else if off < 0x180000 then .bell (off / 0x40000) (off / 0x1000 % 64)
  else if 0x800000 ≤ off ∧ off < 0x810000 then .copyBell ((off - 0x800000) / 0x1000)
  else .none

/-- The hub region's parts (R263). -/
def hubPart (o : Nat) : BarTo :=
  if o < 0x100000 ∨ (0x1000000 ≤ o ∧ o < 0x1200000) ∨ (0x2000000 ≤ o ∧ o < 0x2040000) ∨ (0x4000000 ≤ o ∧ o < 0x4010000) then .hub o
  else .none

/-- A package address through PF BAR4 (R35, R422). -/
def Chip.pkgTo (c : Chip) (a : Nat) : BarTo :=
  if a < 0x18000000000 then (if c.isHbm a then .hbm a else .none)
  else if 0x30000000000 ≤ a ∧ a < 0x30004000000 then c.window (a - 0x30000000000)
  else if 0x30800000000 ≤ a ∧ a < 0x30801000000 then bellAt (a - 0x30800000000)
  else if 0x31000000000 ≤ a ∧ a < 0x31010000000 then hubPart (a - 0x31000000000)
  else .none

/-- Copy channels of a function, in channel order. -/
def Chip.ownChans (c : Chip) (f : Nat) : List Nat := (List.range 16).filter (fun i => c.chFunc i == f)

/-- What a function's access reaches; R421's refusals reach nothing. -/
def Chip.barTo (c : Chip) (ag : Agent) (bar off : Nat) : BarTo :=
  match ag, bar with
  | .pf, 0 => if c.pcie.mse.contains 0 then c.window off else .none
  | .pf, 2 => if c.ready ∧ c.pcie.mse.contains 0 then bellAt off else .none
  | .pf, 4 => if c.ready ∧ c.pcie.mse.contains 0 ∧ off < 2 ^ c.pcie.bar4 then c.pkgTo (c.get HUB_BAR4_BASE.BASE + off) else .none
  | .vf n, _ =>
    let b := c.get (HUB_VF_BIND.BASIN n)
    if !c.ready ∨ b > 5 ∨ n ≥ c.pcie.totalVfs ∨ !c.pcie.vfEn ∨ !c.pcie.mse.contains (n + 1) then .none
    else match bar with
      | 0 => if off < 0x400000 then .reg (bsnBase b + off) else .none
      | 2 =>
        if off % 0x1000 ≠ 0 then .none
        else if off < 0x40000 then .bell b (off / 0x1000)
        else match (c.ownChans (n + 1))[(off - 0x40000) / 0x1000]? with
          | some i => .copyBell i
          | none => .none
      | 4 =>
        if off < 2 ^ 38 ∧ c.on (HUB_VF_BIND.ADMIN n) ∧ c.isHbm (b * 2 ^ 38 + off) then .hbm (b * 2 ^ 38 + off) else .none
      | _ => .none
  | _, _ => .none

/-! ### The hub region (R263, R453, R457) -/

/-- A refused access: a read completes with Unsupported Request, a write is dropped and logged (R421). -/
def Chip.barRefuse (c : Chip) (ag : Agent) (write : Bool) : Chip := c.emit (if write then .dropped ag else .ur ag)

/-- Bytes of the security engine interface from offset `o` (R457). -/
def State.seBytes (s : State) (o n : Nat) : List Byte :=
  let at' (l : List Byte) (k : Nat) : List Byte := ((l.drop k) ++ List.replicate n 0).take n
  if o < 0x2000 then s.chip.mem.reads (seBase + o) n
  else if o < 0x3000 then at' s.sec.hallmark (o - 0x2000)
  else if 0x4000 ≤ o ∧ o < 0x8000 then at' (Config.certChain (s.sec.nor.reads 0 0x100000)) (o - 0x4000)
  else if 0x8000 ≤ o ∧ o < 0x10000 then at' (s.sec.logBytes.take 0x8000) (o - 0x8000)
  else List.replicate n 0

/-- The register behind the command and status words of the mailbox, and the status word of the security engine interface, a copy of
the mailbox's (R457). -/
def mbxWord (o : Nat) : Option Nat :=
  if o = 0 then some HUB_MBX_CMD.key else if o = 8 ∨ o = 0x4000008 then some HUB_MBX_STS.key else none

/-- A host read of the hub region. -/
def State.hubRead (s : State) (ag : Agent) (o n : Nat) : State :=
  let ans (bs : List Byte) : State := { s with chip := s.chip.emit (.bytes ag bs) }
  match mbxWord o with
  | some r => ans ((leBytes 8 (s.chip.regRead r).1).take n)
  | none =>
    if o < 0x1000 then ans (List.replicate n 0)
    else if o < 0x4000000 then ans (s.chip.mem.reads (mbxBase + o) n)
    else ans (s.seBytes (o - 0x4000000) n)

/-- A host write of the hub region. -/
def State.hubWrite (s : State) (ag : Agent) (o : Nat) (data : List Byte) : State :=
  let put : State := { s with chip := { s.chip with mem := s.chip.mem.write (mbxBase + o) data } }
  match mbxWord o with
  | some r => if data.length = 8 ∧ o < 0x1000 then s.regWrite ag r (leNat data) else s
  | none =>
    if o = 0x10 then (if leNat data = 1 then s.go ag else s)
    else if o = 0x4000000 then (if data.length = 8 then put else s)
    else if o = 0x4000010 then (if leNat data = 1 then s.goSe else s)
    else if 0x1000 ≤ o ∧ o + data.length ≤ 0x80000 then put
    else if 0x80000 ≤ o ∧ o + data.length ≤ 0x100000 then put
    else if 0x4001000 ≤ o ∧ o + data.length ≤ 0x4001020 then put
    else { s with chip := s.chip.barRefuse ag true }

/-! ### Host accesses (R421) -/

/-- HOST_BAR_ACCESS (R421-R423): a read of `len` bytes, or with `data` a write. -/
def hostBarAccess (ag : Agent) (bar off len : Nat) (data : Option (List Byte)) (s : State) : State :=
  let c := s.chip
  let n := match data with
    | some d => d.length
    | none => len
  let bad : State := { s with chip := c.barRefuse ag data.isSome }
  let word := n = 8 ∧ off % 8 = 0
  if n = 0 then bad
  else match c.barTo ag bar off, data with
    | .reg r, none =>
      if !word ∨ !c.answers r ∨ !c.mayRead ag r then bad
      else
        let (v, s) := s.regRead r
        { s with chip := s.chip.emit (.rdata ag v) }
    | .reg r, some d =>
      if !word ∨ !c.answers r ∨ c.emptySlot r ∨ (ag ≠ .pf ∧ !c.regReach ag r true) then bad else s.regWrite ag r (leNat d)
    | .bell _ _, none => if word then { s with chip := c.emit (.rdata ag 0) } else bad
    | .bell b q, some d => if word then { s with chip := doorbell ag b q (leNat d % 65536) c } else bad
    | .copyBell _, none => if word then { s with chip := c.emit (.rdata ag 0) } else bad
    | .copyBell i, some d => if word then { s with chip := copyDoorbell ag i (leNat d % 65536) c } else bad
    | .hbm a, none =>
      if !c.isHbm (a + (n - 1)) ∨ stackOf a ≠ stackOf (a + (n - 1)) then bad
      else if c.poisoned a n then { s with chip := c.emit (.poisoned ag) }
      else { s with chip := c.emit (.bytes ag (c.mem.reads a n)) }
    | .hbm a, some d =>
      if !c.isHbm (a + (n - 1)) ∨ stackOf a ≠ stackOf (a + (n - 1)) ∨ c.inQuench a ∨ c.inQuench (a + (n - 1)) then bad
      else
        let c1 := c.wrHbm a d
        { s with chip := if c.partPoison a n then c1.barRefuse ag true else c1 }
    | .hub o, none => if bar = 0 ∧ (!word ∨ !c.answers 0) then bad else s.hubRead ag o n
    | .hub o, some d => if bar = 0 ∧ (!word ∨ !c.answers 0) then bad else s.hubWrite ag o d
    | .none, _ => bad

/-! ### The sideband (R433) -/

/-- A PLDM sensor: die temperatures 0-31, stack temperatures 32-43, package power 44, risk score 45; the numbering is the
model's. -/
def Chip.sensor (c : Chip) (id : Nat) : Option Nat :=
  if id < 32 then some (c.get (TMP_DIE.TMAX id))
  else if id < 44 then some (c.get (TMP_HBM.TEMP (id - 32)))
  else if id = 44 then some (c.get PWR_STS.LAST_W)
  else if id = 45 then some (c.get ASY_RISK.SCORE)
  else none

/-- A byte 1 or 0. -/
def b2n8 (b : Bool) : Byte := if b then 1 else 0

/-- The management's access to the hub region (R263): mailbox and security engine interface read and written, always-on SRAM and boot ROM
read. A read's bytes go into the reply. -/
def State.mctpHub (s : State) (o n : Nat) (data : Option (List Byte)) : State :=
  let say (s : State) (bs : List Byte) : State := { s with chip := s.chip.emit (.mctp bs) }
  if hubPart o ≠ .hub o ∨ hubPart (o + (n - 1)) ≠ .hub (o + (n - 1)) ∨ n = 0 ∨ !s.chip.answers 0 then say s [1]
  else match data with
    | none =>
      let t := s.hubRead .sideband o n
      (match t.chip.out.head? with
      | some (.bytes _ bs) => say s (0 :: bs)
      | _ => say s [1])
    | some d =>
      if 0x1000000 ≤ o ∧ o < 0x4000000 then say s [1]
      else
        let t := s.hubWrite .sideband o d
        say t [b2n8 (t.chip.out.head? == some (.dropped .sideband) && t.chip.out.length > s.chip.out.length)]

/-- MCTP_MESSAGE (R433). A reply begins with 0, or with 1 where it reports an error, a mode change outside its point of change among
them (R4). -/
def mctpMessage (m : Mctp) (s : State) : State :=
  let c := s.chip
  let say (c : Chip) (bs : List Byte) : Chip := c.emit (.mctp bs)
  if !c.pwr.vsb then s
  else match m with
    | .control code => { s with chip := say c [0, BitVec.ofNat 8 code] }
    | .sensor id => { s with chip := match c.sensor id with
        | some v => if c.pwr.on then say c (0 :: leBytes 8 v) else say c [1]
        | none => say c [1] }
    | .command op req => s.give .sideband op req
    | .regRead off =>
      if off % 8 ≠ 0 ∨ off ≥ 0x4000000 ∨ !c.answers off ∨ c.emptySlot off then { s with chip := say c [1] }
      else
        let (v, s) := s.regRead off
        { s with chip := say s.chip (0 :: leBytes 8 v) }
    | .regWrite off v =>
      if off % 8 ≠ 0 ∨ off ≥ 0x4000000 ∨ !c.answers off ∨ c.emptySlot off then { s with chip := say c [1] }
      else
        let t := s.regWrite .sideband off (v % 2 ^ 64)
        { t with chip := say t.chip [b2n8 (t.chip.out.head? == some (.dropped .sideband) && t.chip.out.length > c.out.length)] }
    | .hubRead o n => s.mctpHub o n none
    | .hubWrite o d => s.mctpHub o d.length (some d)
    | .recordRead a n =>
      if !c.pwr.on ∨ n = 0 ∨ !c.isHbm a ∨ !c.inQuench a ∨ !c.inQuench (a + (n - 1)) ∨ c.poisoned a n then { s with chip := say c [1] }
      else { s with chip := say c (0 :: c.mem.reads a n) }

/-! ### Test access port (R452) -/

/-- TEST_ACCESS_PORT_OPERATION (R452) where the spec gives its effect: what is shifted out, nothing else. -/
def tapShift (op : TapOp) (c : Chip) : Chip :=
  match op with
  | .bypass bits => c.emit (.tap bits)
  | .idcode => c.emit (.tap Config.idcode)
  | .boundary _ =>
    let (v, c) := c.fresh
    c.emit (.tap v)
  | .fullScan => c

end Sys2Proof.Machine
end

