-- ==== Sys2Proof/Machine/Tick.lean ====
section
/-! DEFINITION. One slow tick, which is what a step does when no command waits (log entry 6): HUB_TICKS (13 R393), the
watchdogs (12 R366), the step and slack ticks (13 R408), the ages of batches (02 R65) and of snapshots (15 R461). -/
namespace Sys2Proof.Machine

/-- Type of the packet at a queue's head: its oldest started packet that has not retired, else the next to start. -/
def Chip.headType (c : Chip) (b q : Nat) : Option Nat :=
  match (c.qu b q).win with
  | s :: _ => some (bits s.pkt 0 8)
  | [] => (c.ringPkt b q (c.get (BSN_Q_STS.HEAD b q))).map (fun p => bits p 0 8)

/-- A BARRIER or AGREE packet at a queue's head. -/
def Chip.atBarrier (c : Chip) (b q : Nat) : Bool := c.headType b q == some 9 || c.headType b q == some 10

/-- Whether a queue is busy (R366). -/
def Chip.qBusy (c : Chip) (b q : Nat) : Bool :=
  let st := c.get (BSN_Q_STS.STATE b q)
  !(c.get (BSN_Q_STS.RETIRED b q) == c.get (BSN_Q_STS.TAIL b q))
    && (st == 1 || st == 5 || (st == 2 && !c.atBarrier b q))

/-- One slow tick of a basin's watchdog (R366). -/
def Chip.wdogTick (c : Chip) (b : Nat) : Chip :=
  let s := c.bs b
  let c1 := if s.frozen ∨ s.progress ∨ !(List.range 64).any (fun q => c.qBusy b q) then c else c.incSat (BSN_WDOG.COUNT b) 1
  c1.setBs b { s with progress := false }

/-- A main-class queue waits at a BARRIER or AGREE packet or on a WAIT (R408). -/
def Chip.slackWait (c : Chip) (b q : Nat) : Bool :=
  !qClassSide c b q && c.get (BSN_Q_STS.STATE b q) == 2
    && (c.atBarrier b q || (match c.ringPkt b q (c.get (BSN_Q_STS.HEAD b q)) with
      | some p => bit p 9 && !decide (bits p 384 64 ≤ c.latch b (bits p 16 13))
      | none => false))

/-- One slow tick of a basin's step and slack counts (R408). -/
def Chip.slackTick (c : Chip) (b : Nat) : Chip :=
  let s := c.bs b
  let slack := !c.kerns.any (fun k => k.basin == b && !k.side) && (List.range 64).any (fun q => c.slackWait b q)
  c.setBs b { s with tickN := s.tickN + 1, slackN := s.slackN + b2n slack }

/-- Core cycles of basin `b` in a slow tick: 500 ns at 1.6 GHz + 25 MHz × FREQ of the die in slot 0 (R8, R397, log entry 138); an odd
step has its half cycle in every second tick. -/
def Chip.tickCycles (c : Chip) (b : Nat) : Nat :=
  800 + (25 * c.get (PWR_DIE_STS.FREQ (c.slotDie b 0)) + c.get HUB_TICKS.TICKS % 2) / 2

/-- One slow tick of a batching queue's batches, in core cycles (R8, R65). -/
def Chip.ageTick (c : Chip) (b x : Nat) : Chip :=
  let u := c.bq b x
  let n := c.tickCycles b
  if u.batches = [] then c
  else (c.setBq b x { u with batches := u.batches.map (fun t => if t.inFlight then t else { t with age := t.age + n }) }).batchAge b x

/-- One slow tick of the snapshots that are held (R461). -/
def Chip.snapTick (c : Chip) : Chip :=
  c.images.foldl (fun c e => c.incSat ⟨snapReg e.1, 16, 32⟩ 1) c

/-- One slow tick of the part. -/
def Chip.slowTick (c : Chip) : Chip :=
  if !c.pwr.vsb then c
  else
    let c := c.inc HUB_TICKS.TICKS
    if !c.pwr.on then c
    else
      let c := (List.range 6).foldl (fun c b => (c.wdogTick b).slackTick b) c
      let c := (List.range 6).foldl (fun c b => (List.range 8).foldl (fun c x => c.ageTick b x) c) c
      let c := (List.range 104).foldl (fun c kc =>
        let st := CLS_ARRAY_STS.STATE (kc / 4) (kc % 4)
        if c.get st = 2 then c.put st 3 else c) c
      let c := (List.range 12).foldl (fun c k => c.rebuildTick k) c
      c.snapTick

end Sys2Proof.Machine
end

