-- ==== Sys2Proof/Machine/Gate.lean ====
section
/-! DEFINITION. How a command acts on the state: an event of the part that runs, a register write or read by an agent, and the
operations of the test access port. -/
namespace Sys2Proof.Machine

/-- The chip after a function of it; the queue and the security unit stay. -/
def onChip (f : Chip → Chip) (s : State) : Host.Outcome State Fault Refusal := .next { s with chip := f s.chip }

/-- An event of the part that runs; without primary power nothing happens (log entry 7). -/
def live (f : Chip → Chip) (s : State) : Host.Outcome State Fault Refusal :=
  .next (if s.chip.pwr.on then { s with chip := f s.chip } else s)

/-- An agent that exists: VFs 0-63 and programs of basins 0-5. -/
def Agent.known : Agent → Bool
  | .vf n => decide (n < 64)
  | .prog b _ => decide (b < 6)
  | _ => true

/-- Whether an access by an agent to the register at a window offset gets through (R421, R433, R434, R440). -/
def Chip.hears (c : Chip) (ag : Agent) (off : Nat) : Bool :=
  ag.known && (match ag with
    | .prog _ _ | .hub => c.pwr.on
    | _ => c.answers off)

/-- A register write by an agent; one that does not get through changes nothing. -/
def byReg (ag : Agent) (off : Nat) (f : Chip → Chip) (s : State) : Host.Outcome State Fault Refusal :=
  .next (if s.chip.hears ag off then { s with chip := f s.chip } else s)

/-- A register read by an agent; one that does not get through is answered with Unsupported Request (R421). -/
def byRead (ag : Agent) (off : Nat) (f : Chip → Chip) (s : State) : Host.Outcome State Fault Refusal :=
  .next (if s.chip.hears ag off ∧ s.chip.mayRead ag off then { s with chip := f s.chip } else { s with chip := s.chip.emit (.ur ag) })

/-- Whether the policy in force lets basin `b`'s tenant share power (R402). -/
def State.maySharePower (s : State) (b : Nat) : Bool :=
  match s.sec.combo with
  | some k => Config.policyMode k.policy (6 + b) == 1
  | none => false

/-- An operation of the test access port (R452). Full scan is closed below level Vendor; at that level the spec does not say what
it does, and it is refused by name. -/
def tapAccess (op : TapOp) (s : State) : Host.Outcome State Fault Refusal :=
  match op with
  | .fullScan => if s.sec.level = 2 then .refused .fullScan else .next s
  | _ => .next { s with chip := tapShift op s.chip }

end Sys2Proof.Machine
end

