-- ==== Sys2Proof/Machine/ExecArray.lean ====
section
/-! DEFINITION. The commands' meanings: the matrix arrays. -/
namespace Sys2Proof.Machine

/-- TILE_LOAD_START (R225). An MLOAD starts when the shadow registers are free, and runs a staged column start if the array
has been idle. -/
def execTileLoadStart (e : ArrayEvent) (staged : Bool) (s : State) : Host.Outcome State Fault Refusal :=
  live (tileLoadStart e.kc staged e.confl) s

/-- TILE_LOAD_COMPLETE (R42). A weight tile is completely loaded into the shadow registers. -/
def execTileLoadComplete (kc : Fin 104) (s : State) : Host.Outcome State Fault Refusal :=
  live (tileLoadComplete kc) s

/-- STAGED_START_END (R48). All eight column groups are enabled, 64 cycles after a staged start began. -/
def execStagedStartEnd (kc : Fin 104) (s : State) : Host.Outcome State Fault Refusal :=
  live (stagedStartEnd kc) s

/-- PASS_START (R44). A queued MPASS starts under its spacing, swapping in its tile with its first row. -/
def execPassStart (e : ArrayEvent) (waited : Nat) (s : State) : Host.Outcome State Fault Refusal :=
  live (passStart e.kc waited e.confl) s

/-- PASS_SUMS_COMPLETE (R43). The sums of a pass's rows reach the accumulators, checked by the residue check. -/
def execPassSumsComplete (kc : Fin 104) (bad : Option Nat) (s : State) : Host.Outcome State Fault Refusal :=
  live (passSumsComplete kc bad) s

/-- ARRAY_LINE_TEST_DONE (R55). The line test ends, and either a spare line is mapped in and the basin resumes, or the fault
becomes a forge die loss. -/
def execArrayLineTestDone (kc : Fin 104) (found : Option (Bool × Nat)) (s : State) : Host.Outcome State Fault Refusal :=
  live (arrayLineTestDone kc found) s

/-- PLANNED_LINE_MAPPING (R56). A spare line predicted to be needed is mapped in at a kernel boundary of the cluster, with its
array idle. -/
def execPlannedLineMapping (kc : Fin 104) (col : Bool) (line : Nat) (s : State) : Host.Outcome State Fault Refusal :=
  live (plannedLineMapping kc col line) s

/-- DRAIN_START (R225). An MDRAIN starts once the last pass into its set has entered, and the set becomes Draining. -/
def execDrainStart (e : ArrayEvent) (s : State) : Host.Outcome State Fault Refusal :=
  live (drainStart e.kc e.confl) s

/-- DRAIN_COMPLETE (R226). The last row of a drained set is written, the tag record is folded, and the set becomes Empty. -/
def execDrainComplete (kc : Fin 104) (s : State) : Host.Outcome State Fault Refusal :=
  live (drainComplete kc) s

end Sys2Proof.Machine
end

