-- ==== Sys2Proof/Machine/ExecClocks.lean ====
section
/-! DEFINITION. The commands' meanings: clocks, power and temperature. -/
namespace Sys2Proof.Machine

/-- CLUSTER_IDLE (R394). A cluster has been idle for IDLE cycles and gates its clocks or stops its PLL. -/
def execClusterIdle (kc : Fin 104) (s : State) : Host.Outcome State Fault Refusal :=
  live (clusterIdle kc) s

/-- CLUSTER_WAKE (R396). A launch or batch release needs a stopped cluster, and its PLL is started. -/
def execClusterWake (kc : Fin 104) (q : Fin 64) (s : State) : Host.Outcome State Fault Refusal :=
  live (clusterWake kc q) s

/-- WAKE (R396). A write of BSN_WAKE.WAKE starts every stopped PLL of the basin. -/
def execWake (ag : Agent) (b : Fin 6) (s : State) : Host.Outcome State Fault Refusal :=
  byReg ag 0x20000 (wakeWrite ag b) s

/-- PLL_LOCKED (R391). A started PLL locks, and the cluster can issue. -/
def execPllLocked (kc : Fin 104) (s : State) : Host.Outcome State Fault Refusal :=
  live (pllLocked kc) s

/-- BOOST_STEP (R397). A Boost-mode die raises its frequency step when every condition holds, or lowers it under a limit. -/
def execBoostStep (n : Fin 26) (less : Bool) (s : State) : Host.Outcome State Fault Refusal :=
  live (boostStep n less) s

/-- GOVERNOR_UPDATE (R399). Every 100 µs the power and thermal terms update each die's issue level. -/
def execGovernorUpdate (terms : List (Nat × Nat)) (energy : List Nat) (hbm : List Bool) (avg : Nat) (last : Nat) (s : State) :
    Host.Outcome State Fault Refusal :=
  live (governorUpdate terms energy hbm avg last) s

/-- THERMAL_SAMPLE (R405). A sensor sample updates the slopes and may engage or release the slope clamp. -/
def execThermalSample (n : Fin 44) (rs : List (Nat × Int)) (s : State) : Host.Outcome State Fault Refusal :=
  .next { s with chip := if s.chip.pwr.on then thermalSample n rs s.chip else thermalLate n rs s.chip }

/-- DROOP_EVENT (R403). A droop detector sees the supply below the threshold, and the die's level drops to 1. -/
def execDroopEvent (n : Fin 26) (s : State) : Host.Outcome State Fault Refusal :=
  live (droopEvent n) s

/-- DROOP_RECOVER (R403). 64 cycles after the supply recovers, the droop hold restores the level in steps. -/
def execDroopRecover (n : Fin 26) (s : State) : Host.Outcome State Fault Refusal :=
  live (droopRecover n) s

/-- GRANT_REDISTRIBUTE (R402). Every 100 ms Lansel gives unused basin power to constrained basins. -/
def execGrantRedistribute (gs : List Nat) (shared : Nat) (s : State) : Host.Outcome State Fault Refusal :=
  live (grantRedistribute s.maySharePower gs shared) s

/-- PEAK_READ (R410). A read of PWR_STS returns PEAK_W and clears it. -/
def execPeakRead (ag : Agent) (s : State) : Host.Outcome State Fault Refusal :=
  byRead ag PWR_STS.key (peakRead ag) s

/-- SLACK_READ (R412). A read of PWR_SLACK returns the least slack and clears it. -/
def execSlackRead (ag : Agent) (s : State) : Host.Outcome State Fault Refusal :=
  byRead ag PWR_SLACK.key (slackRead ag) s

end Sys2Proof.Machine
end

