-- ==== Sys2Proof/Machine/ExecCounters.lean ====
section
/-! DEFINITION. The commands' meanings: counters and snapshots. -/
namespace Sys2Proof.Machine

/-- NF_SUM_READ (R467). A read of ASY_NF_SUM returns the basin's summary and clears it. -/
def execNfSumRead (ag : Agent) (b : Fin 6) (s : State) : Host.Outcome State Fault Refusal :=
  byRead ag (ASY_NF_SUM b).key (nfSumRead ag b) s

/-- EVENT_COUNTER_WRITE (R458). A write to an event counter sets SAT, and a write of SAT = 0 also clears COUNT. -/
def execEventCounterWrite (ag : Agent) (off : Nat) (sat : Bool) (s : State) : Host.Outcome State Fault Refusal :=
  byReg ag off (eventCounterWrite ag off sat) s

/-- VOLUME_CLEAR (R459). A write of CLEAR sets a volume counter's COUNT and EPOCH to zero. -/
def execVolumeClear (ag : Agent) (off : Nat) (s : State) : Host.Outcome State Fault Refusal :=
  byReg ag off (volumeClear ag off) s

/-- SNAP_TAKE (R461). Copies every counter of the block into an image and sets HELD. -/
def execSnapTake (ag : Agent) (off : Nat) (s : State) : Host.Outcome State Fault Refusal :=
  byReg ag off (snapTake ag off) s

/-- SNAP_RELEASE (R461). Returns the block's counter reads to the live counters. -/
def execSnapRelease (ag : Agent) (off : Nat) (s : State) : Host.Outcome State Fault Refusal :=
  byReg ag off (snapRelease ag off) s

/-- SNAP_ALL_TAKE (R462). Takes a snapshot of every block of the package in the same cycle. -/
def execSnapAllTake (ag : Agent) (s : State) : Host.Outcome State Fault Refusal :=
  byReg ag 0x20000 (snapAllTake ag) s

/-- SNAP_ALL_RELEASE (R462). Releases the snapshots of every block of the package. -/
def execSnapAllRelease (ag : Agent) (s : State) : Host.Outcome State Fault Refusal :=
  byReg ag 0x20000 (snapAllRelease ag) s

end Sys2Proof.Machine
end

