-- ==== Sys2Proof/Machine/ExecEngines.lean ====
section
/-! DEFINITION. The commands' meanings: temper and ladle engines. -/
namespace Sys2Proof.Machine

/-- TEMPER_CMD_START (R111). The head temper command starts once its step is resolved, or completes Skipped or Refused. -/
def execTemperCmdStart (n : Fin 26) (s : State) : Host.Outcome State Fault Refusal :=
  live (temperCmdStart n) s

/-- TEMPER_CHUNK_POSTED (R143). A residue-checked chunk's writes are posted to the router-island buffer, and progress
advances. -/
def execTemperChunkPosted (n : Fin 26) (s : State) : Host.Outcome State Fault Refusal :=
  live (temperChunkPosted n) s

/-- TEMPER_CMD_COMPLETE (R136). A temper command writes its completion record and signals its latch. -/
def execTemperCmdComplete (n : Fin 26) (s : State) : Host.Outcome State Fault Refusal :=
  live (temperCmdComplete n) s

/-- TEMPER_FAULT (R143). A residue mismatch or lane fault fails a temper unit, and the next slot's unit takes over its FIFO.
-/
def execTemperFault (n : Fin 26) (s : State) : Host.Outcome State Fault Refusal :=
  live (temperFault n) s

/-- LADLE_CMD_START (R150). A ladle command starts gathering or scatter-adding, an updating scatter-add only after its step is
resolved. -/
def execLadleCmdStart (n : Fin 26) (upd : Bool) (s : State) : Host.Outcome State Fault Refusal :=
  live (ladleCmdStart n upd) s

/-- LADLE_ROW_TIMEOUT (R153). A remote row's GET has not returned within TIMEOUT and counts as a failed remote row. -/
def execLadleRowTimeout (op : Nat) (s : State) : Host.Outcome State Fault Refusal :=
  live (ladleRowTimeout op) s

/-- LADLE_CMD_COMPLETE (R136). A ladle command writes its completion record and signals its latch. -/
def execLadleCmdComplete (n : Fin 26) (upd : Bool) (s : State) : Host.Outcome State Fault Refusal :=
  live (ladleCmdComplete n upd) s

end Sys2Proof.Machine
end

