-- ==== Sys2Proof/Machine/ExecFabric.lean ====
section
/-! DEFINITION. The commands' meanings: packets of the fabric. -/
namespace Sys2Proof.Machine

/-- LINK_PACKET_START (R314). A link transmitter starts the next packet by runnel priority once it holds enough credits. -/
def execLinkPacketStart (p : Fin 8) (uOver : Bool) (s : State) : Host.Outcome State Fault Refusal :=
  live (linkPacketStart p uOver) s

/-- ROUTER_FORWARD (R321). A package forwards a transit packet by dimension order, detours, holes and relocations. -/
def execRouterForward (w : BitVec 256) (payload : List Byte) (via : Option (Fin 8)) (rev : Bool) (hop : HopIn)
    (s : State) : Host.Outcome State Fault Refusal :=
  live (routerForward w.toNat payload (via.map Fin.val) rev hop.turned hop.bad) s

/-- PUT_PACKET (R325). A PUT at its destination is checked, performed in flow order, and acknowledged. -/
def execPutPacket (w : BitVec 256) (payload : List Byte) (via : Option (Fin 8)) (s : State) : Host.Outcome State Fault Refusal
    :=
  live (fun c => c.arrive w.toNat payload (via.map Fin.val) (putPacket w.toNat payload (via.map Fin.val))) s

/-- GET_PACKET (R328). A GET at its destination is performed, or held while ORD is 1, and answered by GET-RESP. -/
def execGetPacket (w : BitVec 256) (via : Option (Fin 8)) (s : State) : Host.Outcome State Fault Refusal :=
  live (fun c => c.arrive w.toNat [] (via.map Fin.val) (getPacket w.toNat (via.map Fin.val))) s

/-- GET_ORD_RELEASE (R328). EXP passes the awaited number, and a held GET is performed. -/
def execGetOrdRelease (nth : Nat) (s : State) : Host.Outcome State Fault Refusal :=
  live (getOrdRelease nth) s

/-- GET_RESP_PACKET (R310). The requester writes the response data for its XID, or records a refusal. -/
def execGetRespPacket (w : BitVec 256) (payload : List Byte) (via : Option (Fin 8)) (s : State) : Host.Outcome State Fault
    Refusal :=
  live (fun c => c.arrive w.toNat payload (via.map Fin.val) (getRespPacket w.toNat payload (via.map Fin.val))) s

/-- AADD_I_PACKET (R310). A remote integer add is performed in flow order and acknowledged. -/
def execAaddIPacket (w : BitVec 256) (payload : List Byte) (via : Option (Fin 8)) (s : State) : Host.Outcome State Fault
    Refusal :=
  live (fun c => c.arrive w.toNat payload (via.map Fin.val) (aaddIPacket w.toNat payload (via.map Fin.val))) s

/-- AADD_F_PACKET (R310). A remote FP32 add is performed in flow order and acknowledged. -/
def execAaddFPacket (w : BitVec 256) (payload : List Byte) (via : Option (Fin 8)) (s : State) : Host.Outcome State Fault
    Refusal :=
  live (fun c => c.arrive w.toNat payload (via.map Fin.val) (aaddFPacket w.toNat payload (via.map Fin.val))) s

/-- REDUCE_PUT_PACKET (R313). A REDUCE-PUT is performed by the near-memory reduce unit and acknowledged. -/
def execReducePutPacket (w : BitVec 256) (payload : List Byte) (via : Option (Fin 8)) (s : State) : Host.Outcome State Fault
    Refusal :=
  live (fun c => c.arrive w.toNat payload (via.map Fin.val) (reducePutPacket w.toNat payload (via.map Fin.val))) s

/-- MCAST_PUT_PACKET (R312). A MCAST-PUT is delivered at each member along its axis and acknowledged by each. -/
def execMcastPutPacket (w : BitVec 256) (payload : List Byte) (via : Option (Fin 8)) (s : State) : Host.Outcome State Fault
    Refusal :=
  live (fun c => c.arrive w.toNat payload (via.map Fin.val) (mcastPutPacket w.toNat payload (via.map Fin.val))) s

/-- ACK_PACKET (R326). A cumulative ACK frees the flow's sequence numbers and completes the operations it covers. -/
def execAckPacket (w : BitVec 256) (via : Option (Fin 8)) (s : State) : Host.Outcome State Fault Refusal :=
  live (fun c => c.arrive w.toNat [] (via.map Fin.val) (ackPacket w.toNat (via.map Fin.val))) s

/-- ACK_TIMEOUT (R327). A source timer expires, and the flow resends its unacknowledged packets and reissues its GETs. -/
def execAckTimeout (b : Fin 6) (coord : BitVec 18) (dbasin : Fin 8) (run : Fin 4) (s : State) : Host.Outcome State Fault
    Refusal :=
  live (ackTimeout b coord.toNat dbasin run) s

/-- DETOUR_SET (R330). Lansel sets DETOUR for a lost direction, and the held packets are released the other way around. -/
def execDetourSet (d : Fin 6) (s : State) : Host.Outcome State Fault Refusal :=
  live (detourSet d) s

/-- HOLE_WRITE (R352). A write of FAB_HOLE lists or clears a hole, or is ignored if it breaks R347. -/
def execHoleWrite (ag : Agent) (j : Fin 4) (v : Word) (s : State) : Host.Outcome State Fault Refusal :=
  byReg ag 0x20000 (holeWrite ag j v.toNat) s

/-- RELOC_WRITE (R350). A write of FAB_RELOC brings a relocation into force and abandons the flows to FROM. -/
def execRelocWrite (ag : Agent) (j : Fin 8) (v : Word) (s : State) : Host.Outcome State Fault Refusal :=
  byReg ag 0x20000 (relocWrite ag j v.toNat) s

end Sys2Proof.Machine
end

