-- ==== Sys2Proof/Machine/ExecHost.lean ====
section
/-! DEFINITION. The commands' meanings: the host interface and the sideband. -/
namespace Sys2Proof.Machine

/-- PF_FLR (R431). A physical function level reset performs an endpoint reset with the link kept up. -/
def execPfFlr (s : State) : Host.Outcome State Fault Refusal :=
  live pfFlr s

/-- VF_FLR (R431). A VF reset stops the VF's queues and channels and disables its routes, and quenches its basin if the VF is
the admin VF. -/
def execVfFlr (n : Fin 64) (s : State) : Host.Outcome State Fault Refusal :=
  live (vfFlr n) s

/-- PCIE_LINK_UP (R420). The PCIe link trains to a rate and width, and HUB_PCIE_STS is updated. -/
def execPcieLinkUp (rate : Fin 8) (width : Fin 9) (flit : Bool) (s : State) : Host.Outcome State Fault Refusal :=
  live (pcieLinkUp rate width flit) s

/-- PCIE_LINK_DOWN (R420). The PCIe link goes down and DOWN_EV is set. -/
def execPcieLinkDown (s : State) : Host.Outcome State Fault Refusal :=
  live pcieLinkDown s

/-- HOST_BAR_ACCESS (R421). A host read or write through a PF or VF BAR is served, or is refused with Unsupported Request or
dropped. -/
def execHostBarAccess (ag : Agent) (bar : Nat) (off : Nat) (len : Nat) (data : Option (List Byte)) (s : State) : Host.Outcome
    State Fault Refusal :=
  .next (hostBarAccess ag bar off len data s)

/-- REGISTER_WRITE (R11). A write to a register with no row of its own updates its fields under the access codes and the write
conditions of that register. -/
def execRegisterWrite (ag : Agent) (off : Nat) (v : Word) (s : State) : Host.Outcome State Fault Refusal :=
  .next (registerWrite ag off v.toNat s)

/-- DOORBELL (R162). A doorbell write publishes packets up to the new TAIL, or is rejected or ignored with ERRCODE 1 or 2. -/
def execDoorbell (ag : Agent) (b : Fin 6) (q : Fin 64) (tail : BitVec 16) (s : State) : Host.Outcome State Fault Refusal :=
  live (doorbell ag b q tail.toNat) s

/-- COPY_DOORBELL (R425). A copy-channel doorbell publishes copy descriptors under the doorbell rules. -/
def execCopyDoorbell (ag : Agent) (ch : Fin 16) (tail : BitVec 16) (s : State) : Host.Outcome State Fault Refusal :=
  live (copyDoorbell ag ch tail.toNat) s

/-- COPY_DESCRIPTOR_START (R425). A host copy channel starts its next descriptor in ring order. -/
def execCopyDescriptorStart (ch : Fin 16) (pages : List (Nat × Option Nat)) (s : State) : Host.Outcome State Fault Refusal :=
  live (copyDescriptorStart ch pages) s

/-- COPY_DESCRIPTOR_COMPLETE (R426). A copy descriptor ends by writing STATUS and DONE and signalling its latch, or the
channel halts on an error. -/
def execCopyDescriptorComplete (ch : Fin 16) (data : List Byte) (bad : Bool) (s : State) : Host.Outcome State Fault Refusal :=
  live (copyDescriptorComplete ch data bad) s

/-- COPY_RESUME (R427). A write of RESUME continues a halted copy channel at its next descriptor. -/
def execCopyResume (ag : Agent) (ch : Fin 16) (s : State) : Host.Outcome State Fault Refusal :=
  byReg ag 0 (copyResume ag ch) s

/-- VF_BIND (R423). A write of HUB_VF_BIND or HUB_VF_QMASK binds a VF to a basin and queues, or is refused with REFUSED set.
-/
def execVfBind (ag : Agent) (n : Fin 64) (isMask : Bool) (v : Word) (s : State) : Host.Outcome State Fault Refusal :=
  byReg ag 0 (vfBind ag n isMask v.toNat) s

/-- NOTIFY_ARM (R430). A write of HUB_NOTIFY arms a latch notification. -/
def execNotifyArm (ag : Agent) (j : Fin 256) (v : Word) (s : State) : Host.Outcome State Fault Refusal :=
  byReg ag 0 (notifyArm ag j v.toNat) s

/-- MCTP_MESSAGE (R433). A sideband MCTP message over I3C is served: control, PLDM sensors, mailbox commands or register
access. -/
def execMctpMessage (m : Mctp) (s : State) : Host.Outcome State Fault Refusal :=
  .next (mctpMessage m s)

/-- CONFIGURATION_SPACE_WRITE (R422). A host PCIe configuration write changes BAR4 size, VF Enable, Memory Space Enable or Bus
Master Enable. -/
def execConfigurationSpaceWrite (w : CfgWr) (s : State) : Host.Outcome State Fault Refusal :=
  live (configurationSpaceWrite w) s

/-- ATS_INVALIDATE_REQUEST (R418). An ATS invalidation request from the host enters the 32-deep invalidate queue, drops
translations from the ATC and is completed. -/
def execAtsInvalidateRequest (func : Fin 65) (pasid : Option Nat) (page : Nat) (count : Nat) (s : State) : Host.Outcome State
    Fault Refusal :=
  live (atsInvalidateRequest func pasid page count) s

end Sys2Proof.Machine
end

