-- ==== Sys2Proof/Machine/ExecMailbox.lean ====
section
/-! DEFINITION. The commands' meanings: the mailbox commands and debug access. -/
namespace Sys2Proof.Machine

/-- STATUS (R455). Mailbox command that returns the part's status. -/
def execStatusCmd (ag : Agent) (s : State) : Host.Outcome State Fault Refusal :=
  .next (mbxStatus ag s)

/-- LOG_READ (R455). Mailbox command that returns a range of the boot and fault log. -/
def execLogRead (ag : Agent) (off : Nat) (len : Nat) (s : State) : Host.Outcome State Fault Refusal :=
  .next (logRead ag off len s)

/-- CERTS (R455). Mailbox command that returns the certificate chain. -/
def execCerts (ag : Agent) (s : State) : Host.Outcome State Fault Refusal :=
  .next (certs ag s)

/-- HALLMARK (R451). Command that produces a signed hallmark over a nonce within 5 ms, refused at debug level Vendor or with
no matching hub key. -/
def execHallmark (ag : Agent) (nonce : List Byte) (s : State) : Host.Outcome State Fault Refusal :=
  .next (hallmark ag nonce s)

/-- IMAGE_STAGE (R442). Writes an image chunk into the inactive slot of its kind, and the first chunk zeroes that slot's
commit record. -/
def execImageStage (ag : Agent) (kind : Nat) (off : Nat) (data : List Byte) (s : State) : Host.Outcome State Fault Refusal :=
  .next (imageStage ag kind off data s)

/-- IMAGE_COMMIT (R442). Verifies a staged image and writes its commit record, extends M6 and reports whether the combination
is tested. -/
def execImageCommit (ag : Agent) (kind : Nat) (s : State) : Host.Outcome State Fault Refusal :=
  .next (imageCommit ag kind s)

/-- LIVE_UPDATE (R442). The standby hub loads the new Lansel and the part hands over as with SWITCH. -/
def execLiveUpdate (ag : Agent) (starts : Bool) (s : State) : Host.Outcome State Fault Refusal :=
  .next (liveUpdate ag starts s)

/-- CFG_STAGE (R455). Writes a chunk of a policy part into the staging area. -/
def execCfgStage (ag : Agent) (off : Nat) (data : List Byte) (s : State) : Host.Outcome State Fault Refusal :=
  .next (cfgStage ag off data s)

/-- CFG_COMMIT (R445). Checks and commits a staged policy part through the history ring, with fields applied at their points
of change. -/
def execCfgCommit (ag : Agent) (s : State) : Host.Outcome State Fault Refusal :=
  .next (cfgCommit ag s)

/-- CFG_REVERT (R445). Makes the previous configuration set active by rewriting its commit record. -/
def execCfgRevert (ag : Agent) (s : State) : Host.Outcome State Fault Refusal :=
  .next (cfgRevert ag s)

/-- CFG_RESTORE (R445). Copies history entry k into the inactive slot and commits it. -/
def execCfgRestore (ag : Agent) (k : Nat) (s : State) : Host.Outcome State Fault Refusal :=
  .next (cfgRestore ag k s)

/-- OWNER_SET (R444). Installs a new owner record, the first one through the sideband only and later ones signed by the
present owner key. -/
def execOwnerSet (ag : Agent) (record : List Byte) (s : State) : Host.Outcome State Fault Refusal :=
  .next (ownerSet ag record s)

/-- RESET (R431). Mailbox or sideband command that causes a package reset. -/
def execResetCmd (ag : Agent) (s : State) : Host.Outcome State Fault Refusal :=
  .next (mbxReset ag s)

/-- DEBUG_CHALLENGE (R452). Returns a one-use 32-byte debug challenge. -/
def execDebugChallenge (ag : Agent) (s : State) : Host.Outcome State Fault Refusal :=
  .next (debugChallenge ag s)

/-- DEBUG_UNLOCK (R452). Verifies an unlock token and raises the debug level, extending M5 and clearing the key store at level
Vendor. -/
def execDebugUnlock (ag : Agent) (level : Nat) (token : List Byte) (s : State) : Host.Outcome State Fault Refusal :=
  .next (debugUnlock ag level token s)

/-- DEBUG_LOCK (R452). Returns debug access to Locked at once. -/
def execDebugLock (ag : Agent) (s : State) : Host.Outcome State Fault Refusal :=
  .next (debugLock ag s)

/-- DEBUG_ACCESS (R452). Performs a level-1 debug operation such as reading cisterns or stepping sequencers. -/
def execDebugAccess (ag : Agent) (d : DbgOp) (s : State) : Host.Outcome State Fault Refusal :=
  .next (debugAccess ag d s)

/-- KNOWN_GOOD_TIMER (R441). After GOOD_S seconds Ready with no failover or Lansel fault, the running combination is added to
the known-good list. -/
def execKnownGoodTimer (s : State) : Host.Outcome State Fault Refusal :=
  .next (knownGoodTimer s)

/-- PART_RECORD_COMMIT (R445). The hub commits the part record within 1 s of a recorded change, or once a running CFG_ command
ends. -/
def execPartRecordCommit (s : State) : Host.Outcome State Fault Refusal :=
  .next (partRecordCommit s)

/-- MAILBOX_COMMAND_DONE (R454). A running mailbox command ends, clearing BUSY, setting DONE, RESULT, TAG and RLEN, and
raising event 15. -/
def execMailboxCommandDone (ag : Agent) (s : State) : Host.Outcome State Fault Refusal :=
  .next (mailboxCommandDone ag s)

/-- TEST_ACCESS_PORT_OPERATION (R452). An operation on the test access port pins is served as BYPASS, IDCODE or boundary scan,
or as full scan at debug level Vendor. -/
def execTestAccessPort (op : TapOp) (s : State) : Host.Outcome State Fault Refusal :=
  tapAccess op s

end Sys2Proof.Machine
end

