-- ==== Sys2Proof/Machine/ExecMemory.lean ====
section
/-! DEFINITION. The commands' meanings: HBM and cisterns. -/
namespace Sys2Proof.Machine

/-- HBM_READ_REQUEST (R248). A stack controller serves a read, correcting, reconstructing or reporting poison. -/
def execHbmReadRequest (a : Nat) (n : Nat) (syms : Nat) (mates : RowMates) (ns : Nat) (who : Reader) (s : State) :
    Host.Outcome State Fault Refusal :=
  live (hbmReadRequest a n syms mates.others mates.par ns who) s

/-- HBM_WRITE_REQUEST (R245). A stack controller serves a write, keeping parity current and performing a read-modify-write for
partial granules. -/
def execHbmWriteRequest (a : Nat) (data : List Byte) (syms : Nat) (mates : RowMates) (who : Reader) (s : State) :
    Host.Outcome State Fault Refusal :=
  live (hbmWriteRequest a data syms mates.others mates.par who) s

/-- BANK_REFRESH (R255). A bank is refreshed, postponed for a waiting urgent read by at most 8 intervals. -/
def execBankRefresh (k : Fin 12) (p : Fin 65) (bank : Fin 256) (waiting : Bool) (s : State) : Host.Outcome State Fault Refusal
    :=
  live (bankRefresh k p bank waiting) s

/-- SCRUB_READ (R258). The patrol scrub reads a granule at scrub priority and handles it as a demand read. -/
def execScrubRead (at' : ScrubRef) (syms : Nat) (mates : RowMates) (last : Bool) (s : State) :
    Host.Outcome State Fault Refusal :=
  live (scrubRead at'.k at'.place syms mates.others mates.par last) s

/-- PSEUDO_CHANNEL_LOSS (R249). A pseudo-channel or channel is declared lost, requests to the stack are held, and reads are
reconstructed, or the stack becomes Failed. -/
def execPseudoChannelLoss (k : Fin 12) (p : Fin 65) (channel : Bool) (s : State) : Host.Outcome State Fault Refusal :=
  live (pseudoChannelLoss k p channel) s

/-- REQUEST_HOLD_RELEASE (R249). After a loss, the held requests to the stack are released and the stack enters Rebuilding. -/
def execRequestHoldRelease (k : Fin 12) (s : State) : Host.Outcome State Fault Refusal :=
  live (requestHoldRelease k) s

/-- REBUILD_COMPLETE (R250). A rebuild finishes its last row, the spare stands for the pseudo-channel, and EXPOSED clears. -/
def execRebuildComplete (k : Fin 12) (s : State) : Host.Outcome State Fault Refusal :=
  live (rebuildComplete k) s

/-- HBM_SPARE_COPY (R252). A write of HBM_SPARE_CMD.GO starts a planned copy of a pseudo-channel into the spare, or is
refused. -/
def execHbmSpareCopy (ag : Agent) (k : Fin 12) (p : Fin 64) (s : State) : Host.Outcome State Fault Refusal :=
  byReg ag 0x20000 (hbmSpareCopy ag k p) s

/-- PLANNED_COPY_COMPLETE (R252). A planned copy finishes and the map switches to the spare. -/
def execPlannedCopyComplete (k : Fin 12) (s : State) : Host.Outcome State Fault Refusal :=
  live (plannedCopyComplete k) s

/-- CISTERN_SCRUB (R262). The cistern background scrub visits a word, correcting a single-bit error or finding a double-bit
error. -/
def execCisternScrub (kc : Fin 104) (off : Nat) (errs : Nat) (s : State) : Host.Outcome State Fault Refusal :=
  live (cisternScrub kc off errs) s

/-- CISTERN_BANK_TEST_DONE (R262). The bank test ends, and either a spare row is mapped and the basin resumes, or the error
becomes a forge die loss. -/
def execCisternBankTestDone (kc : Fin 104) (bank : Fin 64) (row : Option Nat) (s : State) : Host.Outcome State Fault Refusal
    :=
  live (cisternBankTestDone kc bank row) s

/-- URGENT_MAX_READ (R268). A read of HBM_URGENT_MAX returns the longest urgent read and clears it. -/
def execUrgentMaxRead (ag : Agent) (k : Fin 12) (s : State) : Host.Outcome State Fault Refusal :=
  byRead ag (HBM_URGENT_MAX k).key (urgentMaxRead ag k) s

end Sys2Proof.Machine
end

