-- ==== Sys2Proof/Machine/ExecOptics.lean ====
section
/-! DEFINITION. The commands' meanings: ports, lasers, links and the sluice. -/
namespace Sys2Proof.Machine

/-- FRAME_TRANSMIT (R274). A port sends a frame on all lanes with its frame control word. -/
def execFrameTransmit (p : Fin 8) (s : State) : Host.Outcome State Fault Refusal :=
  live (frameTransmit p) s

/-- FRAME_RECEIVE (R276). A received frame is FEC-decoded, bad data units are marked, and credits, acknowledgements and replay
requests are acted on. -/
def execFrameReceive (p : Fin 8) (frame : BitVec 16) (ctl : BitVec 48) (link : BitVec 64) (ber crc : BitVec 16)
    (errs : List (Nat × Nat)) (unlocked : List Nat) (ends : List RxEnd)
    (tail : Option Nat) (s : State) : Host.Outcome State Fault Refusal :=
  live (frameReceive p (frameWord frame ctl link ber crc) errs unlocked ends tail) s

/-- REMAP (R294). The receiver handles a REMAP control, comparing the mirrored lane for a fade remap or switching at F for an
abrupt one. -/
def execRemap (p : Fin 8) (lane : Fin 16) (w : Fin 18) (f : BitVec 16) (kind : Fin 2) (same : Bool) (s : State) : Host.Outcome
    State Fault Refusal :=
  live (remapRx p lane w f.toNat kind same) s

/-- REMAP_ACK (R294). The transmitter handles an acceptance or refusal of a remap. -/
def execRemapAck (p : Fin 8) (lane : Fin 16) (w : Fin 18) (f : BitVec 16) (refuse : Bool) (s : State) : Host.Outcome State
    Fault Refusal :=
  live (remapAck p lane w f.toNat refuse) s

/-- LANE_DOWN (R295). The transmitter receives LANE_DOWN and moves the lane to a spare with an abrupt REMAP, or retrains at
half width. -/
def execLaneDown (p : Fin 8) (lane : Fin 16) (s : State) : Host.Outcome State Fault Refusal :=
  live (laneDown p lane) s

/-- DARK (R279). A DARK notice is received and recorded with its cause, with a retrain if the cause is 3. -/
def execDark (p : Fin 8) (cause : Fin 16) (lead : BitVec 8) (s : State) : Host.Outcome State Fault Refusal :=
  live (dark p cause lead.toNat) s

/-- ID (R279). An ID control is received, giving the far end's coordinate, port, FEC mode, spares and start-up flag. -/
def execIdCtl (p : Fin 8) (coord : BitVec 18) (port : Fin 8) (fec : Bool) (spares : Fin 4) (ver : BitVec 16) (startup : Bool)
    (s : State) : Host.Outcome State Fault Refusal :=
  live (idCtl p coord.toNat port fec spares ver.toNat startup) s

/-- CAL (R290). A CAL control makes the far end light one wavelength, send a skew marker, or end calibration. -/
def execCal (p : Fin 8) (w : Fin 32) (action : Fin 8) (s : State) : Host.Outcome State Fault Refusal :=
  live (cal p w action) s

/-- LOSS_OF_LIGHT (R282). No data lane has held lock for 4 µs, so the port reports loss of light and holds its traffic. -/
def execLossOfLight (p : Fin 8) (s : State) : Host.Outcome State Fault Refusal :=
  live (lossOfLight p) s

/-- LASER_LIGHT_DROP (R295). A monitor photodiode sees its light fall by 6 dB within 1 µs, and the transmitter moves the lane
at once. -/
def execLaserLightDrop (p : Fin 8) (w : Fin 18) (s : State) : Host.Outcome State Fault Refusal :=
  live (laserLightDrop p w) s

/-- LIGHT_DETECTED (R283). Light from a new far end starts link acquisition. -/
def execLightDetected (p : Fin 8) (s : State) : Host.Outcome State Fault Refusal :=
  live (lightDetected p) s

/-- ACQUISITION_COMPLETE (R283). Acquisition ends with the link Up, LOW_MARGIN or FEC mismatch, and the peer is checked under
R340. -/
def execAcquisitionComplete (p : Fin 8) (rtt : Nat) (bers : List (Nat × Nat)) (losses : List Nat) (waves : FarWaves)
    (peer : FarEnd) (s : State) : Host.Outcome State Fault Refusal :=
  live (acquisitionComplete p rtt bers losses waves.map waves.parkedOk peer.inMode peer.expected) s

/-- RETRAIN (R283). A write of FNT_PORT_CTL.RETRAIN sends DARK with cause 3 and retrains the link. -/
def execRetrain (ag : Agent) (p : Fin 8) (s : State) : Host.Outcome State Fault Refusal :=
  byReg ag 0x20000 (retrain ag p) s

/-- LASER_EVALUATION (R293). Each millisecond the assay unit predicts fade and BER and may start a fade remap. -/
def execLaserEvaluation (p : Fin 8) (w : Fin 18) (fade : Nat) (fadePred : Nat) (berPred : Nat) (power : Nat) (bias : Nat)
    (headroom : Nat) (rx : List (Nat × Nat)) (s : State) : Host.Outcome State Fault Refusal :=
  live (laserEvaluation p w fade fadePred berPred power bias headroom rx) s

/-- REMAP_GO (R297). Starts a manual fade remap of REMAP_LANE. -/
def execRemapGo (ag : Agent) (p : Fin 8) (lane : Fin 16) (s : State) : Host.Outcome State Fault Refusal :=
  byReg ag 0x20000 (remapGo ag p lane) s

/-- REMAP_SWITCH (R294). Frame F passes after an acceptance, mirroring stops, and the old laser is Retired. -/
def execRemapSwitch (p : Fin 8) (s : State) : Host.Outcome State Fault Refusal :=
  live (remapSwitch p) s

/-- REMAP_RETRY (R294). No reply has come by frame F + 1,024, so REMAP is repeated with a new F. -/
def execRemapRetry (p : Fin 8) (s : State) : Host.Outcome State Fault Refusal :=
  live (remapRetry p) s

/-- RETURN_GO (R298). Lights a Retired, Parked or Failed laser on its wavelength for training. -/
def execReturnGo (ag : Agent) (p : Fin 8) (w : Fin 32) (s : State) : Host.Outcome State Fault Refusal :=
  byReg ag 0x20000 (returnGo ag p w) s

/-- LASER_RETURN_DONE (R298). Training of a returned laser ends, and it becomes Spare or Failed. -/
def execLaserReturnDone (p : Fin 8) (w : Fin 18) (fade : Nat) (ber : Nat) (s : State) : Host.Outcome State Fault Refusal :=
  live (laserReturnDone p w fade ber) s

/-- WEIR_MEASURE (R304). FNT_WEIR_CMD.GO starts a weir-bank measurement, or ends at once with ERR. -/
def execWeirMeasure (ag : Agent) (p : Fin 8) (kind : Fin 8) (w : Fin 32) (v : Fin 32) (integ : Fin 8) (s : State) :
    Host.Outcome State Fault Refusal :=
  byReg ag 0x20000 (weirMeasure ag p kind w v integ) s

/-- WEIR_MEASURE_DONE (R304). The measurement's integration ends and its result is valid. -/
def execWeirMeasureDone (p : Fin 8) (value : Nat) (enob : Nat) (s : State) : Host.Outcome State Fault Refusal :=
  live (weirMeasureDone p value enob) s

/-- APPLY (R285). Checks SLC_MAP_NEXT and, for a valid map, sends DARK and waits LEAD µs. -/
def execApplyMap (ag : Agent) (s : State) : Host.Outcome State Fault Refusal :=
  byReg ag 0x20000 (apply ag) s

/-- BAR (R306). Applies the bar map as an APPLY does, leaving MAP_NEXT unchanged. -/
def execBarMap (ag : Agent) (s : State) : Host.Outcome State Fault Refusal :=
  byReg ag 0x20000 (bar ag) s

/-- SLUICE_SWITCH (R285). After the lead time, the changed cells switch and newly terminated ports start acquisition. -/
def execSluiceSwitch (s : State) : Host.Outcome State Fault Refusal :=
  live sluiceSwitch s

/-- FOUNTAIN_DIE_LOSS (R286). A fountain die fails, its ports read Lost, and its cells relax to bar. -/
def execFountainDieLoss (d : Fin 4) (s : State) : Host.Outcome State Fault Refusal :=
  live (fountainDieLoss d) s

/-- CALIBRATION_COMMIT (R291). A port's start-up link phase ends: margin is checked, DARK with cause 3 is sent, the link
retrains in its configured mode, and the calibration record is committed. -/
def execCalibrationCommit (p : Fin 8) (losses : List Nat) (s : State) : Host.Outcome State Fault Refusal :=
  live (calibrationCommit p losses) s

end Sys2Proof.Machine
end

