-- ==== Sys2Proof/Machine/ExecPackets.lean ====
section
/-! DEFINITION. The commands' meanings: queue packets and kernels. -/
namespace Sys2Proof.Machine

/-- NOP (R165). Queue packet that completes at start. -/
def execNop (b : Fin 6) (q : Fin 64) (s : State) : Host.Outcome State Fault Refusal :=
  live (nop b q) s

/-- LAUNCH (R166). Starts a kernel on the clusters of CMASK once their resources are free, setting registers and generators.
-/
def execLaunch (b : Fin 6) (q : Fin 64) (s : State) : Host.Outcome State Fault Refusal :=
  live (launch b q) s

/-- SPOUT_PACKET (R168). Queue packet that performs a spout copy. -/
def execSpoutPacket (b : Fin 6) (q : Fin 64) (s : State) : Host.Outcome State Fault Refusal :=
  live (spoutPacket b q) s

/-- TEMPER (R168). Queue packet that enters a temper command. -/
def execTemper (b : Fin 6) (q : Fin 64) (slot : Fin 5) (s : State) : Host.Outcome State Fault Refusal :=
  live (temper b q slot) s

/-- LADLE (R168). Queue packet that enters a ladle command. -/
def execLadle (b : Fin 6) (q : Fin 64) (slot : Fin 5) (s : State) : Host.Outcome State Fault Refusal :=
  live (ladle b q slot) s

/-- BATCH_BIND (R167). Stores the template of a batching queue's bound kernel. -/
def execBatchBind (b : Fin 6) (q : Fin 64) (s : State) : Host.Outcome State Fault Refusal :=
  live (batchBind b q) s

/-- BATCH_APPEND (R59). Appends a request's rows to a batching queue, or refuses it. -/
def execBatchAppend (b : Fin 6) (q : Fin 64) (s : State) : Host.Outcome State Fault Refusal :=
  live (batchAppend b q) s

/-- BATCH_FLUSH (R60). Queue packet that closes the open batch with cause flush. -/
def execBatchFlush (b : Fin 6) (q : Fin 64) (s : State) : Host.Outcome State Fault Refusal :=
  live (batchFlush b q) s

/-- SEAL (R106). Seals step n once n − 1 is resolved: freezes taint, writes the block header, latches the loss scale and
advances STEP. -/
def execSeal (b : Fin 6) (q : Fin 64) (s : State) : Host.Outcome State Fault Refusal :=
  live (sealStep b q) s

/-- AGREE (R108). Records NF and DIST and signals the commit barrier, once temper commands of step n − 2 are complete. -/
def execAgree (b : Fin 6) (q : Fin 64) (s : State) : Host.Outcome State Fault Refusal :=
  live (agree b q) s

/-- BARRIER (R180). Arrives at a barrier generation and sends the control packets of its rounds. -/
def execBarrier (b : Fin 6) (q : Fin 64) (s : State) : Host.Outcome State Fault Refusal :=
  live (barrier b q) s

/-- POUR (R189). Waits at the head of its queue for pour point P. -/
def execPour (b : Fin 6) (q : Fin 64) (s : State) : Host.Outcome State Fault Refusal :=
  live (pour b q) s

/-- POUR_TAKE (R190). With every pour-set queue at its POUR, the pour record is written and committed, and the POURs complete.
-/
def execPourTake (b : Fin 6) (s : State) : Host.Outcome State Fault Refusal :=
  live (pourTake b) s

/-- KERNEL_COMPLETE (R214). Every sequencer has halted and every write is performed, so the kernel and its LAUNCH complete. -/
def execKernelComplete (kc : Fin 104) (s : State) : Host.Outcome State Fault Refusal :=
  live (kernelComplete kc) s

/-- SIDE_BUDGET_EXPIRY (R171). A side-class kernel exceeds BUDGET, is stopped with ERRCODE 5, and its queue halts. -/
def execSideBudgetExpiry (kc : Fin 104) (s : State) : Host.Outcome State Fault Refusal :=
  live (sideBudgetExpiry kc) s

/-- QUEUE_RELEASE (R161). BSN_Q_CFG.RELEASE resumes a halted queue, retiring the halting packet with no effect. -/
def execQueueRelease (ag : Agent) (b : Fin 6) (q : Fin 64) (s : State) : Host.Outcome State Fault Refusal :=
  byReg ag 0x20000 (queueRelease ag b q) s

/-- QUEUE_DISCARD (R161). BSN_Q_CFG.DISCARD drops every unstarted packet of a halted queue. -/
def execQueueDiscard (ag : Agent) (b : Fin 6) (q : Fin 64) (s : State) : Host.Outcome State Fault Refusal :=
  byReg ag 0x20000 (queueDiscard ag b q) s

/-- CTRL_PACKET (R180). A barrier control packet arrives, and is held, accepted toward its round or dropped. -/
def execCtrlPacket (w : BitVec 256) (via : Option (Fin 8)) (s : State) : Host.Outcome State Fault Refusal :=
  live (fun c => c.arrive w.toNat [] (via.map Fin.val) (ctrlPacket w.toNat (via.map Fin.val))) s

end Sys2Proof.Machine
end

