-- ==== Sys2Proof/Machine/ExecPower.lean ====
section
/-! DEFINITION. The commands' meanings: power, clocks' reference and start-up. -/
namespace Sys2Proof.Machine

/-- STANDBY_POWER_ON (R472). VSB33 comes into range, which powers the always-on domains, samples the straps and starts the
sideband. -/
def execStandbyPowerOn (feed : BitVec 8) (inst : BitVec 4) (s : State) : Host.Outcome State Fault Refusal :=
  onChip (standbyPowerOn feed.toNat inst.toNat) s

/-- STANDBY_POWER_LOSS (R474). VSB33 falls below its threshold; this is handled as a VIN12 failure, and the key store and
HUB_TICKS are lost. -/
def execStandbyPowerLoss (s : State) : Host.Outcome State Fault Refusal :=
  .next (standbyPowerLoss s)

/-- POWER_GOOD (R434). PWRGD rises with both rails in range, and the hubs run the boot ROM, verify and choose the images, and
start the part up. -/
def execPowerGood (feed : BitVec 8) (inst : BitVec 4) (s : State) : Host.Outcome State Fault Refusal :=
  .next (powerGood feed.toNat inst.toNat s)

/-- BOOT_READY (R434). Start-up ends, HUB_BOOT_STS.STATE becomes Ready and event 0 is raised. -/
def execBootReady (ms : Nat) (bad : List Nat) (s : State) : Host.Outcome State Fault Refusal :=
  .next (bootReady ms bad s)

/-- POWER_FAIL (R473). A rail crosses its power-fail threshold or PWRGD falls, so forge dies and stacks lose power, the last
gasp and DARK are sent, and the sluice relaxes to bar. -/
def execPowerFail (kind : Fin 3) (s : State) : Host.Outcome State Fault Refusal :=
  onChip (powerFail kind) s

/-- LAST_GASP_RECEIVE (R379). The partner stores a received last gasp in always-on SRAM and raises event 5. -/
def execLastGaspReceive (g : Gasp) (s : State) : Host.Outcome State Fault Refusal :=
  live (lastGaspReceive g) s

/-- PERST_ASSERT (R431). PERST# or a link hot reset causes a package reset when PERST_FULL is 1 and an endpoint reset
otherwise. -/
def execPerstAssert (s : State) : Host.Outcome State Fault Refusal :=
  .next (perstAssert s)

/-- REFERENCE_LOSS (R392). REFCLK fails, the PLLs hold their frequency, the slow clock runs from the internal oscillator, and
an event is raised. -/
def execReferenceLoss (s : State) : Host.Outcome State Fault Refusal :=
  live referenceLoss s

/-- REFERENCE_LOSS_TIMEOUT (R392). The reference has not returned within 100 ms, so the part performs a thermal shutdown
recorded as reference loss. -/
def execReferenceLossTimeout (s : State) : Host.Outcome State Fault Refusal :=
  onChip referenceLossTimeout s

/-- REFERENCE_RETURN (R392). REFCLK returns within 100 ms, with no retrain and no interruption. -/
def execReferenceReturn (s : State) : Host.Outcome State Fault Refusal :=
  live referenceReturn s

/-- PRIMARY_RAILS_IN_RANGE (R472). VIN12 and VLAS33 come into range while PWRGD is already asserted, which sets time 0 of
start-up. -/
def execPrimaryRailsInRange (s : State) : Host.Outcome State Fault Refusal :=
  .next (primaryRailsInRange s)

end Sys2Proof.Machine
end

