-- ==== Sys2Proof/Machine/ExecRecovery.lean ====
section
/-! DEFINITION. The commands' meanings: watchdogs, quench, risk, secure steps and recovery. -/
namespace Sys2Proof.Machine

/-- WATCHDOG_EXPIRY (R366). The watchdog COUNT reaches PERIOD slow ticks without progress. -/
def execWatchdogExpiry (b : Fin 6) (s : State) : Host.Outcome State Fault Refusal :=
  live (watchdogExpiry b) s

/-- QUENCH (R372). A write of BSN_QUENCH.QUENCH quenches the basin. -/
def execQuench (ag : Agent) (b : Fin 6) (s : State) : Host.Outcome State Fault Refusal :=
  byReg ag 0x20000 (quenchCmd ag b) s

/-- QUENCH_COMPLETE (R367). The controllers leave self-refresh and the basin units are reset, so the basin is quenched, or
Failed if the quench failed. -/
def execQuenchComplete (b : Fin 6) (good : Bool) (s : State) : Host.Outcome State Fault Refusal :=
  live (quenchComplete b good) s

/-- BASIN_RETURN (R372). A write of BSN_QUENCH.RETURN returns a quenched basin to service. -/
def execBasinReturn (ag : Agent) (b : Fin 6) (s : State) : Host.Outcome State Fault Refusal :=
  byReg ag 0x20000 (basinReturn ag b) s

/-- RISK_UPDATE (R463). Each millisecond the assay unit recomputes the risk terms, SCORE and LEVEL. -/
def execRiskUpdate (ce : Nat) (ue : Nat) (cw : Nat) (droop : Nat) (s : State) : Host.Outcome State Fault Refusal :=
  live (riskUpdate ce ue cw droop) s

/-- WEAR_SAMPLE (R465). Each hour the assay unit samples the wear quantities, refits the trends, and may start planned
sparing. -/
def execWearSample (j : Fin 6) (days : Nat) (low : Nat) (unit : BitVec 16) (samples : Nat) (k : Fin 12) (p : Fin 64) (s :
    State) : Host.Outcome State Fault Refusal :=
  live (wearSample j days low unit.toNat samples k p) s

/-- REPLICA_ENABLE (R377). A write that sets ASY_REPLICA.ENABLE is accepted, or is refused with REFUSED set when the feeds
match. -/
def execReplicaEnable (ag : Agent) (v : Word) (s : State) : Host.Outcome State Fault Refusal :=
  byReg ag 0x20000 (replicaEnable ag v.toNat) s

/-- SECURE_GO (R383). A write of BSN_SECURE_CMD.GO arms the copy-out of secure step s, or is refused. -/
def execSecureGo (ag : Agent) (b : Fin 6) (step : BitVec 32) (s : State) : Host.Outcome State Fault Refusal :=
  byReg ag 0x20000 (secureGoWrite ag b step.toNat) s

/-- SECURE_ABORT (R383). A write of BSN_SECURE_CMD.ABORT abandons the running ingot stream. -/
def execSecureAbort (ag : Agent) (b : Fin 6) (s : State) : Host.Outcome State Fault Refusal :=
  byReg ag 0x20000 (secureAbortWrite ag b) s

/-- COPY_OUT_START (R381). Once s is resolved and its temper work is done, the state image is written and the spouts copy the
regions to KEEP. -/
def execCopyOutStart (b : Fin 6) (s : State) : Host.Outcome State Fault Refusal :=
  live (copyOutStart b) s

/-- COPY_OUT_COMMIT (R381). The KEEP slot is committed, and streaming to the partner begins. -/
def execCopyOutCommit (b : Fin 6) (s : State) : Host.Outcome State Fault Refusal :=
  live (copyOutCommit b) s

/-- STREAM_COMMIT (R382). The ingot stream ends with its commit record at the partner, or with partner lost. -/
def execStreamCommit (b : Fin 6) (good : Bool) (s : State) : Host.Outcome State Fault Refusal :=
  live (streamCommit b good) s

/-- STOP (R388). Halts every queue of the basin, stops kernels, discards engine commands and cancels barriers. -/
def execStop (ag : Agent) (b : Fin 6) (s : State) : Host.Outcome State Fault Refusal :=
  byReg ag 0x20000 (stop ag b) s

/-- REWIND (R387). Restores a stopped survivor from its KEEP slot of step s. -/
def execRewind (ag : Agent) (b : Fin 6) (step : BitVec 32) (s : State) : Host.Outcome State Fault Refusal :=
  byReg ag 0x20000 (rewind ag b step.toNat) s

/-- SEND (R386). Sends the replica slot of step s to the spare over the routes. -/
def execSend (ag : Agent) (b : Fin 6) (step : BitVec 32) (target : BitVec 18) (s : State) : Host.Outcome State Fault Refusal
    :=
  byReg ag 0x20000 (Machine.send ag b step.toNat target.toNat) s

/-- ADOPT (R387). The spare applies the state image of the set it has received. -/
def execAdopt (ag : Agent) (b : Fin 6) (step : BitVec 32) (s : State) : Host.Outcome State Fault Refusal :=
  byReg ag 0x20000 (adopt ag b step.toNat) s

/-- RECOVER_COMPLETE (R388). A recovery command ends with its RESULT. -/
def execRecoverComplete (b : Fin 6) (twice : Bool) (lost : Bool) (s : State) : Host.Outcome State Fault Refusal :=
  live (recoverComplete b twice lost) s

end Sys2Proof.Machine
end

