-- ==== Sys2Proof/Machine/ExecSequencer.lean ====
section
/-! DEFINITION. The commands' meanings: the sequencers. -/
namespace Sys2Proof.Machine

/-- BUNDLE_ISSUE (R202). A sequencer issues a bundle, and all of its slots issue together in the order S, V, M, X. -/
def execBundleIssue (kc : Fin 104) (sq : Fin 2) (s : State) : Host.Outcome State Fault Refusal :=
  live (bundleIssue kc sq) s

/-- LOAD_DATA_RETURN (R211). A scalar load sent through the die's router completes when its data returns. -/
def execLoadDataReturn (kc : Fin 104) (sq : Fin 2) (ld : Nat) (s : State) : Host.Outcome State Fault Refusal :=
  live (loadDataReturn kc sq ld) s

/-- LWAIT_RELEASE (R229). A satisfied LWAIT releases the next bundle within 8 cycles. -/
def execLwaitRelease (kc : Fin 104) (sq : Fin 2) (s : State) : Host.Outcome State Fault Refusal :=
  live (lwaitRelease kc sq) s

/-- LATCH_OP_APPLY (R178). The queue logic applies a latch operation once its release permits, writing it through to the
shadow. -/
def execLatchOpApply (b : Fin 6) (id : Nat) (s : State) : Host.Outcome State Fault Refusal :=
  live (latchOpApply b id) s

/-- FENCE_COMPLETE (R185). Every earlier access is performed at the fence's scope, and the next bundle is released. -/
def execFenceComplete (kc : Fin 104) (sq : Fin 2) (s : State) : Host.Outcome State Fault Refusal :=
  live (fenceComplete kc sq) s

/-- MSYNC_RELEASE (R235). The events of an MSYNC have occurred, and the next bundle is released. -/
def execMsyncRelease (kc : Fin 104) (sq : Fin 2) (s : State) : Host.Outcome State Fault Refusal :=
  live (msyncRelease kc sq) s

/-- SPOUT_COPY_COMPLETE (R232). A spout copy completes at its destination and signals its latch. -/
def execSpoutCopyComplete (id : Nat) (s : State) : Host.Outcome State Fault Refusal :=
  live (spoutCopyComplete id) s

end Sys2Proof.Machine
end

