-- ==== Sys2Proof/Machine/ExecSparing.lean ====
section
/-! DEFINITION. The commands' meanings: hubs, dies and spares. -/
namespace Sys2Proof.Machine

/-- PRIMARY_HEARTBEAT_LOSS (R364). The primary hub's heartbeat is missing for 8 slow ticks, or the primary reports its own
fault, and the standby takes over. -/
def execPrimaryHeartbeatLoss (reported : Bool) (s : State) : Host.Outcome State Fault Refusal :=
  .next (primaryHeartbeatLoss reported s)

/-- SWITCH (R365). A write of HUB_ROLE.SWITCH hands over to the standby hub when STANDBY_OK is 1. -/
def execSwitchHub (ag : Agent) (s : State) : Host.Outcome State Fault Refusal :=
  .next (if s.chip.hears ag 0 then switch ag s else s)

/-- FORGE_HEARTBEAT_LOSS (R362). A forge die's heartbeat is missing for 8 consecutive slow ticks. -/
def execForgeHeartbeatLoss (n : Fin 26) (s : State) : Host.Outcome State Fault Refusal :=
  live (forgeHeartbeatLoss n) s

/-- FORGE_DIE_ERROR (R362). A forge die reports an uncorrectable internal error. -/
def execForgeDieError (n : Fin 26) (s : State) : Host.Outcome State Fault Refusal :=
  live (forgeDieError n) s

/-- SUBSTITUTION_COMPLETE (R363). The spare becomes Active, the latches are reloaded, DISTURBED is set, and replay from the
pour point begins. -/
def execSubstitutionComplete (b : Fin 6) (s : State) : Host.Outcome State Fault Refusal :=
  live (substitutionComplete b) s

/-- ASSAY_RETEST (R24). The assay unit retests a failed or returned die, which becomes Spare or Retired. -/
def execAssayRetest (n : Fin 26) (good : Bool) (s : State) : Host.Outcome State Fault Refusal :=
  live (assayRetest n good) s

/-- SPARE_BACKGROUND_TEST (R20). The assay unit tests a spare forge die, at least once every 10 s. -/
def execSpareBackgroundTest (n : Fin 26) (good : Bool) (s : State) : Host.Outcome State Fault Refusal :=
  live (spareBackgroundTest n good) s

/-- ROUTER_FAILURE (R15). A die's router fails or loses power, Lansel rewrites the mesh tables around it, and a stack whose
two attachment routers are both lost is handled under R484. -/
def execRouterFailure (n : Fin 32) (s : State) : Host.Outcome State Fault Refusal :=
  live (routerFailure n) s

/-- SPARE_SUBSTITUTE (R30). HUB_SPARE_CMD action 1 starts a planned substitution of TARGET by SPARE. -/
def execSpareSubstitute (ag : Agent) (target : Fin 32) (spare : Fin 32) (s : State) : Host.Outcome State Fault Refusal :=
  byReg ag 0 (spareSubstitute ag target spare) s

/-- SPARE_RETURN (R30). HUB_SPARE_CMD action 2 retests TARGET and returns it to Spare. -/
def execSpareReturn (ag : Agent) (target : Fin 32) (s : State) : Host.Outcome State Fault Refusal :=
  byReg ag 0 (spareReturn ag target) s

/-- SPARE_RETIRE (R31). HUB_SPARE_CMD action 3 retires TARGET, substituting it first if it is Active. -/
def execSpareRetire (ag : Agent) (target : Fin 32) (s : State) : Host.Outcome State Fault Refusal :=
  byReg ag 0 (spareRetire ag target) s

/-- SPARE_CMD_COMPLETE (R31). A spare-die command ends, and RESULT, COUNT and event 6 are updated. -/
def execSpareCmdComplete (s : State) : Host.Outcome State Fault Refusal :=
  live spareCmdComplete s

end Sys2Proof.Machine
end

