-- ==== Sys2Proof/Machine/ExecSteps.lean ====
section
/-! DEFINITION. The commands' meanings: the step agreement, barriers, loss, trap and batches. -/
namespace Sys2Proof.Machine

/-- BARRIER_TIMEOUT (R182). A context 1–15 times out and raises its timeout event. -/
def execBarrierTimeout (b : Fin 6) (x : Fin 16) (s : State) : Host.Outcome State Fault Refusal :=
  live (barrierTimeout b x) s

/-- CANCEL (R182). Cancels the barrier generation in progress and completes the waiting BARRIER with ERRCODE 9. -/
def execCancel (ag : Agent) (b : Fin 6) (x : Fin 16) (s : State) : Host.Outcome State Fault Refusal :=
  byReg ag 0x20000 (cancelWrite ag b x) s

/-- AGREE_TIMEOUT (R115). The agreement unit stays Sealed or Agreed for TIMEOUT slow ticks and raises a timeout event. -/
def execAgreeTimeout (b : Fin 6) (s : State) : Host.Outcome State Fault Refusal :=
  live (agreeTimeout b) s

/-- AGREE_CTL_RELEASE (R115). A host RELEASE resolves the step with its recorded NF and DIST, or is refused. -/
def execAgreeCtlRelease (ag : Agent) (b : Fin 6) (n : BitVec 32) (s : State) : Host.Outcome State Fault Refusal :=
  byReg ag 0x20000 (agreeCtlRelease ag b n.toNat) s

/-- AGREE_CTL_ABANDON (R115). A host ABANDON resolves the step as skipped, disturbed, or is refused. -/
def execAgreeCtlAbandon (ag : Agent) (b : Fin 6) (n : BitVec 32) (s : State) : Host.Outcome State Fault Refusal :=
  byReg ag 0x20000 (agreeCtlAbandon ag b n.toNat) s

/-- AGREE_CTL_TAINT (R104). A write of TAINT sets local taint for step STEP. -/
def execAgreeCtlTaint (ag : Agent) (b : Fin 6) (s : State) : Host.Outcome State Fault Refusal :=
  byReg ag 0x20000 (agreeCtlTaint ag b) s

/-- LOSS_IN (R125). A step-loss write updates the loss monitor's average, spike count or non-finite count. -/
def execLossIn (ag : Agent) (b : Fin 6) (loss : BitVec 32) (s : State) : Host.Outcome State Fault Refusal :=
  byReg ag 0x20000 (lossInWrite ag b loss.toNat) s

/-- LOSS_RESTART (R125). RESTART makes the next loss write restart the average. -/
def execLossRestart (ag : Agent) (b : Fin 6) (s : State) : Host.Outcome State Fault Refusal :=
  byReg ag 0x20000 (lossRestart ag b) s

/-- NAN_TRAP_REARM (R93). A write of 1 to HELD clears it, clears MISSED and re-arms the trap. -/
def execNanTrapRearm (ag : Agent) (b : Fin 6) (s : State) : Host.Outcome State Fault Refusal :=
  byReg ag 0x20000 (nanTrapRearm ag b) s

/-- BATCH_DEADLINE (R60). DEADLINE cycles pass since the open batch's first row, and the batch closes with cause deadline. -/
def execBatchDeadline (b : Fin 6) (x : Fin 8) (s : State) : Host.Outcome State Fault Refusal :=
  live (batchDeadline b x) s

/-- BATCH_RELEASE (R61). A closed batch is released as a LAUNCH on TARGET_Q when fewer than INFLIGHT + 1 batches are in
flight. -/
def execBatchRelease (b : Fin 6) (x : Fin 8) (s : State) : Host.Outcome State Fault Refusal :=
  live (batchRelease b x) s

/-- BATCH_CFG_FLUSH (R63). A write of BSN_BATCH_CFG.FLUSH closes the open batch with cause flush. -/
def execBatchCfgFlush (ag : Agent) (b : Fin 6) (x : Fin 8) (s : State) : Host.Outcome State Fault Refusal :=
  byReg ag 0x20000 (batchCfgFlush ag b x) s

/-- BATCH_DISABLE (R62). A write of ENABLE = 0 closes the open batch and refuses new requests. -/
def execBatchDisable (ag : Agent) (b : Fin 6) (x : Fin 8) (s : State) : Host.Outcome State Fault Refusal :=
  byReg ag 0x20000 (batchDisable ag b x) s

end Sys2Proof.Machine
end

