-- ==== Sys2Proof/Machine/Dispatch.lean ====
section
/-! DEFINITION. The arms of exec: one per command, each a direct call of its meaning. -/
namespace Sys2Proof.Machine

def exec (i : Instr) (s : State) : Host.Outcome State Fault Refusal :=
  match i with
  | .standbyPowerOn feed inst => Sys2Proof.Machine.execStandbyPowerOn feed inst s
  | .standbyPowerLoss => Sys2Proof.Machine.execStandbyPowerLoss s
  | .powerGood feed inst => Sys2Proof.Machine.execPowerGood feed inst s
  | .bootReady ms bad => Sys2Proof.Machine.execBootReady ms bad s
  | .powerFail kind => Sys2Proof.Machine.execPowerFail kind s
  | .lastGaspReceive g => Sys2Proof.Machine.execLastGaspReceive g s
  | .perstAssert => Sys2Proof.Machine.execPerstAssert s
  | .pfFlr => Sys2Proof.Machine.execPfFlr s
  | .vfFlr n => Sys2Proof.Machine.execVfFlr n s
  | .pcieLinkUp rate width flit => Sys2Proof.Machine.execPcieLinkUp rate width flit s
  | .pcieLinkDown => Sys2Proof.Machine.execPcieLinkDown s
  | .referenceLoss => Sys2Proof.Machine.execReferenceLoss s
  | .referenceLossTimeout => Sys2Proof.Machine.execReferenceLossTimeout s
  | .referenceReturn => Sys2Proof.Machine.execReferenceReturn s
  | .hostBarAccess ag bar off len data => Sys2Proof.Machine.execHostBarAccess ag bar off len data s
  | .registerWrite ag off v => Sys2Proof.Machine.execRegisterWrite ag off v s
  | .doorbell ag b q tail => Sys2Proof.Machine.execDoorbell ag b q tail s
  | .copyDoorbell ag ch tail => Sys2Proof.Machine.execCopyDoorbell ag ch tail s
  | .copyDescriptorStart ch pages => Sys2Proof.Machine.execCopyDescriptorStart ch pages s
  | .copyDescriptorComplete ch data bad => Sys2Proof.Machine.execCopyDescriptorComplete ch data bad s
  | .copyResume ag ch => Sys2Proof.Machine.execCopyResume ag ch s
  | .vfBind ag n isMask v => Sys2Proof.Machine.execVfBind ag n isMask v s
  | .notifyArm ag j v => Sys2Proof.Machine.execNotifyArm ag j v s
  | .mctpMessage m => Sys2Proof.Machine.execMctpMessage m s
  | .statusCmd ag => Sys2Proof.Machine.execStatusCmd ag s
  | .logRead ag off len => Sys2Proof.Machine.execLogRead ag off len s
  | .certs ag => Sys2Proof.Machine.execCerts ag s
  | .hallmark ag nonce => Sys2Proof.Machine.execHallmark ag nonce s
  | .imageStage ag kind off data => Sys2Proof.Machine.execImageStage ag kind off data s
  | .imageCommit ag kind => Sys2Proof.Machine.execImageCommit ag kind s
  | .liveUpdate ag starts => Sys2Proof.Machine.execLiveUpdate ag starts s
  | .cfgStage ag off data => Sys2Proof.Machine.execCfgStage ag off data s
  | .cfgCommit ag => Sys2Proof.Machine.execCfgCommit ag s
  | .cfgRevert ag => Sys2Proof.Machine.execCfgRevert ag s
  | .cfgRestore ag k => Sys2Proof.Machine.execCfgRestore ag k s
  | .ownerSet ag record => Sys2Proof.Machine.execOwnerSet ag record s
  | .resetCmd ag => Sys2Proof.Machine.execResetCmd ag s
  | .debugChallenge ag => Sys2Proof.Machine.execDebugChallenge ag s
  | .debugUnlock ag level token => Sys2Proof.Machine.execDebugUnlock ag level token s
  | .debugLock ag => Sys2Proof.Machine.execDebugLock ag s
  | .debugAccess ag d => Sys2Proof.Machine.execDebugAccess ag d s
  | .knownGoodTimer => Sys2Proof.Machine.execKnownGoodTimer s
  | .partRecordCommit => Sys2Proof.Machine.execPartRecordCommit s
  | .primaryHeartbeatLoss reported => Sys2Proof.Machine.execPrimaryHeartbeatLoss reported s
  | .switchHub ag => Sys2Proof.Machine.execSwitchHub ag s
  | .forgeHeartbeatLoss n => Sys2Proof.Machine.execForgeHeartbeatLoss n s
  | .forgeDieError n => Sys2Proof.Machine.execForgeDieError n s
  | .substitutionComplete b => Sys2Proof.Machine.execSubstitutionComplete b s
  | .assayRetest n good => Sys2Proof.Machine.execAssayRetest n good s
  | .spareBackgroundTest n good => Sys2Proof.Machine.execSpareBackgroundTest n good s
  | .routerFailure n => Sys2Proof.Machine.execRouterFailure n s
  | .spareSubstitute ag target spare => Sys2Proof.Machine.execSpareSubstitute ag target spare s
  | .spareReturn ag target => Sys2Proof.Machine.execSpareReturn ag target s
  | .spareRetire ag target => Sys2Proof.Machine.execSpareRetire ag target s
  | .spareCmdComplete => Sys2Proof.Machine.execSpareCmdComplete s
  | .bundleIssue kc sq => Sys2Proof.Machine.execBundleIssue kc sq s
  | .loadDataReturn kc sq ld => Sys2Proof.Machine.execLoadDataReturn kc sq ld s
  | .tileLoadStart e staged => Sys2Proof.Machine.execTileLoadStart e staged s
  | .tileLoadComplete kc => Sys2Proof.Machine.execTileLoadComplete kc s
  | .stagedStartEnd kc => Sys2Proof.Machine.execStagedStartEnd kc s
  | .passStart e waited => Sys2Proof.Machine.execPassStart e waited s
  | .passSumsComplete kc bad => Sys2Proof.Machine.execPassSumsComplete kc bad s
  | .arrayLineTestDone kc found => Sys2Proof.Machine.execArrayLineTestDone kc found s
  | .plannedLineMapping kc col line => Sys2Proof.Machine.execPlannedLineMapping kc col line s
  | .drainStart e => Sys2Proof.Machine.execDrainStart e s
  | .drainComplete kc => Sys2Proof.Machine.execDrainComplete kc s
  | .lwaitRelease kc sq => Sys2Proof.Machine.execLwaitRelease kc sq s
  | .latchOpApply b id => Sys2Proof.Machine.execLatchOpApply b id s
  | .fenceComplete kc sq => Sys2Proof.Machine.execFenceComplete kc sq s
  | .msyncRelease kc sq => Sys2Proof.Machine.execMsyncRelease kc sq s
  | .spoutCopyComplete id => Sys2Proof.Machine.execSpoutCopyComplete id s
  | .nop b q => Sys2Proof.Machine.execNop b q s
  | .launch b q => Sys2Proof.Machine.execLaunch b q s
  | .spoutPacket b q => Sys2Proof.Machine.execSpoutPacket b q s
  | .temper b q slot => Sys2Proof.Machine.execTemper b q slot s
  | .ladle b q slot => Sys2Proof.Machine.execLadle b q slot s
  | .batchBind b q => Sys2Proof.Machine.execBatchBind b q s
  | .batchAppend b q => Sys2Proof.Machine.execBatchAppend b q s
  | .batchFlush b q => Sys2Proof.Machine.execBatchFlush b q s
  | .sealStep b q => Sys2Proof.Machine.execSeal b q s
  | .agree b q => Sys2Proof.Machine.execAgree b q s
  | .barrier b q => Sys2Proof.Machine.execBarrier b q s
  | .pour b q => Sys2Proof.Machine.execPour b q s
  | .pourTake b => Sys2Proof.Machine.execPourTake b s
  | .kernelComplete kc => Sys2Proof.Machine.execKernelComplete kc s
  | .sideBudgetExpiry kc => Sys2Proof.Machine.execSideBudgetExpiry kc s
  | .queueRelease ag b q => Sys2Proof.Machine.execQueueRelease ag b q s
  | .queueDiscard ag b q => Sys2Proof.Machine.execQueueDiscard ag b q s
  | .ctrlPacket w via => Sys2Proof.Machine.execCtrlPacket w via s
  | .barrierTimeout b x => Sys2Proof.Machine.execBarrierTimeout b x s
  | .cancel ag b x => Sys2Proof.Machine.execCancel ag b x s
  | .agreeTimeout b => Sys2Proof.Machine.execAgreeTimeout b s
  | .agreeCtlRelease ag b n => Sys2Proof.Machine.execAgreeCtlRelease ag b n s
  | .agreeCtlAbandon ag b n => Sys2Proof.Machine.execAgreeCtlAbandon ag b n s
  | .agreeCtlTaint ag b => Sys2Proof.Machine.execAgreeCtlTaint ag b s
  | .lossIn ag b loss => Sys2Proof.Machine.execLossIn ag b loss s
  | .lossRestart ag b => Sys2Proof.Machine.execLossRestart ag b s
  | .nanTrapRearm ag b => Sys2Proof.Machine.execNanTrapRearm ag b s
  | .batchDeadline b x => Sys2Proof.Machine.execBatchDeadline b x s
  | .batchRelease b x => Sys2Proof.Machine.execBatchRelease b x s
  | .batchCfgFlush ag b x => Sys2Proof.Machine.execBatchCfgFlush ag b x s
  | .batchDisable ag b x => Sys2Proof.Machine.execBatchDisable ag b x s
  | .temperCmdStart n => Sys2Proof.Machine.execTemperCmdStart n s
  | .temperChunkPosted n => Sys2Proof.Machine.execTemperChunkPosted n s
  | .temperCmdComplete n => Sys2Proof.Machine.execTemperCmdComplete n s
  | .temperFault n => Sys2Proof.Machine.execTemperFault n s
  | .ladleCmdStart n upd => Sys2Proof.Machine.execLadleCmdStart n upd s
  | .ladleRowTimeout op => Sys2Proof.Machine.execLadleRowTimeout op s
  | .ladleCmdComplete n upd => Sys2Proof.Machine.execLadleCmdComplete n upd s
  | .hbmReadRequest a n syms mates ns who => Sys2Proof.Machine.execHbmReadRequest a n syms mates ns who s
  | .hbmWriteRequest a data syms mates who => Sys2Proof.Machine.execHbmWriteRequest a data syms mates who s
  | .bankRefresh k p bank waiting => Sys2Proof.Machine.execBankRefresh k p bank waiting s
  | .scrubRead at' syms mates last => Sys2Proof.Machine.execScrubRead at' syms mates last s
  | .pseudoChannelLoss k p channel => Sys2Proof.Machine.execPseudoChannelLoss k p channel s
  | .requestHoldRelease k => Sys2Proof.Machine.execRequestHoldRelease k s
  | .rebuildComplete k => Sys2Proof.Machine.execRebuildComplete k s
  | .hbmSpareCopy ag k p => Sys2Proof.Machine.execHbmSpareCopy ag k p s
  | .plannedCopyComplete k => Sys2Proof.Machine.execPlannedCopyComplete k s
  | .cisternScrub kc off errs => Sys2Proof.Machine.execCisternScrub kc off errs s
  | .cisternBankTestDone kc bank row => Sys2Proof.Machine.execCisternBankTestDone kc bank row s
  | .urgentMaxRead ag k => Sys2Proof.Machine.execUrgentMaxRead ag k s
  | .frameTransmit p => Sys2Proof.Machine.execFrameTransmit p s
  | .frameReceive p frame ctl link ber crc errs unlocked ends tail => Sys2Proof.Machine.execFrameReceive p frame ctl link ber crc errs unlocked ends tail s
  | .remap p lane w f kind same => Sys2Proof.Machine.execRemap p lane w f kind same s
  | .remapAck p lane w f refuse => Sys2Proof.Machine.execRemapAck p lane w f refuse s
  | .laneDown p lane => Sys2Proof.Machine.execLaneDown p lane s
  | .dark p cause lead => Sys2Proof.Machine.execDark p cause lead s
  | .idCtl p coord port fec spares ver startup => Sys2Proof.Machine.execIdCtl p coord port fec spares ver startup s
  | .cal p w action => Sys2Proof.Machine.execCal p w action s
  | .lossOfLight p => Sys2Proof.Machine.execLossOfLight p s
  | .laserLightDrop p w => Sys2Proof.Machine.execLaserLightDrop p w s
  | .lightDetected p => Sys2Proof.Machine.execLightDetected p s
  | .acquisitionComplete p rtt bers losses waves peer => Sys2Proof.Machine.execAcquisitionComplete p rtt bers losses waves peer s
  | .retrain ag p => Sys2Proof.Machine.execRetrain ag p s
  | .laserEvaluation p w fade fadePred berPred power bias headroom rx => Sys2Proof.Machine.execLaserEvaluation p w fade fadePred berPred power bias headroom rx s
  | .remapGo ag p lane => Sys2Proof.Machine.execRemapGo ag p lane s
  | .remapSwitch p => Sys2Proof.Machine.execRemapSwitch p s
  | .remapRetry p => Sys2Proof.Machine.execRemapRetry p s
  | .returnGo ag p w => Sys2Proof.Machine.execReturnGo ag p w s
  | .laserReturnDone p w fade ber => Sys2Proof.Machine.execLaserReturnDone p w fade ber s
  | .weirMeasure ag p kind w v integ => Sys2Proof.Machine.execWeirMeasure ag p kind w v integ s
  | .weirMeasureDone p value enob => Sys2Proof.Machine.execWeirMeasureDone p value enob s
  | .applyMap ag => Sys2Proof.Machine.execApplyMap ag s
  | .barMap ag => Sys2Proof.Machine.execBarMap ag s
  | .sluiceSwitch => Sys2Proof.Machine.execSluiceSwitch s
  | .fountainDieLoss d => Sys2Proof.Machine.execFountainDieLoss d s
  | .linkPacketStart p uOver => Sys2Proof.Machine.execLinkPacketStart p uOver s
  | .routerForward w payload via rev hop => Sys2Proof.Machine.execRouterForward w payload via rev hop s
  | .putPacket w payload via => Sys2Proof.Machine.execPutPacket w payload via s
  | .getPacket w via => Sys2Proof.Machine.execGetPacket w via s
  | .getOrdRelease nth => Sys2Proof.Machine.execGetOrdRelease nth s
  | .getRespPacket w payload via => Sys2Proof.Machine.execGetRespPacket w payload via s
  | .aaddIPacket w payload via => Sys2Proof.Machine.execAaddIPacket w payload via s
  | .aaddFPacket w payload via => Sys2Proof.Machine.execAaddFPacket w payload via s
  | .reducePutPacket w payload via => Sys2Proof.Machine.execReducePutPacket w payload via s
  | .mcastPutPacket w payload via => Sys2Proof.Machine.execMcastPutPacket w payload via s
  | .ackPacket w via => Sys2Proof.Machine.execAckPacket w via s
  | .ackTimeout b coord dbasin run => Sys2Proof.Machine.execAckTimeout b coord dbasin run s
  | .detourSet d => Sys2Proof.Machine.execDetourSet d s
  | .holeWrite ag j v => Sys2Proof.Machine.execHoleWrite ag j v s
  | .relocWrite ag j v => Sys2Proof.Machine.execRelocWrite ag j v s
  | .watchdogExpiry b => Sys2Proof.Machine.execWatchdogExpiry b s
  | .quench ag b => Sys2Proof.Machine.execQuench ag b s
  | .quenchComplete b good => Sys2Proof.Machine.execQuenchComplete b good s
  | .basinReturn ag b => Sys2Proof.Machine.execBasinReturn ag b s
  | .riskUpdate ce ue cw droop => Sys2Proof.Machine.execRiskUpdate ce ue cw droop s
  | .wearSample j days low unit samples k p => Sys2Proof.Machine.execWearSample j days low unit samples k p s
  | .replicaEnable ag v => Sys2Proof.Machine.execReplicaEnable ag v s
  | .secureGo ag b step => Sys2Proof.Machine.execSecureGo ag b step s
  | .secureAbort ag b => Sys2Proof.Machine.execSecureAbort ag b s
  | .copyOutStart b => Sys2Proof.Machine.execCopyOutStart b s
  | .copyOutCommit b => Sys2Proof.Machine.execCopyOutCommit b s
  | .streamCommit b good => Sys2Proof.Machine.execStreamCommit b good s
  | .stop ag b => Sys2Proof.Machine.execStop ag b s
  | .rewind ag b step => Sys2Proof.Machine.execRewind ag b step s
  | .send ag b step target => Sys2Proof.Machine.execSend ag b step target s
  | .adopt ag b step => Sys2Proof.Machine.execAdopt ag b step s
  | .recoverComplete b twice lost => Sys2Proof.Machine.execRecoverComplete b twice lost s
  | .clusterIdle kc => Sys2Proof.Machine.execClusterIdle kc s
  | .clusterWake kc q => Sys2Proof.Machine.execClusterWake kc q s
  | .wake ag b => Sys2Proof.Machine.execWake ag b s
  | .pllLocked kc => Sys2Proof.Machine.execPllLocked kc s
  | .boostStep n less => Sys2Proof.Machine.execBoostStep n less s
  | .governorUpdate terms energy hbm avg last => Sys2Proof.Machine.execGovernorUpdate terms energy hbm avg last s
  | .thermalSample n rs => Sys2Proof.Machine.execThermalSample n rs s
  | .droopEvent n => Sys2Proof.Machine.execDroopEvent n s
  | .droopRecover n => Sys2Proof.Machine.execDroopRecover n s
  | .grantRedistribute gs shared => Sys2Proof.Machine.execGrantRedistribute gs shared s
  | .peakRead ag => Sys2Proof.Machine.execPeakRead ag s
  | .slackRead ag => Sys2Proof.Machine.execSlackRead ag s
  | .nfSumRead ag b => Sys2Proof.Machine.execNfSumRead ag b s
  | .eventCounterWrite ag off sat => Sys2Proof.Machine.execEventCounterWrite ag off sat s
  | .volumeClear ag off => Sys2Proof.Machine.execVolumeClear ag off s
  | .snapTake ag off => Sys2Proof.Machine.execSnapTake ag off s
  | .snapRelease ag off => Sys2Proof.Machine.execSnapRelease ag off s
  | .snapAllTake ag => Sys2Proof.Machine.execSnapAllTake ag s
  | .snapAllRelease ag => Sys2Proof.Machine.execSnapAllRelease ag s
  | .primaryRailsInRange => Sys2Proof.Machine.execPrimaryRailsInRange s
  | .configurationSpaceWrite w => Sys2Proof.Machine.execConfigurationSpaceWrite w s
  | .atsInvalidateRequest func pasid page count => Sys2Proof.Machine.execAtsInvalidateRequest func pasid page count s
  | .mailboxCommandDone ag => Sys2Proof.Machine.execMailboxCommandDone ag s
  | .calibrationCommit p losses => Sys2Proof.Machine.execCalibrationCommit p losses s
  | .testAccessPort op => Sys2Proof.Machine.execTestAccessPort op s

end Sys2Proof.Machine
end

