-- ==== Sys2Proof/Safety.lean ====
section
/-! DEFINITION. The terms in which claims about the block are stated: what a command answers, what it leaves alone, and the
invariants of the security unit and of memory. -/
namespace Sys2Proof.Machine

/-- A command answers a next state of which `P` holds. -/
def Gives (i : Instr) (s : State) (P : State → Prop) : Prop := ∃ t, exec i s = .next t ∧ P t

/-- Nothing but registers differs. -/
def OnlyRegs (s t : State) : Prop := t = { s with chip := { s.chip with regs := t.chip.regs } }

/-- Nothing but registers and what has left the part differs. -/
def RegsAndOut (s t : State) : Prop := t = { s with chip := { s.chip with regs := t.chip.regs, out := t.chip.out } }

/-- Nothing but registers, what has left the part and interrupts held through a takeover differs: what firing events may touch. -/
def RegsAndEvents (s t : State) : Prop :=
  t = { s with chip := { s.chip with regs := t.chip.regs, out := t.chip.out, irqs := t.chip.irqs } }

/-- Every register but those at the listed window offsets holds what it held. -/
def OtherRegs (keys : List Nat) (s t : State) : Prop := ∀ r : Reg, r.key ∉ keys → t.chip.word r = s.chip.word r

/-- Every register outside the event routes and the listed ones holds what it held. -/
def OtherThanEvents (keys : List Nat) (s t : State) : Prop :=
  ∀ r : Reg, r.key ∉ keys → (∀ e < 512, r.key ≠ (HUB_EVT_ROUTE e).key) → t.chip.word r = s.chip.word r

/-- The queue of commands and the security unit are as they were. -/
def QueueAndSec (s t : State) : Prop := t.pending = s.pending ∧ t.sec = s.sec

/-- Every byte outside the `n` bytes from `a` reads as it did. -/
def OtherBytes (a n : Nat) (s t : State) : Prop := ∀ x, (x < a ∨ a + n ≤ x) → t.chip.mem.read x = s.chip.mem.read x

/-- The part runs: it has power, and its registers answer (R435). -/
abbrev Running (s : State) : Prop := s.chip.pwr.on = true ∧ s.chip.get HUB_BOOT_STS.STATE = 3

/-- Whether the boot ROM, run with both keys where `power` and else with those that are there, finds a combination (R440, R447). -/
def State.bootFinds (s : State) (power : Bool) : Bool :=
  let t : State := { s with sec := { s.sec with keyA := s.sec.keyA || power, keyB := s.sec.keyB || power } }
  !(t.hubOut 0 && t.hubOut 1) && s.sec.choose.1.isSome

/-- An agent that may ring queue `q` of basin `b`: the physical function, or a VF bound to the basin with that queue (R421, R423). -/
abbrev State.rings (s : State) (ag : Agent) (b q : Nat) : Prop :=
  ag = .pf ∨ ∃ n, ag = .vf n ∧ s.chip.get (HUB_VF_BIND.BASIN n) = b ∧ bit (s.chip.word (HUB_VF_QMASK n)) q = true

/-- The security unit never holds a debug level above Vendor, and at level Vendor its key store is empty (R452). -/
abbrev Sec.Sound (x : Sec) : Prop := x.level ≤ 2 ∧ (x.level = 2 → x.keyA = false ∧ x.keyB = false)

/-- A risk threshold as it acts: half of it while EXPOSED (R375). -/
def Chip.riskAt (c : Chip) (f : RF) : Nat := if c.on ASY_RISK.EXPOSED then c.get f / 2 else c.get f

/-- A stack's controller serves a request for address `a` at once: the part runs, the stack is there and takes requests, none of its
requests are held, and the requester may reach the address (R240, R241, R249, R257). -/
abbrev State.Serves (s : State) (who : Reader) (a : Nat) (write : Bool) : Prop :=
  s.chip.pwr.on = true ∧ s.chip.isHbm a = true ∧ s.chip.takes (stackOf a) = true ∧ s.chip.mayHbm who a write = true
  ∧ stackOf a ∉ s.chip.held

/-- What the scrub of stack `k` finds to read (R258): data or parity of a pseudo-channel that is not lost, or the spare while unused. -/
def Chip.scrubs (c : Chip) (k : Nat) (at' : ScrubAt) : Bool :=
  match at' with
  | .data a => stackOf a == k && c.isHbm a && !c.pcLost k (c.pcOf a)
  | .parity a => stackOf a == k && c.isHbm a && c.guarded k && !c.pcLost k (parityPc a)
  | .spare _ => c.spareFree k && c.get (HBM_REBUILD.KIND k) == 0 && c.isHbm (k * 2 ^ 37)

/-- How a command reaches the part: an event of the running part, a supply, a register write or read by an agent at a window
offset, the test access port, or one that acts on the chip and the security unit together. -/
inductive CmdPath where
  | event
  | supply
  | regWrite (ag : Agent) (off : Nat)
  | regRead (ag : Agent) (off : Nat)
  | tap
  | whole
  deriving DecidableEq, Repr

/-- The path of each command. -/
def pathOfCommand (i : Instr) : CmdPath :=
  match i with
  | .standbyPowerOn _ _ => .supply
  | .standbyPowerLoss => .whole
  | .powerGood _ _ => .whole
  | .bootReady _ _ => .whole
  | .powerFail _ => .supply
  | .lastGaspReceive _ => .event
  | .perstAssert => .whole
  | .pfFlr => .event
  | .vfFlr _ => .event
  | .pcieLinkUp _ _ _ => .event
  | .pcieLinkDown => .event
  | .referenceLoss => .event
  | .referenceLossTimeout => .supply
  | .referenceReturn => .event
  | .hostBarAccess _ _ _ _ _ => .whole
  | .registerWrite _ _ _ => .whole
  | .doorbell _ _ _ _ => .event
  | .copyDoorbell _ _ _ => .event
  | .copyDescriptorStart _ _ => .event
  | .copyDescriptorComplete _ _ _ => .event
  | .copyResume ag _ => .regWrite ag 0
  | .vfBind ag _ _ _ => .regWrite ag 0
  | .notifyArm ag _ _ => .regWrite ag 0
  | .mctpMessage _ => .whole
  | .statusCmd _ => .whole
  | .logRead _ _ _ => .whole
  | .certs _ => .whole
  | .hallmark _ _ => .whole
  | .imageStage _ _ _ _ => .whole
  | .imageCommit _ _ => .whole
  | .liveUpdate _ _ => .whole
  | .cfgStage _ _ _ => .whole
  | .cfgCommit _ => .whole
  | .cfgRevert _ => .whole
  | .cfgRestore _ _ => .whole
  | .ownerSet _ _ => .whole
  | .resetCmd _ => .whole
  | .debugChallenge _ => .whole
  | .debugUnlock _ _ _ => .whole
  | .debugLock _ => .whole
  | .debugAccess _ _ => .whole
  | .knownGoodTimer => .whole
  | .partRecordCommit => .whole
  | .primaryHeartbeatLoss _ => .whole
  | .switchHub ag => .regWrite ag 0
  | .forgeHeartbeatLoss _ => .event
  | .forgeDieError _ => .event
  | .substitutionComplete _ => .event
  | .assayRetest _ _ => .event
  | .spareBackgroundTest _ _ => .event
  | .routerFailure _ => .event
  | .spareSubstitute ag _ _ => .regWrite ag 0
  | .spareReturn ag _ => .regWrite ag 0
  | .spareRetire ag _ => .regWrite ag 0
  | .spareCmdComplete => .event
  | .bundleIssue _ _ => .event
  | .loadDataReturn _ _ _ => .event
  | .tileLoadStart _ _ => .event
  | .tileLoadComplete _ => .event
  | .stagedStartEnd _ => .event
  | .passStart _ _ => .event
  | .passSumsComplete _ _ => .event
  | .arrayLineTestDone _ _ => .event
  | .plannedLineMapping _ _ _ => .event
  | .drainStart _ => .event
  | .drainComplete _ => .event
  | .lwaitRelease _ _ => .event
  | .latchOpApply _ _ => .event
  | .fenceComplete _ _ => .event
  | .msyncRelease _ _ => .event
  | .spoutCopyComplete _ => .event
  | .nop _ _ => .event
  | .launch _ _ => .event
  | .spoutPacket _ _ => .event
  | .temper _ _ _ => .event
  | .ladle _ _ _ => .event
  | .batchBind _ _ => .event
  | .batchAppend _ _ => .event
  | .batchFlush _ _ => .event
  | .sealStep _ _ => .event
  | .agree _ _ => .event
  | .barrier _ _ => .event
  | .pour _ _ => .event
  | .pourTake _ => .event
  | .kernelComplete _ => .event
  | .sideBudgetExpiry _ => .event
  | .queueRelease ag _ _ => .regWrite ag 0x20000
  | .queueDiscard ag _ _ => .regWrite ag 0x20000
  | .ctrlPacket _ _ => .event
  | .barrierTimeout _ _ => .event
  | .cancel ag _ _ => .regWrite ag 0x20000
  | .agreeTimeout _ => .event
  | .agreeCtlRelease ag _ _ => .regWrite ag 0x20000
  | .agreeCtlAbandon ag _ _ => .regWrite ag 0x20000
  | .agreeCtlTaint ag _ => .regWrite ag 0x20000
  | .lossIn ag _ _ => .regWrite ag 0x20000
  | .lossRestart ag _ => .regWrite ag 0x20000
  | .nanTrapRearm ag _ => .regWrite ag 0x20000
  | .batchDeadline _ _ => .event
  | .batchRelease _ _ => .event
  | .batchCfgFlush ag _ _ => .regWrite ag 0x20000
  | .batchDisable ag _ _ => .regWrite ag 0x20000
  | .temperCmdStart _ => .event
  | .temperChunkPosted _ => .event
  | .temperCmdComplete _ => .event
  | .temperFault _ => .event
  | .ladleCmdStart _ _ => .event
  | .ladleRowTimeout _ => .event
  | .ladleCmdComplete _ _ => .event
  | .hbmReadRequest _ _ _ _ _ _ => .event
  | .hbmWriteRequest _ _ _ _ _ => .event
  | .bankRefresh _ _ _ _ => .event
  | .scrubRead _ _ _ _ => .event
  | .pseudoChannelLoss _ _ _ => .event
  | .requestHoldRelease _ => .event
  | .rebuildComplete _ => .event
  | .hbmSpareCopy ag _ _ => .regWrite ag 0x20000
  | .plannedCopyComplete _ => .event
  | .cisternScrub _ _ _ => .event
  | .cisternBankTestDone _ _ _ => .event
  | .urgentMaxRead ag k => .regRead ag (HBM_URGENT_MAX k).key
  | .frameTransmit _ => .event
  | .frameReceive _ _ _ _ _ _ _ _ _ _ => .event
  | .remap _ _ _ _ _ _ => .event
  | .remapAck _ _ _ _ _ => .event
  | .laneDown _ _ => .event
  | .dark _ _ _ => .event
  | .idCtl _ _ _ _ _ _ _ => .event
  | .cal _ _ _ => .event
  | .lossOfLight _ => .event
  | .laserLightDrop _ _ => .event
  | .lightDetected _ => .event
  | .acquisitionComplete _ _ _ _ _ _ => .event
  | .retrain ag _ => .regWrite ag 0x20000
  | .laserEvaluation _ _ _ _ _ _ _ _ _ => .event
  | .remapGo ag _ _ => .regWrite ag 0x20000
  | .remapSwitch _ => .event
  | .remapRetry _ => .event
  | .returnGo ag _ _ => .regWrite ag 0x20000
  | .laserReturnDone _ _ _ _ => .event
  | .weirMeasure ag _ _ _ _ _ => .regWrite ag 0x20000
  | .weirMeasureDone _ _ _ => .event
  | .applyMap ag => .regWrite ag 0x20000
  | .barMap ag => .regWrite ag 0x20000
  | .sluiceSwitch => .event
  | .fountainDieLoss _ => .event
  | .linkPacketStart _ _ => .event
  | .routerForward _ _ _ _ _ => .event
  | .putPacket _ _ _ => .event
  | .getPacket _ _ => .event
  | .getOrdRelease _ => .event
  | .getRespPacket _ _ _ => .event
  | .aaddIPacket _ _ _ => .event
  | .aaddFPacket _ _ _ => .event
  | .reducePutPacket _ _ _ => .event
  | .mcastPutPacket _ _ _ => .event
  | .ackPacket _ _ => .event
  | .ackTimeout _ _ _ _ => .event
  | .detourSet _ => .event
  | .holeWrite ag _ _ => .regWrite ag 0x20000
  | .relocWrite ag _ _ => .regWrite ag 0x20000
  | .watchdogExpiry _ => .event
  | .quench ag _ => .regWrite ag 0x20000
  | .quenchComplete _ _ => .event
  | .basinReturn ag _ => .regWrite ag 0x20000
  | .riskUpdate _ _ _ _ => .event
  | .wearSample _ _ _ _ _ _ _ => .event
  | .replicaEnable ag _ => .regWrite ag 0x20000
  | .secureGo ag _ _ => .regWrite ag 0x20000
  | .secureAbort ag _ => .regWrite ag 0x20000
  | .copyOutStart _ => .event
  | .copyOutCommit _ => .event
  | .streamCommit _ _ => .event
  | .stop ag _ => .regWrite ag 0x20000
  | .rewind ag _ _ => .regWrite ag 0x20000
  | .send ag _ _ _ => .regWrite ag 0x20000
  | .adopt ag _ _ => .regWrite ag 0x20000
  | .recoverComplete _ _ _ => .event
  | .clusterIdle _ => .event
  | .clusterWake _ _ => .event
  | .wake ag _ => .regWrite ag 0x20000
  | .pllLocked _ => .event
  | .boostStep _ _ => .event
  | .governorUpdate _ _ _ _ _ => .event
  | .thermalSample _ _ => .supply
  | .droopEvent _ => .event
  | .droopRecover _ => .event
  | .grantRedistribute _ _ => .event
  | .peakRead ag => .regRead ag PWR_STS.key
  | .slackRead ag => .regRead ag PWR_SLACK.key
  | .nfSumRead ag b => .regRead ag (ASY_NF_SUM b).key
  | .eventCounterWrite ag off _ => .regWrite ag off
  | .volumeClear ag off => .regWrite ag off
  | .snapTake ag off => .regWrite ag off
  | .snapRelease ag off => .regWrite ag off
  | .snapAllTake ag => .regWrite ag 0x20000
  | .snapAllRelease ag => .regWrite ag 0x20000
  | .primaryRailsInRange => .whole
  | .configurationSpaceWrite _ => .event
  | .atsInvalidateRequest _ _ _ _ => .event
  | .mailboxCommandDone _ => .whole
  | .calibrationCommit _ _ => .event
  | .testAccessPort _ => .tap

/-- Commands that may touch the security unit: supplies and resets, mailbox commands, takeovers, and what carries one of them. -/
def reachesSec (i : Instr) : Bool :=
  match i with
  | .switchHub _ => true
  | i => decide (pathOfCommand i = .whole)

/-- A mailbox command of agent `ag` is executed: it may give one, its path is free, and the executor does not turn the opcode away
(R440, R446). -/
abbrev State.Accepts (s : State) (ag : Agent) (op : Nat) : Prop :=
  s.mayCommand ag = true ∧ (s.sec.path ag).run = none ∧ s.turned op = none

/-- A command of agent `ag` runs with this result and response. -/
def Sec.Runs (x : Sec) (ag : Agent) (op res : Nat) (resp : Option (List Byte)) : Prop :=
  ∃ r, (x.path ag).run = some r ∧ r.op = op ∧ r.result = res ∧ r.resp = resp

/-- The policy set `slot` has come into force (R443, R445): it stands in the slot that was not active, M6 is extended with it, and on a
running part with a combination it is that combination's policy, its version shown. -/
def State.InForce (s t : State) (slot : List Byte) : Prop :=
  t.sec.nor.reads (s.sec.target policyArea) (policyArea.len - 64) = slot ∧ (6, sha3 slot, s.chip.ticks) ∈ t.sec.mlog
  ∧ (∀ k, s.chip.pwr.on = true → s.sec.combo = some k → (∃ k2, t.sec.combo = some k2 ∧ k2.policy = polBytes slot)
      ∧ t.chip.get HUB_CFG_STS.ACTIVE_VER = Config.policyHdr (polBytes slot) 1 % 2 ^ HUB_CFG_STS.ACTIVE_VER.len)

/-- The owner record `r` has come into force (R444): it stands in the slot that was not, and M7 is extended with it. -/
def State.OwnerNow (s t : State) (r : List Byte) : Prop :=
  t.sec.nor.reads (s.sec.target ownerArea) (ownerArea.len - 64) = r ∧ t.sec.mlog = s.sec.mlog ++ [(7, sha3 r, s.chip.ticks)]

/-- Packet `p`, of type `ty`, is next in queue `q` of basin `b`, which may start packets and has none started, inserted or replayed. -/
abbrev State.Next (s : State) (b q ty p : Nat) : Prop :=
  s.chip.pwr.on = true ∧ s.chip.qLive b q = true ∧ s.chip.get (BSN_Q_STS.HEAD b q) ≠ s.chip.get (BSN_Q_STS.TAIL b q)
  ∧ (s.chip.qu b q).ins = [] ∧ (s.chip.qu b q).win = [] ∧ (s.chip.qu b q).replay = none
  ∧ s.chip.ringPkt b q (s.chip.get (BSN_Q_STS.HEAD b q)) = some p ∧ bits p 0 8 = ty ∧ ty ≤ 11

/-- The queue has halted with an error code at the packet at HEAD, which stays (R161, R163). -/
def Halted (b q code : Nat) (s t : State) : Prop :=
  t.chip.get (BSN_Q_STS.STATE b q) = 4 ∧ t.chip.get (BSN_Q_STS.ERRCODE b q) = code ∧ t.chip.get (BSN_Q_STS.ERR b q) = 1
  ∧ t.chip.get (BSN_Q_STS.HEAD b q) = s.chip.get (BSN_Q_STS.HEAD b q)
  ∧ (t.chip.qu b q).haltPkt = some (s.chip.get (BSN_Q_STS.HEAD b q))

/-- No die of these clusters is held by a clamp or a droop. -/
abbrev Chip.Unheld (c : Chip) (cls : List Nat) : Prop :=
  ∀ kc ∈ cls, ((Map.get {} c.dies (kc / 4) : DieP).clamp || (Map.get {} c.dies (kc / 4) : DieP).droop) = false

/-- Packet `p`, of type `ty`, is next in queue `q` of basin `b`, its fields are in range, and it may start. -/
abbrev State.AtHead (s : State) (b q ty p : Nat) : Prop :=
  s.Next b q ty p ∧ s.chip.pktOk b q p = true ∧ s.chip.pktReady b q (s.chip.get (BSN_Q_STS.HEAD b q)) p = true

/-- The packet at HEAD started, completed and retired. -/
def Retires (b q : Nat) (s t : State) : Prop :=
  t.chip.get (BSN_Q_STS.HEAD b q) = (s.chip.get (BSN_Q_STS.HEAD b q) + 1) % 65536
  ∧ t.chip.get (BSN_Q_STS.RETIRED b q) = (s.chip.get (BSN_Q_STS.HEAD b q) + 1) % 65536 ∧ (t.chip.qu b q).win = []

/-- A good packet of opcode `opc` reaches its end point: from a port, or as the first of its kind on the mesh (R14, R309). -/
abbrev State.Comes (s : State) (w opc : Nat) (d : List Byte) (via : Option Nat) : Prop :=
  s.chip.pwr.on = true ∧ s.chip.comes w d via none = true ∧ hdrOk w = true ∧ (decHdr w).opc = opc ∧ (decHdr w).dbasin ≤ 5

/-- The header by which a package routes: one from a storage port is relocated first (R349). -/
def Chip.fwdHdr (c : Chip) (w : Nat) (via : Option (Fin 8)) : Hdr :=
  match via with
  | some p => if 6 ≤ (p : Nat) then { decHdr w with dst := c.relocate (decHdr w).dst } else decHdr w
  | none => decHdr w

/-- A good packet of opcode `opc` with data `d` arrives next in its flow, is not turned away, and lands its `n` bytes at `pl`, where
they can be written, clear of its flow's entry in the receive table. -/
abbrev State.Arrives (s : State) (w opc : Nat) (d : List Byte) (via : Option Nat) (pl : Place) (n : Nat) : Prop :=
  s.Comes w opc d via ∧ (decHdr w).len = d.length
  ∧ s.chip.flowEnt (decHdr w).dbasin (decHdr w).flowOf true = (decHdr w).seq
  ∧ s.chip.turnAway (decHdr w).dbasin (decHdr w) via = none
  ∧ s.chip.landing (decHdr w).dbasin (decHdr w).addr n = some pl ∧ inLatches pl n = false
  ∧ (∀ k, pl = .hbm k → s.chip.partPoison k n = false) ∧ (∀ kc off, pl = .cis kc off → (s.chip.cl kc).tags = [])
  ∧ (∀ k, s.chip.flowPlace (decHdr w).dbasin (decHdr w).flowOf true = some k → k + 2 ≤ pl.key ∨ pl.key + n ≤ k)

/-- The packet was performed once: its flow expects the next number, the last thing to leave is its ACK, and every byte outside the
`n` at `pl` and the flow's entry reads as before. -/
def Acked (w : Nat) (pl : Place) (n : Nat) (s t : State) : Prop :=
  t.chip.flowEnt (decHdr w).dbasin (decHdr w).flowOf true = ((decHdr w).seq + 1) % 65536
  ∧ t.chip.out.head? = some (Out.packet ({ t.chip.answerHdr (decHdr w).dbasin (decHdr w) 7 false with
      seq := (decHdr w).seq, xid := if (decHdr w).opc = 6 then (decHdr w).xid else 0 } : Hdr).enc [])
  ∧ (∀ x, (x < pl.key ∨ pl.key + n ≤ x) →
      (∀ k, s.chip.flowPlace (decHdr w).dbasin (decHdr w).flowOf true = some k → x < k ∨ k + 2 ≤ x) →
      t.chip.mem.read x = s.chip.mem.read x)
  ∧ QueueAndSec s t

end Sys2Proof.Machine
end

