-- ==== Sys2Proof/Certificates/Slice0/Obligations.lean ====
section
/-! DEFINITION. The statements for the provers. Frames and results are stated together, with exec's answer as the conclusion. -/
open Sys2Proof Sys2Proof.Machine

/-- A cistern by role lies at its basin, slot and cluster, and its address follows the role. For every basin, slot, cluster and offset of a cistern window, the address of R36 names the cistern of that cluster of the die that holds the slot, at that offset, where the offset is below 24 MiB and the slot holds a die, and no place otherwise. When another die comes to hold the slot, the same address names that die's cistern. -/
def Obligations.CisternsAreReachedByRole : Prop :=
  (∀ (c : Chip) (b sl k off : Nat), b < 6 → sl < 5 → k < 4 → off < 0x2000000 →
    c.place (0x20000000000 + b * 0x40000000 + sl * 0x8000000 + k * 0x2000000 + off) =
      (if c.slotDie b sl < 26 ∧ off < 0x1800000 then some (.cis (4 * c.slotDie b sl + k) off) else none))
  ∧ (∀ (c : Chip) (b sl n st k off : Nat), b < 6 → sl < 5 → k < 4 → off < 0x1800000 → n < 26 →
    (c.placeDie b sl n st).place (0x20000000000 + b * 0x40000000 + sl * 0x8000000 + k * 0x2000000 + off) = some (.cis (4 * n + k) off))

/-- E8M0 codes are powers of two, FP32 converts to them by its exponent, and a NaN scale makes what it scales NaN. An E8M0 code e up to 0xFE has the value 2^(e − 127), and so no sign, zero or infinity; 0xFF is NaN. Converting an FP32 code, of either sign and in every mode, gives 0x00 for a zero or subnormal, 0xFF for a NaN or infinity, and else the code c with 2^(c − 127) ≤ |x| < 2^(c − 126), which lies within 0x00 to 0xFE. A product with a NaN scale is NaN. -/
def Obligations.ScaleCodesAndConversion : Prop :=
  (∀ e ≤ 0xFE, decodeVal .e8m0 false e = .fin false 1 ((e : Int) - 127)) ∧ decodeVal .e8m0 false 0xFF = .nan
  ∧ (∀ (x : Nat) (signed : Bool) (o : Ovf) (r : Rnd), x < 2 ^ 32 →
      (bits x 23 8 = 0 → (convert .e8m0 signed o r (fp32 x)).code = 0x00)
      ∧ (bits x 23 8 = 255 → (convert .e8m0 signed o r (fp32 x)).code = 0xFF)
      ∧ (bits x 23 8 ≠ 0 → bits x 23 8 ≠ 255 → ∃ (neg : Bool) (m : Nat) (e : Int), fp32 x = .fin neg m e ∧
          2 ^ 23 ≤ m ∧ m < 2 ^ 24 ∧ ((convert .e8m0 signed o r (fp32 x)).code : Int) = e + 23 + 127
          ∧ (convert .e8m0 signed o r (fp32 x)).code ≤ 0xFE))
  ∧ (∀ v : Val, (decodeVal .e8m0 false 0xFF).mul v = .nan ∧ v.mul (decodeVal .e8m0 false 0xFF) = .nan)

/-- ASY_CTR_EV records the first source of event 12 and is re-armed by writing VALID. At reset no source is recorded. An event counter that passes its maximum, and a volume counter whose EPOCH advances, while VALID is 0, record their window offset and their kind (0 SAT set, 1 EPOCH advanced) and set VALID; while VALID is 1 the register keeps what it holds. A write that it answers clears VALID where its bit 63 is 1, and changes neither OFFSET nor KIND nor any other register. -/
def Obligations.CounterEventSourceIsRecorded : Prop :=
  State.reset.chip.word ASY_CTR_EV = 0
  ∧ (∀ (c : Chip) (r : Reg) (n : Nat), r.key < 2 ^ 26 → r.key ≠ ASY_CTR_EV.key → (∀ e < 512, r.key ≠ (HUB_EVT_ROUTE e).key) →
      bit (c.word r) 63 = false → 2 ^ 48 ≤ bits (c.word r) 0 48 + n → c.get ASY_CTR_EV.VALID = 0 →
        (c.count r n).get ASY_CTR_EV.OFFSET = r.key ∧ (c.count r n).get ASY_CTR_EV.KIND = 0 ∧ (c.count r n).get ASY_CTR_EV.VALID = 1)
  ∧ (∀ (c : Chip) (r : Reg) (ep : RF) (n : Nat), r.key < 2 ^ 26 → r.key ≠ ASY_CTR_EV.key → ep.reg.key ≠ ASY_CTR_EV.key →
      2 ^ 64 ≤ c.word r + ceilDiv n 64 → c.get ASY_CTR_EV.VALID = 0 →
        (c.volume r ep n).get ASY_CTR_EV.OFFSET = r.key ∧ (c.volume r ep n).get ASY_CTR_EV.KIND = 1 ∧ (c.volume r ep n).get ASY_CTR_EV.VALID = 1)
  ∧ (∀ (c : Chip) (off kind : Nat), c.get ASY_CTR_EV.VALID = 1 → (c.ctrEv off kind).word ASY_CTR_EV = c.word ASY_CTR_EV)
  ∧ (∀ (v : Word) (s : State), s.chip.answers ASY_CTR_EV.key = true → Gives (.registerWrite .pf ASY_CTR_EV.key v) s (fun t =>
      t.chip.get ASY_CTR_EV.VALID = (if bit v.toNat 63 then 0 else s.chip.get ASY_CTR_EV.VALID)
      ∧ t.chip.get ASY_CTR_EV.OFFSET = s.chip.get ASY_CTR_EV.OFFSET ∧ t.chip.get ASY_CTR_EV.KIND = s.chip.get ASY_CTR_EV.KIND
      ∧ OnlyRegs s t ∧ OtherRegs [ASY_CTR_EV.key] s t))

/-- A step runs the command at the front of the queue. For every command i, every state s and every list of further commands: a step of s with i at the front of its queue is exec of i on s with the rest as its queue. -/
def Obligations.StepRunsFrontCommand : Prop :=
  ∀ (i : Instr) (rest : List Instr) (s : State), step { s with pending := i :: rest } = exec i { s with pending := rest }

/-- An empty queue's step is one slow tick (the model's choice, log entry 6). On standby power a step on an empty queue answers a next state in which HUB_TICKS has gone up by one, and neither the queue, the security unit, memory nor the part's outputs differ. That a step on an empty queue is a slow tick is the model's choice (log entry 6). -/
def Obligations.EmptyQueueStepIsOneSlowTick : Prop :=
  ∀ s : State, s.pending = [] → s.chip.pwr.vsb = true →
    ∃ t, step s = .next t ∧ t.chip.get HUB_TICKS.TICKS = (s.chip.get HUB_TICKS.TICKS + 1) % 2 ^ 64
      ∧ QueueAndSec s t ∧ t.chip.mem = s.chip.mem ∧ t.chip.out = s.chip.out ∧ t.chip.kerns = s.chip.kerns

/-- No command's effect reaches the queue of commands. Whatever command runs, if exec answers a next state, that state's queue of waiting commands is the one it was given; and a step leaves exactly the rest of the queue. -/
def Obligations.QueueIsFirstInFirstOut : Prop :=
  (∀ (i : Instr) (s t : State), exec i s = .next t → t.pending = s.pending)
  ∧ (∀ s t : State, step s = .next t → t.pending = s.pending.tail)

/-- Every step keeps the debug level legal and the key store empty at level Vendor. For every state whose security unit is sound (the debug level is at most 2, and at level 2 both hubs' keys are gone), if a step answers a next state, its security unit is sound too. It says of every command, from every such state, what R452 makes of level Vendor's cost: the key store cleared first. -/
def Obligations.SecurityStaysSound : Prop :=
  ∀ s t : State, s.sec.Sound → step s = .next t → t.sec.Sound

/-- At reset every register holds its reset value, nothing waits, and the security unit is sound. In the state after reset every register reads the reset value that its row gives it (zero where the spec gives none: the model's choice, log entry 5), no command waits, no supply is there, and memory lists nothing. The security unit of the state after reset is sound: level 0. -/
def Obligations.ResetState : Prop :=
  ((∀ r : Reg, State.reset.chip.word r = r.rst % 2 ^ 64)
  ∧ State.reset.pending = [] ∧ State.reset.chip.pwr.vsb = false ∧ State.reset.chip.pwr.on = false ∧ State.reset.chip.mem.cells = [])
  ∧ (State.reset.sec.Sound)

/-- Only supplies, resets, hub takeovers, mailbox commands and their carriers reach the security unit. For every command outside those that supply, boot or reset the part, hand over between hubs, run a mailbox command or carry one (host access, register write, sideband message, debug and maintenance commands), a next state has the same non-volatile store, keys, measurements, debug level, policy and command paths. -/
def Obligations.OnlyNamedCommandsReachTheSecurityUnit : Prop :=
  ∀ (i : Instr) (s t : State), reachesSec i = false → exec i s = .next t → t.sec = s.sec

/-- Events without power, and register commands that are not answered, change nothing. For every command that is an event of the running part, if the part has no primary power then exec answers the state itself. For every command that is a write of a register by an agent, if the register does not answer that agent (before the part is Ready, in the Held state, or because no such function or basin exists) then exec answers the state itself. -/
def Obligations.UnheardCommandsChangeNothing : Prop :=
  (∀ (i : Instr) (s : State), pathOfCommand i = .event → s.chip.pwr.on = false → exec i s = .next s)
  ∧ (∀ (i : Instr) (s : State) (ag : Agent) (off : Nat), pathOfCommand i = .regWrite ag off → s.chip.hears ag off = false → exec i s = .next s)

/-- Standby power comes and goes, primary power fails, and a last gasp is stored. STANDBY_POWER_ON on a part without standby power applies it and samples the straps, and changes nothing else. STANDBY_POWER_LOSS takes both supplies away, and with them the stored last gasps and both hubs' keys; the non-volatile store stays. POWER_FAIL of a running part leaves it without power in STATE 0, its security unit and queue as they were. LAST_GASP_RECEIVE stores the message, and beyond event 5 changes nothing. -/
def Obligations.SuppliesComplete : Prop :=
  (∀ (f : BitVec 8) (n : BitVec 4) (s : State), s.chip.pwr.vsb = false →
    exec (.standbyPowerOn f n) s =
      .next { s with chip := { s.chip with pwr := { s.chip.pwr with vsb := true, feed := f.toNat, inst := n.toNat } } })
  ∧ (∀ s : State, s.chip.pwr.vsb = true → Gives .standbyPowerLoss s (fun t =>
      t.chip.pwr.vsb = false ∧ t.chip.pwr.on = false ∧ t.chip.gasps = [] ∧ t.sec.keyA = false ∧ t.sec.keyB = false
      ∧ t.sec.nor = s.sec.nor ∧ t.pending = s.pending))
  ∧ (∀ (k : Fin 3) (s : State), s.chip.pwr.on = true → Gives (.powerFail k) s (fun t =>
      t.chip.pwr.on = false ∧ t.chip.get HUB_BOOT_STS.STATE = 0 ∧ QueueAndSec s t))
  ∧ (∀ (g : Gasp) (s : State), s.chip.pwr.on = true → Gives (.lastGaspReceive g) s (fun t =>
      t = { s with chip := { s.chip with gasps := g :: s.chip.gasps, regs := t.chip.regs, out := t.chip.out, irqs := t.chip.irqs } }
      ∧ OtherThanEvents [] s t))

/-- The part starts when its supplies are there, becomes Ready, and takes PERST#. With standby power, POWER_GOOD (PWRGD low until now) and PRIMARY_RAILS_IN_RANGE start a part that is off and does not wait for PWRGD to fall: the part is on, STATE is 2, or 4 (Held) where the boot ROM finds no combination, the debug level is 0, both hubs have their keys, no challenge stands, and the store is as it was. BOOT_READY at STATE 2 ends start-up: STATE 3 and READY_MS, and of the security unit only the time of Ready changes. PERST# of a running part with PERST_FULL resets the package in the same way, keys aside; without it, the endpoint alone: its configuration is at its reset values, and its translations, copies and MSI-X masks are gone, while the queue and the security unit stay. -/
def Obligations.StartUpCompletes : Prop :=
  (∀ (f : BitVec 8) (n : BitVec 4) (s : State), s.chip.pwr.vsb = true → s.chip.pwr.pwrgd = false → s.chip.pwr.on = false →
    s.chip.pwr.needFall = false → Gives (.powerGood f n) s (fun t =>
      t.chip.pwr.on = true ∧ t.chip.get HUB_BOOT_STS.STATE = (if s.bootFinds true then 2 else 4) ∧ t.sec.level = 0 ∧ t.sec.keyA = true
      ∧ t.sec.keyB = true ∧ t.sec.challenge = none ∧ t.sec.nor = s.sec.nor))
  ∧ (∀ s : State, s.chip.pwr.vsb = true → s.chip.pwr.on = false → s.chip.pwr.needFall = false →
    Gives .primaryRailsInRange s (fun t =>
      t.chip.pwr.on = true ∧ t.chip.get HUB_BOOT_STS.STATE = (if s.bootFinds true then 2 else 4) ∧ t.sec.level = 0 ∧ t.sec.keyA = true
      ∧ t.sec.keyB = true ∧ t.sec.challenge = none ∧ t.sec.nor = s.sec.nor))
  ∧ (∀ (ms : Nat) (bad : List Nat) (s : State), s.chip.get HUB_BOOT_STS.STATE = 2 → Gives (.bootReady ms bad) s (fun t =>
      t.chip.get HUB_BOOT_STS.STATE = 3 ∧ t.chip.get HUB_BOOT_STS.READY_MS = ms % 2 ^ 18 ∧ t.sec.readyAt ≠ none
      ∧ t.sec = { s.sec with readyAt := t.sec.readyAt }))
  ∧ (∀ s : State, s.chip.pwr.on = true → s.chip.on HUB_RST_CTL.PERST_FULL = true → Gives .perstAssert s (fun t =>
      t.chip.get HUB_BOOT_STS.STATE = (if s.bootFinds false then 2 else 4) ∧ t.sec.level = 0 ∧ t.sec.challenge = none
      ∧ t.sec.nor = s.sec.nor))
  ∧ (∀ s : State, s.chip.pwr.on = true → s.chip.on HUB_RST_CTL.PERST_FULL = false → Gives .perstAssert s (fun t =>
      t.chip.pcie = { bar4 := s.chip.pcie.bar4Rst, bar4Rst := s.chip.pcie.bar4Rst, subsys := s.chip.pcie.subsys, totalVfs := s.chip.pcie.totalVfs }
      ∧ t.chip.copying = [] ∧ t.chip.atc = [] ∧ t.chip.msixMask = [] ∧ QueueAndSec s t))

/-- Function level resets, the PCIe link, and the reference clock. PF_FLR puts the endpoint's configuration and BAR4's base at their reset values, ends its copies, and keeps the link up. VF_FLR of an admin VF without queues or copy channels quenches its basin, where that is not being quenched. PCIE_LINK_UP shows the rate, width, mode and SLOW, ends the hold of interrupts, and keeps of the held ones those whose vectors are masked; PCIE_LINK_DOWN of a link that is up clears LINK_UP, sets DOWN_EV and changes nothing else. REFERENCE_LOSS of a running part whose reference is there records the slow tick of the loss and, beyond event 1, changes nothing. REFERENCE_RETURN forgets the loss and changes nothing else. REFERENCE_LOSS_TIMEOUT while the reference is away shuts a running part down: no power, STATE 5, THERMTRIP asserted, the queue and the security unit as they were; of a part that is off it changes nothing but THERMTRIP, asserted where a supply failed less than 300 slow ticks ago; and with the reference there it changes nothing. -/
def Obligations.EndpointAndReferenceEvents : Prop :=
  ((∀ s : State, s.chip.pwr.on = true → Gives .pfFlr s (fun t =>
      t.chip.pcie = { bar4 := s.chip.pcie.bar4Rst, bar4Rst := s.chip.pcie.bar4Rst, subsys := s.chip.pcie.subsys, totalVfs := s.chip.pcie.totalVfs }
      ∧ t.chip.copying = [] ∧ t.chip.word HUB_BAR4_BASE = 0x31000000000
      ∧ t.chip.get HUB_PCIE_STS.LINK_UP = s.chip.get HUB_PCIE_STS.LINK_UP ∧ QueueAndSec s t))
  ∧ (∀ (n : Fin 64) (s : State), s.chip.pwr.on = true → s.chip.get (HUB_VF_BIND.BASIN n) < 6 → s.chip.on (HUB_VF_BIND.ADMIN n) = true →
      s.chip.word (HUB_VF_QMASK n) = 0 → (∀ i < 16, s.chip.chFunc i ≠ n + 1) →
      s.chip.get (BSN_QUENCH.STATE (s.chip.get (HUB_VF_BIND.BASIN n))) ≠ 1 → Gives (.vfFlr n) s (fun t =>
        (t.chip.bs (s.chip.get (HUB_VF_BIND.BASIN n))).quenched = true ∧ QueueAndSec s t))
  ∧ (∀ (rate : Fin 8) (width : Fin 9) (flit : Bool) (s : State), s.chip.pwr.on = true →
      Gives (.pcieLinkUp rate width flit) s (fun t =>
        t.chip.get HUB_PCIE_STS.LINK_UP = 1 ∧ t.chip.get HUB_PCIE_STS.RATE = rate ∧ t.chip.get HUB_PCIE_STS.WIDTH = width
        ∧ t.chip.get HUB_PCIE_STS.FLIT = b2n flit
        ∧ t.chip.get HUB_PCIE_STS.SLOW = (if (rate : Nat) < 5 ∨ (width : Nat) < 8 then 1 else 0)
        ∧ t.chip.irqs = s.chip.irqs.filter (fun e => s.chip.msixMask.contains e) ∧ t.chip.irqHold = false
        ∧ OtherRegs [HUB_PCIE_STS.key] s t ∧ QueueAndSec s t ∧ t.chip.mem = s.chip.mem))
  ∧ (∀ s : State, s.chip.pwr.on = true → s.chip.on HUB_PCIE_STS.LINK_UP = true → Gives .pcieLinkDown s (fun t =>
      t.chip.get HUB_PCIE_STS.LINK_UP = 0 ∧ t.chip.get HUB_PCIE_STS.DOWN_EV = 1 ∧ OnlyRegs s t ∧ OtherRegs [HUB_PCIE_STS.key] s t)))
  ∧ ((∀ s : State, s.chip.pwr.on = true → s.chip.pwr.refLost = none → Gives .referenceLoss s (fun t =>
      t = { s with chip := { s.chip with pwr := { s.chip.pwr with refLost := some (s.chip.get HUB_TICKS.TICKS) }, regs := t.chip.regs, out := t.chip.out, irqs := t.chip.irqs } }
      ∧ OtherThanEvents [] s t))
  ∧ (∀ s : State, s.chip.pwr.on = true →
      exec .referenceReturn s = .next { s with chip := { s.chip with pwr := { s.chip.pwr with refLost := none } } })
  ∧ (∀ s : State, s.chip.pwr.on = true → s.chip.pwr.refLost ≠ none → Gives .referenceLossTimeout s (fun t =>
      t.chip.pwr.on = false ∧ t.chip.get HUB_BOOT_STS.STATE = 5 ∧ t.chip.pwr.thermtrip = true ∧ QueueAndSec s t))
  ∧ (∀ s : State, s.chip.pwr.on = false → s.chip.pwr.refLost ≠ none →
      exec .referenceLossTimeout s = .next { s with chip := { s.chip with pwr := { s.chip.pwr with
        thermtrip := s.chip.pwr.thermtrip || (match s.chip.pwr.failAt with
          | some k => decide (s.chip.get HUB_TICKS.TICKS < k + 300)
          | none => false) } } })
  ∧ (∀ s : State, s.chip.pwr.refLost = none → exec .referenceLossTimeout s = .next s))

/-- Until the part is Ready, PF BAR2 and BAR4 and every VF BAR refuse. Until the part is Ready, and so in the Held state, every read through PF BAR2 or BAR4 or any VF BAR is answered with Unsupported Request, every such write is dropped and logged, and nothing else changes. -/
def Obligations.HostAccessRefusedBeforeReady : Prop :=
  ∀ (ag : Agent) (bar off len : Nat) (data : Option (List Byte)) (s : State),
    ((ag = .pf ∧ (bar = 2 ∨ bar = 4)) ∨ (∃ n, ag = .vf n)) → s.chip.ready = false →
      exec (.hostBarAccess ag bar off len data) s =
        .next { s with chip := { s.chip with out := (if data.isSome then Out.dropped ag else Out.ur ag) :: s.chip.out } }

/-- PF BAR4 reads and writes HBM at BASE plus its offset. With the part Ready and memory space enabled, a PF BAR4 write at an offset within the BAR stores its bytes at HUB_BAR4_BASE.BASE plus the offset, where those bytes lie in one populated stack outside every quench region and no granule is poisoned; every other byte reads as before. A read answers the bytes there and changes nothing else. -/
def Obligations.HostReachesHbmThroughBar4 : Prop :=
  (∀ (off : Nat) (d : List Byte) (s : State), s.chip.ready = true → 0 ∈ s.chip.pcie.mse → off < 2 ^ s.chip.pcie.bar4 → d ≠ [] →
    s.chip.isHbm (s.chip.get HUB_BAR4_BASE.BASE + off) = true →
    s.chip.isHbm (s.chip.get HUB_BAR4_BASE.BASE + off + (d.length - 1)) = true →
    stackOf (s.chip.get HUB_BAR4_BASE.BASE + off) = stackOf (s.chip.get HUB_BAR4_BASE.BASE + off + (d.length - 1)) →
    s.chip.inQuench (s.chip.get HUB_BAR4_BASE.BASE + off) = false →
    s.chip.inQuench (s.chip.get HUB_BAR4_BASE.BASE + off + (d.length - 1)) = false → s.chip.poison = [] →
      Gives (.hostBarAccess .pf 4 off d.length (some d)) s (fun t =>
        t.chip.mem.reads (s.chip.get HUB_BAR4_BASE.BASE + off) d.length = d
        ∧ OtherBytes (s.chip.get HUB_BAR4_BASE.BASE + off) d.length s t
        ∧ t = { s with chip := { s.chip with mem := t.chip.mem, parityBad := t.chip.parityBad } }))
  ∧ (∀ (off n : Nat) (s : State), s.chip.ready = true → 0 ∈ s.chip.pcie.mse → off < 2 ^ s.chip.pcie.bar4 → n ≠ 0 →
    s.chip.isHbm (s.chip.get HUB_BAR4_BASE.BASE + off) = true →
    s.chip.isHbm (s.chip.get HUB_BAR4_BASE.BASE + off + (n - 1)) = true →
    stackOf (s.chip.get HUB_BAR4_BASE.BASE + off) = stackOf (s.chip.get HUB_BAR4_BASE.BASE + off + (n - 1)) →
    s.chip.poisoned (s.chip.get HUB_BAR4_BASE.BASE + off) n = false →
      exec (.hostBarAccess .pf 4 off n none) s = .next { s with chip := { s.chip with
        out := Out.bytes .pf (s.chip.mem.reads (s.chip.get HUB_BAR4_BASE.BASE + off) n) :: s.chip.out } })

/-- A register takes its writable field, sideband messages are served, and the test access port answers. A write of HUB_MBX_WIN by the physical function, where the register answers, sets PAGE and touches no other register. A sideband message that reads a sensor answers its reading, a control command is answered, a read of a register that answers and has no read effect answers its word, and a write of HUB_RST_CTL sets PERST_FULL. BYPASS, IDCODE and boundary scan answer a next state that differs only in what has left the part (and for boundary scan in the count of free values); full scan below level 2 changes nothing; at level 2, where the spec does not say what it does, it is refused by name. -/
def Obligations.RegisterAccessAndTestPort : Prop :=
  ((∀ (v : Word) (s : State), s.chip.answers HUB_MBX_WIN.key = true → Gives (.registerWrite .pf HUB_MBX_WIN.key v) s (fun t =>
      t.chip.get HUB_MBX_WIN.PAGE = v.toNat % 16 ∧ OnlyRegs s t ∧ OtherRegs [HUB_MBX_WIN.key] s t))
  ∧ (∀ (id v : Nat) (s : State), s.chip.pwr.vsb = true → s.chip.pwr.on = true → s.chip.sensor id = some v →
      exec (.mctpMessage (.sensor id)) s = .next { s with chip := { s.chip with out := Out.mctp (0 :: leBytes 8 v) :: s.chip.out } })
  ∧ (∀ (code : Nat) (s : State), s.chip.pwr.vsb = true →
      exec (.mctpMessage (.control code)) s =
        .next { s with chip := { s.chip with out := Out.mctp [0, BitVec.ofNat 8 code] :: s.chip.out } })
  ∧ (∀ s : State, s.chip.pwr.vsb = true → s.chip.answers HUB_RST_CTL.key = true →
      exec (.mctpMessage (.regRead HUB_RST_CTL.key)) s =
        .next { s with chip := { s.chip with out := Out.mctp (0 :: leBytes 8 (s.chip.get HUB_RST_CTL.PERST_FULL)) :: s.chip.out } })
  ∧ (∀ (v : Nat) (s : State), s.chip.pwr.vsb = true → s.chip.answers HUB_RST_CTL.key = true →
      Gives (.mctpMessage (.regWrite HUB_RST_CTL.key v)) s (fun t =>
        t.chip.get HUB_RST_CTL.PERST_FULL = v % 2 ∧ RegsAndOut s t ∧ OtherRegs [HUB_RST_CTL.key] s t)))
  ∧ ((∀ (bits : Nat) (s : State), exec (.testAccessPort (.bypass bits)) s = .next { s with chip := { s.chip with out := Out.tap bits :: s.chip.out } })
  ∧ (∀ s : State, exec (.testAccessPort .idcode) s = .next { s with chip := { s.chip with out := Out.tap Config.idcode :: s.chip.out } })
  ∧ (∀ (pins : Nat) (s : State), ∃ v, exec (.testAccessPort (.boundary pins)) s =
      .next { s with chip := { s.chip with out := Out.tap v :: s.chip.out, free := s.chip.free + 1 } })
  ∧ (∀ s : State, s.sec.level ≠ 2 → exec (.testAccessPort .fullScan) s = .next s)
  ∧ (∀ s : State, s.sec.level = 2 → exec (.testAccessPort .fullScan) s = .refused .fullScan))

/-- A doorbell publishes up to its TAIL, or is refused as R162 and R421 say. With the part Ready, a doorbell by the physical function, or by a VF bound to the basin with that queue: where the queue is enabled and its basin in service, a new TAIL within the ring and not behind the old one (both counted from RETIRED) sets TAIL, and makes an idle queue active where it is not HEAD; a TAIL past the ring's size or behind the old one sets ERR and ERRCODE 1 and leaves TAIL, HEAD and RETIRED; to a disabled queue, or a basin quenched or out of service, ERR and ERRCODE 2, and TAIL stays. Only the queue's status register changes, and on an error what event 4 of the basin may touch. A doorbell of a VF bound to the basin without that queue sets its DB_REFUSED and changes nothing else. Before the part is Ready, and from a VF not bound to the basin, a doorbell is dropped and logged, and changes nothing else. -/
def Obligations.DoorbellPublishes : Prop :=
  (∀ (ag : Agent) (b : Fin 6) (q : Fin 64) (tail : BitVec 16) (s : State), Running s → s.rings ag b q → s.chip.on (BSN_Q_CFG.ENABLE b q) = true →
    (s.chip.bs b).quenched = false → (s.chip.bs b).outOfService = false →
    subMod 16 tail.toNat (s.chip.get (BSN_Q_STS.RETIRED b q)) ≤ s.chip.qSize b q →
    subMod 16 (s.chip.get (BSN_Q_STS.TAIL b q)) (s.chip.get (BSN_Q_STS.RETIRED b q)) ≤ subMod 16 tail.toNat (s.chip.get (BSN_Q_STS.RETIRED b q)) →
      Gives (.doorbell ag b q tail) s (fun t =>
        t.chip.get (BSN_Q_STS.TAIL b q) = tail.toNat ∧ t.chip.get (BSN_Q_STS.HEAD b q) = s.chip.get (BSN_Q_STS.HEAD b q)
        ∧ t.chip.get (BSN_Q_STS.RETIRED b q) = s.chip.get (BSN_Q_STS.RETIRED b q)
        ∧ t.chip.get (BSN_Q_STS.STATE b q) = (if s.chip.get (BSN_Q_STS.STATE b q) = 0 ∧ tail.toNat ≠ s.chip.get (BSN_Q_STS.HEAD b q) then 1
            else s.chip.get (BSN_Q_STS.STATE b q))
        ∧ OnlyRegs s t ∧ OtherRegs [(BSN_Q_STS b q).key] s t))
  ∧ (∀ (ag : Agent) (b : Fin 6) (q : Fin 64) (tail : BitVec 16) (s : State), Running s → s.rings ag b q → s.chip.on (BSN_Q_CFG.ENABLE b q) = true →
    (s.chip.bs b).quenched = false → (s.chip.bs b).outOfService = false →
    (s.chip.qSize b q < subMod 16 tail.toNat (s.chip.get (BSN_Q_STS.RETIRED b q))
      ∨ subMod 16 tail.toNat (s.chip.get (BSN_Q_STS.RETIRED b q)) < subMod 16 (s.chip.get (BSN_Q_STS.TAIL b q)) (s.chip.get (BSN_Q_STS.RETIRED b q))) →
      Gives (.doorbell ag b q tail) s (fun t =>
        t.chip.get (BSN_Q_STS.ERR b q) = 1 ∧ t.chip.get (BSN_Q_STS.ERRCODE b q) = 1
        ∧ t.chip.get (BSN_Q_STS.TAIL b q) = s.chip.get (BSN_Q_STS.TAIL b q)
        ∧ t.chip.get (BSN_Q_STS.HEAD b q) = s.chip.get (BSN_Q_STS.HEAD b q)
        ∧ t.chip.get (BSN_Q_STS.RETIRED b q) = s.chip.get (BSN_Q_STS.RETIRED b q)
        ∧ RegsAndEvents s t ∧ OtherThanEvents [(BSN_Q_STS b q).key] s t))
  ∧ (∀ (ag : Agent) (b : Fin 6) (q : Fin 64) (tail : BitVec 16) (s : State), Running s → s.rings ag b q → (s.chip.on (BSN_Q_CFG.ENABLE b q) = false
      ∨ (s.chip.bs b).quenched = true ∨ (s.chip.bs b).outOfService = true) →
      Gives (.doorbell ag b q tail) s (fun t =>
        t.chip.get (BSN_Q_STS.ERR b q) = 1 ∧ t.chip.get (BSN_Q_STS.ERRCODE b q) = 2
        ∧ t.chip.get (BSN_Q_STS.TAIL b q) = s.chip.get (BSN_Q_STS.TAIL b q)
        ∧ RegsAndEvents s t ∧ OtherThanEvents [(BSN_Q_STS b q).key] s t))
  ∧ (∀ (n : Nat) (b : Fin 6) (q : Fin 64) (tail : BitVec 16) (s : State), Running s → s.chip.get (HUB_VF_BIND.BASIN n) = b →
    bit (s.chip.word (HUB_VF_QMASK n)) q = false → Gives (.doorbell (.vf n) b q tail) s (fun t =>
        t.chip.get (HUB_VF_BIND.DB_REFUSED n) = 1 ∧ OnlyRegs s t ∧ OtherRegs [(HUB_VF_BIND n).key] s t))
  ∧ (∀ (ag : Agent) (b : Fin 6) (q : Fin 64) (tail : BitVec 16) (s : State), s.chip.pwr.on = true →
    (s.chip.ready = false ∨ ∃ n, ag = .vf n ∧ s.chip.get (HUB_VF_BIND.BASIN n) ≠ b) →
      exec (.doorbell ag b q tail) s = .next { s with chip := { s.chip with out := Out.dropped ag :: s.chip.out } })

/-- Copy channels are rung, run descriptors, and resume. With the part Ready, a doorbell of an enabled copy channel by the physical function or the VF that owns it sets a TAIL that lies within the ring and not behind the old one (both counted from HEAD); HEAD stays. A channel in STATE 1 with no copy under way, whose function masters the bus without ATS and whose descriptor is not poisoned and in range, starts it: the copy of HEAD runs. A copy towards the host, without signal, poison or translated pages, sends its bytes to the host's address and moves HEAD on with LAST 0. RESUME by the physical function's side of a halted channel makes it active, or idle where nothing is left, and changes nothing else. -/
def Obligations.CopyChannelsComplete : Prop :=
  (∀ (ag : Agent) (ch : Fin 16) (tail : BitVec 16) (s : State), Running s → (ag = .pf ∨ ∃ n, ag = .vf n ∧ s.chip.chFunc ch = n + 1) →
    s.chip.on (HUB_HCOPY_CFG.ENABLE ch) = true → subMod 16 tail.toNat (s.chip.get (HUB_HCOPY_STS.HEAD ch)) ≤ s.chip.chSize ch →
    subMod 16 (s.chip.get (HUB_HCOPY_STS.TAIL ch)) (s.chip.get (HUB_HCOPY_STS.HEAD ch)) ≤ subMod 16 tail.toNat (s.chip.get (HUB_HCOPY_STS.HEAD ch)) →
      Gives (.copyDoorbell ag ch tail) s (fun t => t.chip.get (HUB_HCOPY_STS.TAIL ch) = tail.toNat
        ∧ t.chip.get (HUB_HCOPY_STS.HEAD ch) = s.chip.get (HUB_HCOPY_STS.HEAD ch) ∧ OnlyRegs s t ∧ OtherRegs [(HUB_HCOPY_STS ch).key] s t))
  ∧ (∀ (ch : Fin 16) (pages : List (Nat × Option Nat)) (k d : Nat) (s : State), s.chip.pwr.on = true →
    s.chip.get (HUB_HCOPY_STS.STATE ch) = 1 → s.chip.copying.find ch = none → s.chip.chFunc ch ≤ 64 →
    s.chip.chFunc ch ∈ s.chip.pcie.bme → s.chip.chFunc ch ∉ s.chip.pcie.ats → s.chip.chDesc ch = some (k, d) → s.chip.poisoned k 32 = false →
    4 ≤ bits d 128 32 → bits d 128 32 % 4 = 0 → s.chip.chPlace ch (bits d 64 48) (bits d 128 32) ≠ none →
      exec (.copyDescriptorStart ch pages) s = .next { s with chip := { s.chip with
        copying := Map.set s.chip.copying ch { head := s.chip.get (HUB_HCOPY_STS.HEAD ch) } } })
  ∧ (∀ (ch : Fin 16) (run : CopyRun) (k d a : Nat) (data : List Byte) (bad : Bool) (s : State), s.chip.pwr.on = true →
    Map.find s.chip.copying ch = some run → run.pages = [] →
    s.chip.chDesc ch = some (k, d) → s.chip.chPlace ch (bits d 64 48) (bits d 128 32) = some a → bit d 160 = true → bit d 182 = false →
    s.chip.poisoned a (bits d 128 32) = false →
      Gives (.copyDescriptorComplete ch data bad) s (fun t =>
        t.chip.out = Out.hostWrite (bits d 0 64) (s.chip.mem.reads a (bits d 128 32)) :: s.chip.out
        ∧ t.chip.get (HUB_HCOPY_STS.HEAD ch) = (s.chip.get (HUB_HCOPY_STS.HEAD ch) + 1) % 65536
        ∧ t.chip.get (HUB_HCOPY_STS.LAST ch) = 0 ∧ OtherRegs [(HUB_HCOPY_STS ch).key] s t ∧ QueueAndSec s t))
  ∧ (∀ (ag : Agent) (ch : Fin 16) (s : State), ag.pfSide = true → s.chip.hears ag 0 = true → s.chip.get (HUB_HCOPY_STS.STATE ch) = 2 →
      Gives (.copyResume ag ch) s (fun t =>
        t.chip.get (HUB_HCOPY_STS.STATE ch) =
          (if s.chip.get (HUB_HCOPY_STS.HEAD ch) = s.chip.get (HUB_HCOPY_STS.TAIL ch) then 0 else 1)
        ∧ OnlyRegs s t ∧ OtherRegs [(HUB_HCOPY_STS ch).key] s t))

/-- VFs are bound, notifications armed, configuration written, translations invalidated. A write of HUB_VF_BIND by the physical function's side that leaves the binding or makes one that R423 allows sets BASIN and ADMIN as written and clears REFUSED and DB_REFUSED where it writes 1; one that R423 does not allow sets REFUSED and leaves the binding and DB_REFUSED. A write of HUB_VF_QMASK that leaves the mask or that R423 allows sets it; any other sets REFUSED and leaves the binding. A notification is armed as written by the physical function's side, and by a VF bound to the basin that it names before and after. Of configuration writes: VF Enable, Memory Space Enable, Bus Master Enable and ATS Enable take their value; a BAR4 size of 2^28 to 2^42 bytes is taken, a new one with BASE 0; a read of a function's IDs answers them, of a VF that does not exist Unsupported Request; masking a vector lists it, and unmasking one with no message held takes it off the list and does nothing else. An invalidation leaves of the translations just those outside the named pages of the function and PASID, and is answered. -/
def Obligations.BindingsAndConfigurationComplete : Prop :=
  (∀ (ag : Agent) (n : Fin 64) (v : Word) (s : State), ag.pfSide = true → s.chip.hears ag 0 = true →
    ((bits v.toNat 0 3 = s.chip.get (HUB_VF_BIND.BASIN n) ∧ bit v.toNat 3 = s.chip.on (HUB_VF_BIND.ADMIN n))
      ∨ s.chip.bindOk n (bits v.toNat 0 3) (bit v.toNat 3) (s.chip.word (HUB_VF_QMASK n)) = true) →
      Gives (.vfBind ag n false v) s (fun t => t.chip.get (HUB_VF_BIND.BASIN n) = bits v.toNat 0 3
        ∧ t.chip.on (HUB_VF_BIND.ADMIN n) = bit v.toNat 3
        ∧ t.chip.get (HUB_VF_BIND.REFUSED n) = (if bit v.toNat 4 then 0 else s.chip.get (HUB_VF_BIND.REFUSED n))
        ∧ t.chip.get (HUB_VF_BIND.DB_REFUSED n) = (if bit v.toNat 5 then 0 else s.chip.get (HUB_VF_BIND.DB_REFUSED n))
        ∧ OnlyRegs s t ∧ OtherRegs [(HUB_VF_BIND n).key] s t))
  ∧ (∀ (ag : Agent) (n : Fin 64) (v : Word) (s : State), ag.pfSide = true → s.chip.hears ag 0 = true →
    (bits v.toNat 0 3 ≠ s.chip.get (HUB_VF_BIND.BASIN n) ∨ bit v.toNat 3 ≠ s.chip.on (HUB_VF_BIND.ADMIN n)) →
    s.chip.bindOk n (bits v.toNat 0 3) (bit v.toNat 3) (s.chip.word (HUB_VF_QMASK n)) = false →
      Gives (.vfBind ag n false v) s (fun t => t.chip.get (HUB_VF_BIND.REFUSED n) = 1
        ∧ t.chip.get (HUB_VF_BIND.BASIN n) = s.chip.get (HUB_VF_BIND.BASIN n) ∧ t.chip.get (HUB_VF_BIND.ADMIN n) = s.chip.get (HUB_VF_BIND.ADMIN n)
        ∧ t.chip.get (HUB_VF_BIND.DB_REFUSED n) = s.chip.get (HUB_VF_BIND.DB_REFUSED n) ∧ OnlyRegs s t ∧ OtherRegs [(HUB_VF_BIND n).key] s t))
  ∧ (∀ (ag : Agent) (n : Fin 64) (v : Word) (s : State), ag.pfSide = true → s.chip.hears ag 0 = true →
    (v.toNat = s.chip.word (HUB_VF_QMASK n) ∨ s.chip.bindOk n (s.chip.get (HUB_VF_BIND.BASIN n)) (s.chip.on (HUB_VF_BIND.ADMIN n)) v.toNat = true) →
      Gives (.vfBind ag n true v) s (fun t => t.chip.word (HUB_VF_QMASK n) = v.toNat ∧ OnlyRegs s t ∧ OtherRegs [(HUB_VF_QMASK n).key] s t))
  ∧ (∀ (ag : Agent) (n : Fin 64) (v : Word) (s : State), ag.pfSide = true → s.chip.hears ag 0 = true → v.toNat ≠ s.chip.word (HUB_VF_QMASK n) →
    s.chip.bindOk n (s.chip.get (HUB_VF_BIND.BASIN n)) (s.chip.on (HUB_VF_BIND.ADMIN n)) v.toNat = false →
      Gives (.vfBind ag n true v) s (fun t => t.chip.get (HUB_VF_BIND.REFUSED n) = 1
        ∧ t.chip.get (HUB_VF_BIND.BASIN n) = s.chip.get (HUB_VF_BIND.BASIN n) ∧ t.chip.get (HUB_VF_BIND.ADMIN n) = s.chip.get (HUB_VF_BIND.ADMIN n)
        ∧ OnlyRegs s t ∧ OtherRegs [(HUB_VF_BIND n).key] s t))
  ∧ (∀ (ag : Agent) (j : Fin 256) (v : Word) (s : State), s.chip.hears ag 0 = true →
    (ag.pfSide = true ∨ ∃ n, ag = .vf n ∧ s.chip.get (HUB_NOTIFY.BASIN j) = s.chip.get (HUB_VF_BIND.BASIN n)
      ∧ bits v.toNat 0 3 = s.chip.get (HUB_VF_BIND.BASIN n)) →
      Gives (.notifyArm ag j v) s (fun t => t.chip.get (HUB_NOTIFY.ARM j) = bits v.toNat 16 1
        ∧ t.chip.get (HUB_NOTIFY.LATCH j) = bits v.toNat 3 13 ∧ t.chip.get (HUB_NOTIFY.BASIN j) = bits v.toNat 0 3
        ∧ OnlyRegs s t ∧ OtherRegs [(HUB_NOTIFY j).key] s t))
  ∧ (∀ (on : Bool) (s : State), s.chip.pwr.on = true → exec (.configurationSpaceWrite (.vfEnable on)) s =
      .next { s with chip := { s.chip with pcie := { s.chip.pcie with vfEn := on } } })
  ∧ (∀ (f : Nat) (on : Bool) (w : CfgWr) (s : State), s.chip.pwr.on = true → (w = .memEnable f on ∨ w = .busMaster f on ∨ w = .ats f on) →
      Gives (.configurationSpaceWrite w) s (fun t =>
        (w = .memEnable f on → (f ∈ t.chip.pcie.mse ↔ on = true) ∧ t.chip.pcie = { s.chip.pcie with mse := t.chip.pcie.mse })
        ∧ (w = .busMaster f on → (f ∈ t.chip.pcie.bme ↔ on = true) ∧ t.chip.pcie = { s.chip.pcie with bme := t.chip.pcie.bme })
        ∧ (w = .ats f on → (f ∈ t.chip.pcie.ats ↔ on = true) ∧ t.chip.pcie = { s.chip.pcie with ats := t.chip.pcie.ats })
        ∧ (∀ g, g ≠ f → (g ∈ t.chip.pcie.mse ↔ g ∈ s.chip.pcie.mse) ∧ (g ∈ t.chip.pcie.bme ↔ g ∈ s.chip.pcie.bme)
            ∧ (g ∈ t.chip.pcie.ats ↔ g ∈ s.chip.pcie.ats))
        ∧ t = { s with chip := { s.chip with pcie := t.chip.pcie } }))
  ∧ (∀ (n : Nat) (s : State), s.chip.pwr.on = true → 28 ≤ n → n ≤ 42 →
      Gives (.configurationSpaceWrite (.bar4Size n)) s (fun t => t.chip.pcie = { s.chip.pcie with bar4 := n }
        ∧ t.chip.get HUB_BAR4_BASE.BASE = (if n = s.chip.pcie.bar4 then s.chip.get HUB_BAR4_BASE.BASE else 0)
        ∧ OtherRegs [HUB_BAR4_BASE.key] s t ∧ QueueAndSec s t))
  ∧ (∀ (f : Nat) (s : State), s.chip.pwr.on = true → exec (.configurationSpaceWrite (.readIds f)) s = .next { s with chip := { s.chip with
      out := (if f = 0 ∨ (s.chip.pcie.vfEn = true ∧ f ≤ s.chip.pcie.totalVfs) then Out.rdata (funcAgent f) (s.chip.cfgIds f)
        else Out.ur (funcAgent f)) :: s.chip.out } })
  ∧ (∀ (f v : Nat) (on : Bool) (s : State), s.chip.pwr.on = true → (f, v) ∉ s.chip.irqs → Gives (.configurationSpaceWrite (.msixMask f v on)) s (fun t =>
      (∀ e, e ∈ t.chip.msixMask ↔ (if e = (f, v) then on = true else e ∈ s.chip.msixMask))
      ∧ t = { s with chip := { s.chip with msixMask := t.chip.msixMask } }))
  ∧ (∀ (f : Fin 65) (pasid : Option Nat) (page n : Nat) (s : State), s.chip.pwr.on = true →
      Gives (.atsInvalidateRequest f pasid page n) s (fun t =>
        (∀ e, e ∈ t.chip.atc ↔ e ∈ s.chip.atc ∧ ¬ (e.func = f ∧ e.pasid = pasid ∧ page ≤ e.page ∧ e.page < page + n))
        ∧ t = { s with chip := { s.chip with atc := t.chip.atc, out := Out.invalidated f :: s.chip.out } }))

/-- STATUS, LOG_READ, CERTS and HALLMARK run and answer. Where the executor takes a command, STATUS runs to RESULT 0 with contents that the spec leaves open; LOG_READ answers as many bytes as it names, their values left open by the spec, where the range fits the log and the response, and else ends with RESULT 6; CERTS answers the chain; HALLMARK over a 32-byte nonce answers, where the hub may sign, a hallmark that holds the nonce at byte 16 and is kept as the last one, and RESULT 5 where it may not. None of them changes the store, nor the first two the debug level. -/
def Obligations.MailboxReportsComplete : Prop :=
  (∀ (ag : Agent) (s : State), s.Accepts ag 0x01 → Gives (.statusCmd ag) s (fun t =>
      t.sec.Runs ag 0x01 0 none ∧ t.pending = s.pending ∧ t.sec.nor = s.sec.nor ∧ t.sec.level = s.sec.level))
  ∧ (∀ (ag : Agent) (off len : Nat) (s : State), s.Accepts ag 0x02 → Gives (.logRead ag off len) s (fun t =>
      (off + len ≤ 0x800000 → len ≤ mbxRespLen → ∃ bs : List Byte, bs.length = len ∧ t.sec.Runs ag 0x02 0 (some bs))
      ∧ (0x800000 < off + len ∨ mbxRespLen < len → t.sec.Runs ag 0x02 6 (some [])) ∧ t.sec.nor = s.sec.nor ∧ t.sec.level = s.sec.level))
  ∧ (∀ (ag : Agent) (s : State), s.Accepts ag 0x03 → Gives (.certs ag) s (fun t =>
      t.sec.Runs ag 0x03 0 (some (Config.certChain (s.sec.nor.reads 0 0x100000))) ∧ t.sec.nor = s.sec.nor))
  ∧ (∀ (ag : Agent) (nonce : List Byte) (s : State), s.Accepts ag 0x04 → nonce.length = 32 → Gives (.hallmark ag nonce) s (fun t =>
      (s.maySign = true → t.sec.Runs ag 0x04 0 (some t.sec.hallmark) ∧ (t.sec.hallmark.drop 16).take 32 = nonce)
      ∧ (s.maySign = false → t.sec.Runs ag 0x04 5 (some []) ∧ t.sec.hallmark = s.sec.hallmark) ∧ t.sec.nor = s.sec.nor))

/-- Images are staged, committed and taken live. IMAGE_STAGE of a chunk that fits writes it at its offset in the slot that is not in use, and that slot's commit record reads zero. IMAGE_COMMIT ends with RESULT 2 for a slot without a valid image of its kind, 3 for one below the owner's floor, else 0 with M6 extended. LIVE_UPDATE without a standby hub in step ends with RESULT 5; with one, with a running combination and a newest Lansel that its peers and the tested list take and that starts, it hands over: the primary changes and the combination runs the new Lansel. -/
def Obligations.MailboxImagesComplete : Prop :=
  (∀ (ag : Agent) (kind off : Nat) (d : List Byte) (s : State), s.Accepts ag 0x10 → 1 ≤ kind → kind ≤ 3 →
    off + d.length ≤ (imageArea kind).len - 64 → Gives (.imageStage ag kind off d) s (fun t =>
      t.sec.Runs ag 0x10 0 (some []) ∧ t.sec.nor.reads (s.sec.stageSlot kind + off) d.length = d
      ∧ t.sec.nor.reads (s.sec.stageSlot kind + (imageArea kind).len - 64) 64 = leBytes 64 0
      ∧ t.sec.level = s.sec.level ∧ t.chip.mem = s.chip.mem))
  ∧ (∀ (ag : Agent) (kind : Nat) (s : State), s.Accepts ag 0x11 → 1 ≤ kind → kind ≤ 3 → Gives (.imageCommit ag kind) s (fun t =>
      (s.sec.imgIn kind (s.sec.stageSlot kind) = none → t.sec.Runs ag 0x11 2 (some []) ∧ t.sec.nor = s.sec.nor)
      ∧ (∀ m, s.sec.imgIn kind (s.sec.stageSlot kind) = some m → m.svn < s.sec.ownerF kind →
          t.sec.Runs ag 0x11 3 (some []) ∧ t.sec.nor = s.sec.nor)
      ∧ (∀ m, s.sec.imgIn kind (s.sec.stageSlot kind) = some m → s.sec.ownerF kind ≤ m.svn →
          t.sec.Runs ag 0x11 0 (some []) ∧ ∃ d k, t.sec.mlog = s.sec.mlog ++ [(6, d, k)]) ∧ t.sec.level = s.sec.level))
  ∧ (∀ (ag : Agent) (starts : Bool) (s : State), s.Accepts ag 0x12 → Gives (.liveUpdate ag starts) s (fun t =>
      (s.chip.on HUB_ROLE.STANDBY_OK = false → t.sec.Runs ag 0x12 5 (some []) ∧ t.sec.nor = s.sec.nor)
      ∧ (∀ k m l f u, s.sec.combo = some k → s.sec.candidate 1 = some m → k.imgs = [l, f, u] → s.chip.on HUB_ROLE.STANDBY_OK = true →
          (1, l.version) ∈ m.peers → s.sec.tested k.policy [m, f, u] = true → starts = true →
          t.sec.Runs ag 0x12 0 (some []) ∧ t.sec.combo = some { k with imgs := [m, f, u] }
          ∧ t.chip.get HUB_ROLE.PRIMARY = 1 - s.chip.get HUB_ROLE.PRIMARY) ∧ t.sec.level = s.sec.level))

/-- Policy parts are staged, committed, reverted and restored, and the owner is set. CFG_STAGE of a chunk that fits puts it in the path's own staging area and leaves the other path's and the store; one that does not fit ends with RESULT 6. CFG_COMMIT ends with RESULT 2 or 3 where the staged part is refused so, with an open RESULT of 1 to 15 for a field out of range, the store unchanged; else with RESULT 0, the part in the slot that is not active, and M6 extended. CFG_REVERT and CFG_RESTORE end with RESULT 5, the store unchanged, where there is no valid set to return to; else with RESULT 0, the set in that slot. A set that comes into force on a running part with a combination becomes its policy, and ACTIVE_VER shows its version. OWNER_SET ends with RESULT 6 for a record that is too long, an open RESULT for a rule of code 3, RESULT 5 for the first record given by the host, 2 for one that the owner has not signed, 3 for one that is not newer, the store unchanged; else with RESULT 0, the record stored, and M7 extended. -/
def Obligations.ConfigurationCommandsComplete : Prop :=
  (∀ (ag : Agent) (off : Nat) (d : List Byte) (s : State), s.Accepts ag 0x20 → off + d.length ≤ policyArea.len - 64 →
    Gives (.cfgStage ag off d) s (fun t => t.sec.Runs ag 0x20 0 (some []) ∧ (t.sec.path ag).stage.reads off d.length = d
      ∧ t.sec.nor = s.sec.nor ∧ (ag = .pf → t.sec.sb = s.sec.sb) ∧ (ag = .sideband → t.sec.pf = s.sec.pf)))
  ∧ (∀ (ag : Agent) (off : Nat) (d : List Byte) (s : State), s.Accepts ag 0x20 → policyArea.len - 64 < off + d.length →
    Gives (.cfgStage ag off d) s (fun t => t.sec.Runs ag 0x20 6 (some []) ∧ (t.sec.path ag).stage = (s.sec.path ag).stage ∧ t.sec.nor = s.sec.nor))
  ∧ (∀ (ag : Agent) (slot : List Byte) (s : State), s.Accepts ag 0x21 → slot = (s.sec.path ag).stage.reads 0 (policyArea.len - 64) →
    Gives (.cfgCommit ag) s (fun t =>
      (∀ n, s.sec.cfgRefused (polBytes slot) = some (some n) → t.sec.Runs ag 0x21 n (some []) ∧ t.sec.nor = s.sec.nor ∧ t.sec.combo = s.sec.combo)
      ∧ (s.sec.cfgRefused (polBytes slot) = some none → (∃ n, 1 ≤ n ∧ n ≤ 15 ∧ t.sec.Runs ag 0x21 n (some [])) ∧ t.sec.nor = s.sec.nor
          ∧ t.sec.combo = s.sec.combo)
      ∧ (s.sec.cfgRefused (polBytes slot) = none → t.sec.Runs ag 0x21 0 (some []) ∧ s.InForce t slot)
      ∧ t.sec.level = s.sec.level))
  ∧ (∀ (ag : Agent) (s : State), s.Accepts ag 0x22 → Gives (.cfgRevert ag) s (fun t =>
      (s.sec.recAt policyArea (s.sec.target policyArea) = none → t.sec.Runs ag 0x22 5 (some []) ∧ t.sec.nor = s.sec.nor)
      ∧ (s.sec.recAt policyArea (s.sec.target policyArea) ≠ none → t.sec.Runs ag 0x22 0 (some [])
          ∧ s.InForce t (s.sec.content policyArea (s.sec.target policyArea))) ∧ t.sec.level = s.sec.level))
  ∧ (∀ (ag : Agent) (k : Nat) (s : State), s.Accepts ag 0x23 → Gives (.cfgRestore ag k) s (fun t =>
      (7 < k ∨ s.sec.recAt historyArea (historyArea.base + k * historyArea.len) = none →
        t.sec.Runs ag 0x23 5 (some []) ∧ t.sec.nor = s.sec.nor)
      ∧ (k ≤ 7 → s.sec.recAt historyArea (historyArea.base + k * historyArea.len) ≠ none → t.sec.Runs ag 0x23 0 (some [])
          ∧ s.InForce t (s.sec.content historyArea (historyArea.base + k * historyArea.len)))
      ∧ t.sec.level = s.sec.level))
  ∧ (∀ (ag : Agent) (r : List Byte) (s : State), s.Accepts ag 0x30 → ownerArea.len - 64 < r.length →
    Gives (.ownerSet ag r) s (fun t => t.sec.Runs ag 0x30 6 (some []) ∧ t.sec.nor = s.sec.nor))
  ∧ (∀ (ag : Agent) (r0 r : List Byte) (s : State), s.Accepts ag 0x30 → r0.length ≤ ownerArea.len - 64 →
    r = r0 ++ List.replicate (ownerArea.len - 64 - r0.length) 0 →
    Gives (.ownerSet ag r0) s (fun t =>
      (Config.ownerField r 4 % 4 = 3 → (∃ n, 1 ≤ n ∧ n ≤ 15 ∧ t.sec.Runs ag 0x30 n (some [])) ∧ t.sec.nor = s.sec.nor)
      ∧ (Config.ownerField r 4 % 4 ≠ 3 →
        (s.sec.owner = none → ag = .sideband → t.sec.Runs ag 0x30 0 (some []) ∧ s.OwnerNow t r)
        ∧ (s.sec.owner = none → ag = .pf → t.sec.Runs ag 0x30 5 (some []) ∧ t.sec.nor = s.sec.nor)
        ∧ (∀ o, s.sec.owner = some o →
            (Config.ownerSigned o r = false → t.sec.Runs ag 0x30 2 (some []) ∧ t.sec.nor = s.sec.nor)
            ∧ (Config.ownerSigned o r = true → Config.ownerField r 5 ≤ Config.ownerField o 5 → t.sec.Runs ag 0x30 3 (some []) ∧ t.sec.nor = s.sec.nor)
            ∧ (Config.ownerSigned o r = true → Config.ownerField o 5 < Config.ownerField r 5 → t.sec.Runs ag 0x30 0 (some []) ∧ s.OwnerNow t r)))
      ∧ t.sec.level = s.sec.level))

/-- A challenge serves one attempt, a valid token raises the level, DEBUG_LOCK locks at once. DEBUG_CHALLENGE gives a challenge of 32 bytes. DEBUG_UNLOCK without a challenge ends with RESULT 5. With one it takes the challenge away, and where the token verifies over the challenge, both PKIDs and the level, under the owner's key for level 1 or the Varporen debug key for level 2, ends with RESULT 0 and raises the level to it, at level 2 with both hubs' keys cleared; in every other case, a level other than 1 and 2 included, it ends with RESULT 2, level and keys as they were. DEBUG_LOCK returns the level to 0 at once, ends halts and takes a challenge away, and leaves the keys. DEBUG_ACCESS ends with RESULT 5 at level 0. Above it, it reads cistern bytes in range, RESULT 6 out of range; halts a sequencer or lets it go; steps a halted one by a bundle; and reads rill registers; each with RESULT 0. -/
def Obligations.DebugCommandsComplete : Prop :=
  (∀ (ag : Agent) (s : State), s.Accepts ag 0x50 → Gives (.debugChallenge ag) s (fun t =>
      ∃ ch, ch.length = 32 ∧ t.sec.challenge = some ch ∧ t.sec.Runs ag 0x50 0 (some ch) ∧ t.sec.level = s.sec.level))
  ∧ (∀ (ag : Agent) (level : Nat) (token : List Byte) (s : State), s.Accepts ag 0x51 → s.sec.challenge = none →
    Gives (.debugUnlock ag level token) s (fun t => t.sec.Runs ag 0x51 5 (some []) ∧ t.sec.level = s.sec.level))
  ∧ (∀ (ag : Agent) (token ch : List Byte) (s : State), s.Accepts ag 0x51 → s.sec.challenge = some ch →
    Gives (.debugUnlock ag 2 token) s (fun t => t.sec.challenge = none
      ∧ (Config.verify (Config.romKey 3) (ch ++ pkid 0 ++ pkid 1 ++ leBytes 1 2) token = true →
          t.sec.Runs ag 0x51 0 (some []) ∧ t.sec.level = max s.sec.level 2 ∧ t.sec.keyA = false ∧ t.sec.keyB = false)
      ∧ (Config.verify (Config.romKey 3) (ch ++ pkid 0 ++ pkid 1 ++ leBytes 1 2) token = false →
          t.sec.Runs ag 0x51 2 (some []) ∧ t.sec.level = s.sec.level ∧ t.sec.keyA = s.sec.keyA ∧ t.sec.keyB = s.sec.keyB)))
  ∧ (∀ (ag : Agent) (token ch : List Byte) (s : State), s.Accepts ag 0x51 → s.sec.challenge = some ch →
    Gives (.debugUnlock ag 1 token) s (fun t => t.sec.challenge = none ∧ t.sec.keyA = s.sec.keyA ∧ t.sec.keyB = s.sec.keyB
      ∧ (s.sec.owner = none → t.sec.Runs ag 0x51 2 (some []) ∧ t.sec.level = s.sec.level)
      ∧ (∀ r, s.sec.owner = some r → Config.verify (Config.ownerKey r) (ch ++ pkid 0 ++ pkid 1 ++ leBytes 1 1) token = true →
          t.sec.Runs ag 0x51 0 (some []) ∧ t.sec.level = max s.sec.level 1)
      ∧ (∀ r, s.sec.owner = some r → Config.verify (Config.ownerKey r) (ch ++ pkid 0 ++ pkid 1 ++ leBytes 1 1) token = false →
          t.sec.Runs ag 0x51 2 (some []) ∧ t.sec.level = s.sec.level)))
  ∧ (∀ (ag : Agent) (level : Nat) (token ch : List Byte) (s : State), s.Accepts ag 0x51 → s.sec.challenge = some ch → level ≠ 1 → level ≠ 2 →
    Gives (.debugUnlock ag level token) s (fun t => t.sec.challenge = none ∧ t.sec.Runs ag 0x51 2 (some []) ∧ t.sec.level = s.sec.level
      ∧ t.sec.keyA = s.sec.keyA ∧ t.sec.keyB = s.sec.keyB))
  ∧ (∀ (ag : Agent) (s : State), s.Accepts ag 0x52 → Gives (.debugLock ag) s (fun t =>
      t.sec.level = 0 ∧ t.sec.challenge = none ∧ t.chip.dbgHalt = [] ∧ t.sec.keyA = s.sec.keyA ∧ t.sec.keyB = s.sec.keyB
      ∧ t.sec.Runs ag 0x52 0 (some [])))
  ∧ (∀ (ag : Agent) (d : DbgOp) (s : State), s.Accepts ag 0x58 → s.sec.level = 0 → Gives (.debugAccess ag d) s (fun t =>
      t.sec.Runs ag 0x58 5 (some []) ∧ t.chip.dbgHalt = s.chip.dbgHalt ∧ t.chip.mem = s.chip.mem))
  ∧ (∀ (ag : Agent) (kc : Fin 104) (off len : Nat) (s : State), s.Accepts ag 0x58 → s.sec.level ≠ 0 →
    Gives (.debugAccess ag (.cistern kc off len)) s (fun t =>
      (off + len ≤ cisSize → len ≤ mbxRespLen → t.sec.Runs ag 0x58 0 (some (s.chip.mem.reads (cisKey kc off) len)))
      ∧ (cisSize < off + len ∨ mbxRespLen < len → t.sec.Runs ag 0x58 6 (some [])) ∧ t.chip.mem = s.chip.mem))
  ∧ (∀ (ag : Agent) (kc : Fin 104) (k : Fin 2) (on : Bool) (s : State), s.Accepts ag 0x58 → s.sec.level ≠ 0 →
    Gives (.debugAccess ag (.halt kc k on)) s (fun t => t.sec.Runs ag 0x58 0 (some [])
      ∧ (2 * (kc : Nat) + k ∈ t.chip.dbgHalt ↔ on = true)
      ∧ (∀ x, x ≠ 2 * (kc : Nat) + k → (x ∈ t.chip.dbgHalt ↔ x ∈ s.chip.dbgHalt)) ∧ t.chip.mem = s.chip.mem))
  ∧ (∀ (ag : Agent) (kc : Fin 104) (k : Fin 2) (s : State), s.Accepts ag 0x58 → s.sec.level ≠ 0 → 2 * (kc : Nat) + k ∈ s.chip.dbgHalt →
    Gives (.debugAccess ag (.step kc k)) s (fun t => t.sec.Runs ag 0x58 0 (some [])
      ∧ t.chip = (if ag = .sideband then s.chip.issue kc k else (s.chip.issue kc k).put HUB_MBX_STS.BUSY 1)))
  ∧ (∀ (ag : Agent) (kc : Fin 104) (r : Nat) (s : State), s.Accepts ag 0x58 → s.sec.level ≠ 0 → r < 72 →
    Gives (.debugAccess ag (.rill kc r)) s (fun t => t.sec.Runs ag 0x58 0 (some (if r < 64 then leBytes 8192 ((s.chip.cl kc).vreg kc r)
        else leBytes 256 ((s.chip.cl kc).preg kc (r - 64)))) ∧ t.chip.mem = s.chip.mem))

/-- A mailbox command ends, RESET resets, and the hub keeps its records. MAILBOX_COMMAND_DONE of a command that is not behind the other path's: on the host's path it clears BUSY, sets DONE and shows RESULT and TAG of the command that ran; on the sideband's it sends the status word and the response; that path's command no longer runs, and the store and the level are as they were. One that is behind waits, and nothing changes. RESET that the executor takes resets a running part: STATE 2, or 4 where the boot ROM finds no combination, level 0, no challenge; it brings a supplied part back from a thermal shutdown; and of any other part that is off it changes nothing but its path. The known-good timer, once it has run out without a failover, adds the running combination to a list of at most 8 and sets GOOD; before that it changes nothing. A part-record commit of a running part with no CFG_ command running counts PART_GEN up by one and keeps the part's fields and its row maps as they stand; with one running it waits, and nothing changes. -/
def Obligations.CommandsEndAndRecordsFollow : Prop :=
  (∀ (r : MRun) (s : State), s.sec.pf.run = some r → s.sec.mayEnd .pf r = true → Gives (.mailboxCommandDone .pf) s (fun t =>
      t.sec.pf.run = none ∧ t.chip.get HUB_MBX_STS.BUSY = 0 ∧ t.chip.get HUB_MBX_STS.DONE = 1
      ∧ t.chip.get HUB_MBX_STS.RESULT = r.result % 16 ∧ t.chip.get HUB_MBX_STS.TAG = r.tag % 65536 ∧ t.pending = s.pending
      ∧ t.sec.nor = s.sec.nor ∧ t.sec.level = s.sec.level))
  ∧ (∀ (r : MRun) (s : State), s.sec.sb.run = some r → s.sec.mayEnd .sideband r = true → Gives (.mailboxCommandDone .sideband) s (fun t =>
      t.sec.sb.run = none ∧ (∃ w bs, t.chip.out.head? = some (Out.mctp (leBytes 8 w ++ bs)) ∧ bit w 1 = true ∧ bits w 2 4 = r.result % 16
        ∧ (∀ b, r.result = 0 → r.resp = some b → bs = b) ∧ (r.result ≠ 0 → bs = []))
      ∧ t.pending = s.pending ∧ t.sec.nor = s.sec.nor ∧ t.sec.level = s.sec.level))
  ∧ (∀ (ag : Agent) (r : MRun) (s : State), (s.sec.path ag).run = some r → s.sec.mayEnd ag r = false → exec (.mailboxCommandDone ag) s = .next s)
  ∧ (∀ (ag : Agent) (s : State), s.Accepts ag 0x40 → s.chip.pwr.on = true → Gives (.resetCmd ag) s (fun t =>
      t.chip.get HUB_BOOT_STS.STATE = (if s.bootFinds false then 2 else 4) ∧ t.sec.level = 0 ∧ t.sec.challenge = none
      ∧ t.sec.nor = s.sec.nor ∧ t.pending = s.pending))
  ∧ (∀ s : State, s.Accepts .sideband 0x40 → s.chip.pwr.on = false → s.chip.get HUB_BOOT_STS.STATE = 5 → s.chip.supplied = true →
    Gives (.resetCmd .sideband) s (fun t => t.chip.pwr.on = true ∧ t.chip.get HUB_BOOT_STS.STATE = (if s.bootFinds true then 2 else 4)
      ∧ t.sec.level = 0 ∧ t.sec.nor = s.sec.nor ∧ t.pending = s.pending))
  ∧ (∀ s : State, s.Accepts .sideband 0x40 → s.chip.pwr.on = false → (s.chip.get HUB_BOOT_STS.STATE ≠ 5 ∨ s.chip.supplied = false) →
    Gives (.resetCmd .sideband) s (fun t => t.sec.Runs .sideband 0x40 0 (some []) ∧ t = { s with sec := { s.sec with sb := t.sec.sb } }))
  ∧ (∀ (k : Combo) (n : Nat) (s : State), s.sec.combo = some k → s.sec.readyAt = some n → s.chip.ready = true → s.sec.unclean = false →
    Gives .knownGoodTimer s (fun t =>
      (n + 2000000 * Config.policyMode k.policy 5 ≤ s.chip.ticks → k.entry ∈ t.sec.good ∧ t.sec.good.length ≤ 8 ∧ t.chip.get HUB_CFG_STS.GOOD = 1)
      ∧ (s.chip.ticks < n + 2000000 * Config.policyMode k.policy 5 → t = s)
      ∧ OtherRegs [HUB_CFG_STS.key] s t ∧ t = { s with chip := { s.chip with regs := t.chip.regs }, sec := { s.sec with good := t.sec.good } }))
  ∧ (∀ s : State, s.chip.pwr.on = true → s.sec.cfgRuns = false → Gives .partRecordCommit s (fun t =>
      t.chip.get HUB_CFG_STS.PART_GEN = (s.chip.get HUB_CFG_STS.PART_GEN + 1) % 2 ^ HUB_CFG_STS.PART_GEN.len
      ∧ t.chip.part = s.chip.partNow ∧ t.chip.partRows = s.chip.rowMaps ∧ OtherRegs [HUB_CFG_STS.key] s t
      ∧ t = { s with chip := { s.chip with regs := t.chip.regs, part := t.chip.part, partRows := t.chip.partRows } }))
  ∧ (∀ s : State, s.chip.pwr.on = true → s.sec.cfgRuns = true → exec .partRecordCommit s = .next s)

/-- The standby hub takes over on a failure and on SWITCH. With a standby hub in step, PRIMARY_HEARTBEAT_LOSS of a primary that has not failed before, and a SWITCH by the physical function's side, make the other hub primary, clear STANDBY_OK, show the cause (1 heartbeat, 2 reported fault, 3 SWITCH), hold interrupts, and end a running mailbox command of either path with RESULT 8. Memory and the queue of commands stay. Without a standby in step the failure freezes every basin and PRIMARY stays, and SWITCH changes nothing. -/
def Obligations.HubsHandOver : Prop :=
  (∀ (rep : Bool) (s : State), s.chip.pwr.on = true → s.chip.on HUB_ROLE.STANDBY_OK = true → s.chip.get HUB_ROLE.PRIMARY ∉ s.chip.hubDead →
    Gives (.primaryHeartbeatLoss rep) s (fun t => t.chip.get HUB_ROLE.PRIMARY = 1 - s.chip.get HUB_ROLE.PRIMARY
      ∧ t.chip.get HUB_ROLE.STANDBY_OK = 0 ∧ t.chip.get HUB_ROLE.LAST_CAUSE = (if rep then 2 else 1) ∧ t.chip.irqHold = true
      ∧ (∀ r, s.sec.pf.run = some r → ∃ r2, t.sec.pf.run = some r2 ∧ r2.result = 8)
      ∧ (∀ r, s.sec.sb.run = some r → ∃ r2, t.sec.sb.run = some r2 ∧ r2.result = 8) ∧ t.chip.mem = s.chip.mem ∧ t.pending = s.pending))
  ∧ (∀ (ag : Agent) (s : State), ag.pfSide = true → s.chip.hears ag 0 = true → s.chip.on HUB_ROLE.STANDBY_OK = true →
    Gives (.switchHub ag) s (fun t => t.chip.get HUB_ROLE.PRIMARY = 1 - s.chip.get HUB_ROLE.PRIMARY
      ∧ t.chip.get HUB_ROLE.STANDBY_OK = 0 ∧ t.chip.get HUB_ROLE.LAST_CAUSE = 3 ∧ t.chip.irqHold = true
      ∧ (∀ r, s.sec.pf.run = some r → ∃ r2, t.sec.pf.run = some r2 ∧ r2.result = 8)
      ∧ (∀ r, s.sec.sb.run = some r → ∃ r2, t.sec.sb.run = some r2 ∧ r2.result = 8) ∧ t.chip.mem = s.chip.mem ∧ t.pending = s.pending))
  ∧ (∀ (rep : Bool) (s : State), s.chip.pwr.on = true → s.chip.on HUB_ROLE.STANDBY_OK = false → s.chip.get HUB_ROLE.PRIMARY ∉ s.chip.hubDead →
    Gives (.primaryHeartbeatLoss rep) s (fun t => (∀ b < 6, (t.chip.bs b).frozen = true)
      ∧ t.chip.hubDead = s.chip.get HUB_ROLE.PRIMARY :: s.chip.hubDead ∧ t.chip.regs = s.chip.regs ∧ t.chip.mem = s.chip.mem ∧ t.pending = s.pending))
  ∧ (∀ (ag : Agent) (s : State), ag.pfSide = true → s.chip.hears ag 0 = true → s.chip.on HUB_ROLE.STANDBY_OK = false →
    exec (.switchHub ag) s = .next s)

/-- A lost forge die is Failed; its slot passes to a spare, or its basin re-forms or goes out of service. When a forge die loses its heartbeat or reports an internal error, with no spare-die command running and no other die lost in the same slow tick, it becomes Failed and FAIL_COUNT goes up by one, to at most 15. In Sheltered mode, of an Active or Joining die in a slot of a basin that is not quenched and copies out no secure step: the spare that R21 picks takes the slot in state Joining, the die map names it, the failed die holds no slot, and the basin is frozen until the substitution completes; with no spare left the basin goes out of service with SLOTS 0. In Open mode, of an Active die in a slot 0 to 3 of a basin of five dies: the die of slot 4 takes its slot, and the basin is quenched and has four slots. Of a spare that holds no slot: no other register changes. A die already Failed or Retired changes nothing. -/
def Obligations.LostDieIsReplaced : Prop :=
  (∀ (n : Fin 26) (b sl sp : Nat) (i : Instr) (s : State), (i = .forgeHeartbeatLoss n ∨ i = .forgeDieError n) → s.chip.pwr.on = true →
    s.chip.modes.sheltered = true → (s.chip.get (HUB_FORGE_STATUS.STATE n) = 1 ∨ s.chip.get (HUB_FORGE_STATUS.STATE n) = 3) →
    s.chip.dieBasin n = b → b < 6 → s.chip.dieSlot n = sl → sl < 5 → s.chip.get (BSN_QUENCH.STATE b) = 0 →
    s.chip.get (BSN_SECURE_STS.STATE b) < 2 → s.chip.spareCmd = none → (∀ p ∈ s.chip.picks, p.tick ≠ s.chip.get HUB_TICKS.TICKS) →
    s.chip.pickSpare b = some sp →
      Gives i s (fun t => t.chip.get (HUB_FORGE_STATUS.STATE n) = 4 ∧ t.chip.get (HUB_FORGE_STATUS.STATE sp) = 3
        ∧ t.chip.get (HUB_FORGE_STATUS.FAIL_COUNT n) = min 15 (s.chip.get (HUB_FORGE_STATUS.FAIL_COUNT n) + 1)
        ∧ t.chip.get (HUB_FORGE_STATUS.BASIN sp) = b ∧ t.chip.get (HUB_FORGE_STATUS.SLOT sp) = sl ∧ t.chip.slotDie b sl = sp
        ∧ t.chip.get (HUB_FORGE_STATUS.BASIN n) = 7 ∧ (t.chip.bs b).frozen = true ∧ t.chip.mem = s.chip.mem ∧ QueueAndSec s t))
  ∧ (∀ (n : Fin 26) (b sl : Nat) (i : Instr) (s : State), (i = .forgeHeartbeatLoss n ∨ i = .forgeDieError n) → s.chip.pwr.on = true →
    s.chip.modes.sheltered = true → (s.chip.get (HUB_FORGE_STATUS.STATE n) = 1 ∨ s.chip.get (HUB_FORGE_STATUS.STATE n) = 3) →
    s.chip.dieBasin n = b → b < 6 → s.chip.dieSlot n = sl → sl < 5 → s.chip.get (BSN_QUENCH.STATE b) = 0 →
    s.chip.get (BSN_SECURE_STS.STATE b) < 2 → s.chip.spareCmd = none → (∀ p ∈ s.chip.picks, p.tick ≠ s.chip.get HUB_TICKS.TICKS) →
    s.chip.pickSpare b = none →
      Gives i s (fun t => t.chip.get (HUB_FORGE_STATUS.STATE n) = 4
        ∧ t.chip.get (HUB_FORGE_STATUS.FAIL_COUNT n) = min 15 (s.chip.get (HUB_FORGE_STATUS.FAIL_COUNT n) + 1)
        ∧ (t.chip.bs b).outOfService = true ∧ t.chip.get (BSN_DIE_MAP.SLOTS b) = 0 ∧ QueueAndSec s t))
  ∧ (∀ (n : Fin 26) (b sl m : Nat) (i : Instr) (s : State), (i = .forgeHeartbeatLoss n ∨ i = .forgeDieError n) → s.chip.pwr.on = true →
    s.chip.modes.sheltered = false → s.chip.get (HUB_FORGE_STATUS.STATE n) = 1 → s.chip.dieBasin n = b → b < 6 → s.chip.dieSlot n = sl → sl < 4 →
    s.chip.get (BSN_QUENCH.STATE b) = 0 → s.chip.spareCmd = none → s.chip.get (BSN_DIE_MAP.SLOTS b) = 5 → s.chip.slotDie b 4 = m → m < 26 →
    m ≠ n → Gives i s (fun t => t.chip.get (HUB_FORGE_STATUS.STATE n) = 4
        ∧ t.chip.get (HUB_FORGE_STATUS.FAIL_COUNT n) = min 15 (s.chip.get (HUB_FORGE_STATUS.FAIL_COUNT n) + 1)
        ∧ t.chip.slotDie b sl = m ∧ t.chip.get (HUB_FORGE_STATUS.SLOT m) = sl ∧ t.chip.slotDie b 4 = 31 ∧ t.chip.get (BSN_DIE_MAP.SLOTS b) = 4
        ∧ (t.chip.bs b).quenched = true ∧ QueueAndSec s t))
  ∧ (∀ (n : Fin 26) (i : Instr) (s : State), (i = .forgeHeartbeatLoss n ∨ i = .forgeDieError n) → s.chip.pwr.on = true →
    s.chip.get (HUB_FORGE_STATUS.STATE n) = 2 → s.chip.dieBasin n = 7 → s.chip.spareCmd = none →
      Gives i s (fun t => t.chip.get (HUB_FORGE_STATUS.STATE n) = 4
        ∧ t.chip.get (HUB_FORGE_STATUS.FAIL_COUNT n) = min 15 (s.chip.get (HUB_FORGE_STATUS.FAIL_COUNT n) + 1)
        ∧ OnlyRegs s t ∧ OtherRegs [(HUB_FORGE_STATUS n).key] s t))
  ∧ (∀ (n : Fin 26) (i : Instr) (s : State), (i = .forgeHeartbeatLoss n ∨ i = .forgeDieError n) → s.chip.pwr.on = true →
    (s.chip.get (HUB_FORGE_STATUS.STATE n) = 4 ∨ s.chip.get (HUB_FORGE_STATUS.STATE n) = 5) → exec i s = .next s)

/-- Substitutions complete, dies are retested, spare commands run and end, a router fails. SUBSTITUTION_COMPLETE of a basin with a Joining die leaves none Joining there. In Sheltered mode ASSAY_RETEST of a Failed die that holds no slot, with no spare command running, makes it Spare after a first failure that it passes, else Retired; of the target of a running return that holds no slot and is not Active or Joining, it makes it Spare with FAIL_COUNT 0, or Retired, and records the outcome. A spare that fails its background test is Failed; one that passes, unchanged. With no spare command running, SPARE_SUBSTITUTE of a die of a basin whose queues are idle by a named spare, and SPARE_RETURN, both in Sheltered mode, and SPARE_RETIRE of a die that is not Active, set BUSY and LAST_TARGET and hold the command; given while one runs each sets OVERRUN, and of no die (26 and above) ends at once with RESULT 6. SPARE_CMD_COMPLETE ends a return whose retest is known with RESULT 0 or 4; of a substitution or retirement by a spare it puts the spare Active in the slot, the target Spare or Retired out of it; of a retirement without one it makes the target Retired; each counts COUNT. ROUTER_FAILURE of a Retired die with no other router lost records the router and changes nothing else. -/
def Obligations.SparesAndRoutersComplete : Prop :=
  (∀ (b : Fin 6) (s : State), s.chip.pwr.on = true →
    (s.chip.basinDies b).filter (fun n => s.chip.get (HUB_FORGE_STATUS.STATE n) == 3) ≠ [] → Gives (.substitutionComplete b) s (fun t =>
      (∀ n ∈ t.chip.basinDies b, t.chip.get (HUB_FORGE_STATUS.STATE n) ≠ 3) ∧ QueueAndSec s t))
  ∧ (∀ (n : Fin 26) (good : Bool) (s : State), s.chip.pwr.on = true → s.chip.modes.sheltered = true → s.chip.spareCmd = none →
    s.chip.get (HUB_FORGE_STATUS.STATE n) = 4 → s.chip.dieBasin n = 7 →
    Gives (.assayRetest n good) s (fun t =>
      t.chip.get (HUB_FORGE_STATUS.STATE n) = (if good = true ∧ s.chip.get (HUB_FORGE_STATUS.FAIL_COUNT n) = 1 then 2 else 5)
      ∧ OnlyRegs s t ∧ OtherRegs [(HUB_FORGE_STATUS n).key] s t))
  ∧ (∀ (n : Fin 26) (good : Bool) (m : SpareCmd) (s : State), s.chip.pwr.on = true → s.chip.spareCmd = some m → m.action = 2 → m.target = n →
    s.chip.get (HUB_FORGE_STATUS.STATE n) ≠ 1 → s.chip.get (HUB_FORGE_STATUS.STATE n) ≠ 3 → s.chip.dieBasin n = 7 →
    Gives (.assayRetest n good) s (fun t => t.chip.get (HUB_FORGE_STATUS.STATE n) = (if good then 2 else 5)
      ∧ t.chip.get (HUB_FORGE_STATUS.FAIL_COUNT n) = (if good then 0 else s.chip.get (HUB_FORGE_STATUS.FAIL_COUNT n))
      ∧ t.chip.spareCmd = some { m with retest := some good }
      ∧ t = { s with chip := { s.chip with regs := t.chip.regs, spareCmd := t.chip.spareCmd } } ∧ OtherRegs [(HUB_FORGE_STATUS n).key] s t))
  ∧ (∀ (n : Fin 26) (s : State), s.chip.pwr.on = true → s.chip.spareCmd = none → s.chip.get (HUB_FORGE_STATUS.STATE n) = 2 →
    s.chip.dieBasin n = 7 → Gives (.spareBackgroundTest n false) s (fun t =>
      t.chip.get (HUB_FORGE_STATUS.STATE n) = 4 ∧ OnlyRegs s t ∧ OtherRegs [(HUB_FORGE_STATUS n).key] s t))
  ∧ (∀ (n : Fin 26) (s : State), exec (.spareBackgroundTest n true) s = .next s)
  ∧ (∀ (ag : Agent) (target spare : Fin 32) (s : State), ag.pfSide = true → s.chip.hears ag 0 = true → s.chip.on HUB_SPARE_STS.BUSY = false →
    (target : Nat) < 26 → (spare : Nat) < 26 → s.chip.modes.sheltered = true → s.chip.dieBasin target < 6 →
    s.chip.allIdle (s.chip.dieBasin target) = true → s.chip.get (HUB_FORGE_STATUS.STATE spare) = 2 →
      Gives (.spareSubstitute ag target spare) s (fun t => t.chip.get HUB_SPARE_STS.BUSY = 1 ∧ t.chip.get HUB_SPARE_STS.LAST_TARGET = target
        ∧ t.chip.spareCmd = some { target := target, spare := spare, action := 1, chosen := false } ∧ OtherRegs [HUB_SPARE_STS.key] s t
        ∧ QueueAndSec s t ∧ t.chip.mem = s.chip.mem))
  ∧ (∀ (ag : Agent) (target : Fin 32) (s : State), ag.pfSide = true → s.chip.hears ag 0 = true → s.chip.on HUB_SPARE_STS.BUSY = false →
    (target : Nat) < 26 → s.chip.modes.sheltered = true → Gives (.spareReturn ag target) s (fun t => t.chip.get HUB_SPARE_STS.BUSY = 1
        ∧ t.chip.get HUB_SPARE_STS.LAST_TARGET = target
        ∧ t.chip.spareCmd = some { target := target, spare := 31, action := 2, chosen := false } ∧ OtherRegs [HUB_SPARE_STS.key] s t))
  ∧ (∀ (ag : Agent) (target : Fin 32) (s : State), ag.pfSide = true → s.chip.hears ag 0 = true → s.chip.on HUB_SPARE_STS.BUSY = false →
    (target : Nat) < 26 → s.chip.get (HUB_FORGE_STATUS.STATE target) ≠ 1 → Gives (.spareRetire ag target) s (fun t =>
        t.chip.get HUB_SPARE_STS.BUSY = 1 ∧ t.chip.get HUB_SPARE_STS.LAST_TARGET = target
        ∧ t.chip.spareCmd = some { target := target, spare := 31, action := 3, chosen := false } ∧ OtherRegs [HUB_SPARE_STS.key] s t))
  ∧ (∀ (ag : Agent) (target spare : Fin 32) (i : Instr) (s : State), ag.pfSide = true → s.chip.hears ag 0 = true →
    (i = .spareSubstitute ag target spare ∨ i = .spareReturn ag target ∨ i = .spareRetire ag target) →
    (s.chip.on HUB_SPARE_STS.BUSY = true ∨ 26 ≤ (target : Nat)) → Gives i s (fun t =>
      (s.chip.on HUB_SPARE_STS.BUSY = true → t.chip.get HUB_SPARE_STS.OVERRUN = 1 ∧ OnlyRegs s t)
      ∧ (s.chip.on HUB_SPARE_STS.BUSY = false → t.chip.get HUB_SPARE_STS.RESULT = 6 ∧ t.chip.get HUB_SPARE_STS.LAST_TARGET = target
          ∧ t.chip.spareCmd = none)
      ∧ OtherThanEvents [HUB_SPARE_STS.key] s t))
  ∧ (∀ (m : SpareCmd) (good : Bool) (s : State), s.chip.pwr.on = true → s.chip.spareCmd = some m → m.action = 2 → m.retest = some good →
    Gives .spareCmdComplete s (fun t => t.chip.get HUB_SPARE_STS.BUSY = 0 ∧ t.chip.get HUB_SPARE_STS.RESULT = (if good then 0 else 4)
      ∧ t.chip.get HUB_SPARE_STS.COUNT = (s.chip.get HUB_SPARE_STS.COUNT + 1) % 65536 ∧ t.chip.spareCmd = none
      ∧ OtherThanEvents [HUB_SPARE_STS.key] s t))
  ∧ (∀ (m : SpareCmd) (b sl : Nat) (s : State), s.chip.pwr.on = true → s.chip.spareCmd = some m → m.action ≠ 2 → m.spare < 26 → m.target < 26 →
    m.spare ≠ m.target → s.chip.dieBasin m.target = b → b < 6 → s.chip.dieSlot m.target = sl → sl < 5 →
    s.chip.get (HUB_FORGE_STATUS.STATE m.target) = 1 → Gives .spareCmdComplete s (fun t =>
      t.chip.slotDie b sl = m.spare ∧ t.chip.get (HUB_FORGE_STATUS.STATE m.spare) = 1 ∧ t.chip.get (HUB_FORGE_STATUS.BASIN m.spare) = b
      ∧ t.chip.get (HUB_FORGE_STATUS.SLOT m.spare) = sl ∧ t.chip.get (HUB_FORGE_STATUS.STATE m.target) = (if m.action = 3 then 5 else 2)
      ∧ t.chip.get (HUB_FORGE_STATUS.BASIN m.target) = 7 ∧ t.chip.get HUB_SPARE_STS.BUSY = 0 ∧ t.chip.get HUB_SPARE_STS.RESULT = 0
      ∧ t.chip.get HUB_SPARE_STS.COUNT = (s.chip.get HUB_SPARE_STS.COUNT + 1) % 65536 ∧ t.chip.spareCmd = none ∧ QueueAndSec s t))
  ∧ (∀ (m : SpareCmd) (s : State), s.chip.pwr.on = true → s.chip.spareCmd = some m → m.action = 3 → 26 ≤ m.spare → m.target < 26 →
    Gives .spareCmdComplete s (fun t => t.chip.get (HUB_FORGE_STATUS.STATE m.target) = 5 ∧ t.chip.get HUB_SPARE_STS.BUSY = 0
      ∧ t.chip.get HUB_SPARE_STS.RESULT = 0 ∧ t.chip.get HUB_SPARE_STS.COUNT = (s.chip.get HUB_SPARE_STS.COUNT + 1) % 65536
      ∧ t.chip.spareCmd = none ∧ OtherThanEvents [HUB_SPARE_STS.key, (HUB_FORGE_STATUS m.target).key] s t))
  ∧ (∀ (n : Fin 32) (s : State), s.chip.pwr.on = true → (n : Nat) < 26 → s.chip.routers = [] → s.chip.get (HUB_FORGE_STATUS.STATE n) = 5 →
    exec (.routerFailure n) s = .next { s with chip := { s.chip with routers := [(n : Nat)] } })

/-- A basin is quenched by its watchdog or by command, completes its quench, and returns. WATCHDOG_EXPIRY of a basin whose COUNT has reached a PERIOD other than 0, and QUENCH by an agent that R372 allows, quench a basin that is not being quenched, with cause 1 and 2; QUENCH_COMPLETE of a quench under way leaves STATE 2, or 3 (Failed) where the quench failed or its record could not be kept in HBM; BASIN_RETURN of a quenched basin by such an agent returns it to service and touches no other register. -/
def Obligations.QuenchAndReturn : Prop :=
  (∀ (b : Fin 6) (s : State), s.chip.pwr.on = true → s.chip.get (BSN_WDOG.PERIOD b) ≠ 0 →
    s.chip.get (BSN_WDOG.PERIOD b) ≤ s.chip.get (BSN_WDOG.COUNT b) → s.chip.get (BSN_QUENCH.STATE b) ≠ 1 →
      Gives (.watchdogExpiry b) s (fun t => (t.chip.bs b).quenched = true ∧ t.chip.get (BSN_QUENCH.STATE b) = 1
        ∧ t.chip.get (BSN_QUENCH.CAUSE b) = 1 ∧ QueueAndSec s t))
  ∧ (∀ (ag : Agent) (b : Fin 6) (s : State), s.chip.hears ag 0x20000 = true → s.chip.mayQuench ag b = true → s.chip.get (BSN_QUENCH.STATE b) ≠ 1 →
      Gives (.quench ag b) s (fun t => (t.chip.bs b).quenched = true ∧ t.chip.get (BSN_QUENCH.STATE b) = 1
        ∧ t.chip.get (BSN_QUENCH.CAUSE b) = 2 ∧ QueueAndSec s t))
  ∧ (∀ (b : Fin 6) (good : Bool) (s : State), s.chip.pwr.on = true → s.chip.get (BSN_QUENCH.STATE b) = 1 →
      Gives (.quenchComplete b good) s (fun t =>
        t.chip.get (BSN_QUENCH.STATE b) = (if good = true ∧ s.chip.isHbm (s.chip.quenchBase b) = true then 2 else 3) ∧ QueueAndSec s t))
  ∧ (∀ (ag : Agent) (b : Fin 6) (s : State), s.chip.hears ag 0x20000 = true → s.chip.mayQuench ag b = true → s.chip.get (BSN_QUENCH.STATE b) = 2 →
      Gives (.basinReturn ag b) s (fun t => t.chip.get (BSN_QUENCH.STATE b) = 0 ∧ (t.chip.bs b).quenched = false
        ∧ OtherRegs [(BSN_QUENCH b).key] s t ∧ QueueAndSec s t ∧ t.chip.mem = s.chip.mem))

/-- Risk levels follow the score, wear samples are shown, a replica partner is enabled. RISK_UPDATE shows the raw terms of the measured rates, each term's points up to its cap, a SCORE that is their sum up to 65,535, and the LEVEL that R375 gives from SCORE, the thresholds (halved where EXPOSED) and the milliseconds below each. A WEAR_SAMPLE of fewer than 7 daily means shows 0xFFFF for both days; of 7 or more, the values, which stop at 0xFFFF; SAMPLES stops at 90. Only an HBM indicator (1) may touch another register: where its lower bound lies within HORIZON and the pseudo-channel can be copied, it starts a planned copy. A write of ASY_REPLICA that does not set ENABLE, or with a reported feed other than the partner's, or with EXPOSED, is taken with all its fields; any other sets REFUSED and leaves them. -/
def Obligations.RiskWearAndReplica : Prop :=
  (∀ (ce ue cw droop : Nat) (s : State), s.chip.pwr.on = true → Gives (.riskUpdate ce ue cw droop) s (fun t =>
      t.chip.get (ASY_RISK_TERM.RAW 0) = satTo 0xFFFF (4 * ce) ∧ t.chip.get (ASY_RISK_TERM.RAW 1) = satTo 0xFFFF (2048 * ue)
      ∧ t.chip.get (ASY_RISK_TERM.RAW 2) = satTo 0xFFFF (16 * cw) ∧ t.chip.get (ASY_RISK_TERM.RAW 6) = satTo 0xFFFF (8 * droop)
      ∧ (∀ i < 8, t.chip.get (ASY_RISK_TERM.POINTS i) ≤ riskCap i)
      ∧ t.chip.get ASY_RISK.SCORE = min 65535 (((List.range 8).map (fun i => t.chip.get (ASY_RISK_TERM.POINTS i))).sum)
      ∧ t.chip.risk.belowW = (if t.chip.get ASY_RISK.SCORE < s.chip.riskAt ASY_RISK.WATCH then s.chip.risk.belowW + 1 else 0)
      ∧ t.chip.risk.belowS = (if t.chip.get ASY_RISK.SCORE < s.chip.riskAt ASY_RISK.SECURE then s.chip.risk.belowS + 1 else 0)
      ∧ t.chip.get ASY_RISK.LEVEL = riskLevel (s.chip.get ASY_RISK.LEVEL) (t.chip.get ASY_RISK.SCORE) (s.chip.riskAt ASY_RISK.WATCH)
          (s.chip.riskAt ASY_RISK.SECURE) t.chip.risk.belowW t.chip.risk.belowS
      ∧ t.chip.get ASY_RISK.WATCH = s.chip.get ASY_RISK.WATCH ∧ t.chip.get ASY_RISK.SECURE = s.chip.get ASY_RISK.SECURE
      ∧ t.chip.mem = s.chip.mem ∧ QueueAndSec s t))
  ∧ (∀ (j : Fin 6) (days low samples : Nat) (u : BitVec 16) (k : Fin 12) (p : Fin 64) (s : State), s.chip.pwr.on = true →
    Gives (.wearSample j days low u samples k p) s (fun t =>
      t.chip.get (ASY_WEAR.DAYS j) = (if samples < 7 then 0xFFFF else satTo 0xFFFF days)
      ∧ t.chip.get (ASY_WEAR.LOW90 j) = (if samples < 7 then 0xFFFF else satTo 0xFFFF low)
      ∧ t.chip.get (ASY_WEAR.UNIT j) = u.toNat ∧ t.chip.get (ASY_WEAR.SAMPLES j) = min 90 samples
      ∧ OnlyRegs s t ∧ OtherRegs ((ASY_WEAR j).key :: (if (j : Nat) = 1 then [(HBM_REBUILD k).key] else [])) s t))
  ∧ (∀ (days low samples : Nat) (u : BitVec 16) (k : Fin 12) (p : Fin 64) (s : State), s.chip.pwr.on = true → 7 ≤ samples → days < 0xFFFF →
    low ≤ s.chip.get ASY_WEAR_CTL.HORIZON → low < 0xFFFF → s.chip.get (HBM_REBUILD.KIND k) = 0 → s.chip.spareFree k = true →
    s.chip.get (HBM_STACK_STS.STATE k) ≠ 5 → bit (s.chip.get (HBM_LOST_MAP.LOST k)) p = false → Gives (.wearSample 1 days low u samples k p) s (fun t =>
      t.chip.get (HBM_REBUILD.KIND k) = 2 ∧ t.chip.get (HBM_REBUILD.TARGET k) = p ∧ t.chip.get (HBM_REBUILD.ROW k) = 0))
  ∧ (∀ (ag : Agent) (v : Word) (s : State), ag.top = true → s.chip.hears ag 0x20000 = true →
    (bit v.toNat 34 = false ∨ s.chip.on ASY_RISK.EXPOSED = true ∨ (s.chip.get ASY_REPLICA.FEED ≠ bits v.toNat 26 8 ∧ s.chip.get ASY_REPLICA.FEED ≠ 0xFF)) →
    Gives (.replicaEnable ag v) s (fun t =>
      t.chip.on ASY_REPLICA.ENABLE = bit v.toNat 34 ∧ t.chip.get ASY_REPLICA.PARTNER = bits v.toNat 0 18 ∧ t.chip.get ASY_REPLICA.PFEED = bits v.toNat 26 8
      ∧ t.chip.get ASY_REPLICA.SHARE = bits v.toNat 36 8 ∧ t.chip.get ASY_REPLICA.FLOOR = bits v.toNat 44 16
      ∧ t.chip.get ASY_REPLICA.REFUSED = (if bit v.toNat 35 then 0 else s.chip.get ASY_REPLICA.REFUSED)
      ∧ t.chip.get ASY_REPLICA.FEED = s.chip.get ASY_REPLICA.FEED ∧ OnlyRegs s t ∧ OtherRegs [ASY_REPLICA.key] s t))
  ∧ (∀ (ag : Agent) (v : Word) (s : State), ag.top = true → s.chip.hears ag 0x20000 = true → bit v.toNat 34 = true →
    s.chip.on ASY_RISK.EXPOSED = false → (s.chip.get ASY_REPLICA.FEED = bits v.toNat 26 8 ∨ s.chip.get ASY_REPLICA.FEED = 0xFF) →
    Gives (.replicaEnable ag v) s (fun t =>
      t.chip.get ASY_REPLICA.REFUSED = 1 ∧ t.chip.get ASY_REPLICA.ENABLE = s.chip.get ASY_REPLICA.ENABLE
      ∧ t.chip.get ASY_REPLICA.PARTNER = s.chip.get ASY_REPLICA.PARTNER ∧ t.chip.get ASY_REPLICA.PFEED = s.chip.get ASY_REPLICA.PFEED
      ∧ t.chip.get ASY_REPLICA.SHARE = s.chip.get ASY_REPLICA.SHARE ∧ t.chip.get ASY_REPLICA.FLOOR = s.chip.get ASY_REPLICA.FLOOR
      ∧ OnlyRegs s t ∧ OtherRegs [ASY_REPLICA.key] s t))

/-- A secure step is armed, copied out, committed, streamed, and may be aborted. SECURE_GO by an agent that may write the basin, for a step not yet resolved, with a valid descriptor and no copy-out or stream under way, arms it; for a resolved step or with one under way it ends with RESULT 1, and without a valid descriptor with RESULT 2. COPY_OUT_START of an armed step that is resolved, its temper work and that of the step before done, begins copying (STATE 2) and leaves every register but the status; without a valid descriptor it ends with RESULT 2. COPY_OUT_COMMIT, no granule being poisoned, writes the commit record of its KEEP slot and begins streaming (STATE 3). STREAM_COMMIT ends it with RESULT 0, all of it done, or 3 without the partner; SECURE_ABORT of a stream ends it with RESULT 4, and of anything else changes nothing. -/
def Obligations.SecureStepsComplete : Prop :=
  (∀ (ag : Agent) (b : Fin 6) (n : BitVec 32) (d : SecDesc) (s : State), s.chip.hears ag 0x20000 = true → s.chip.mayBsn ag b = true →
    s.chip.wasResolved b n.toNat = false → s.chip.get (BSN_SECURE_STS.STATE b) < 2 → s.chip.secDesc b = some d →
      Gives (.secureGo ag b n) s (fun t => t.chip.get (BSN_SECURE_STS.STATE b) = 1 ∧ t.chip.get (BSN_SECURE_STS.STEP_LO b) = n.toNat
        ∧ t.chip.get (BSN_SECURE_STS.DONE b) = 0 ∧ OnlyRegs s t ∧ OtherRegs [(BSN_SECURE_STS b).key] s t))
  ∧ (∀ (ag : Agent) (b : Fin 6) (n : BitVec 32) (s : State), s.chip.hears ag 0x20000 = true → s.chip.mayBsn ag b = true →
    (s.chip.wasResolved b n.toNat = true ∨ 2 ≤ s.chip.get (BSN_SECURE_STS.STATE b) ∨ s.chip.secDesc b = none) →
      Gives (.secureGo ag b n) s (fun t => t.chip.get (BSN_SECURE_STS.RESULT b) =
          (if s.chip.wasResolved b n.toNat = true ∨ 2 ≤ s.chip.get (BSN_SECURE_STS.STATE b) then 1 else 2)
        ∧ t.chip.get (BSN_SECURE_STS.STATE b) = s.chip.get (BSN_SECURE_STS.STATE b) ∧ OnlyRegs s t ∧ OtherRegs [(BSN_SECURE_STS b).key] s t))
  ∧ (∀ (b : Fin 6) (d : SecDesc) (s : State), s.chip.pwr.on = true → s.chip.get (BSN_SECURE_STS.STATE b) = 1 →
    s.chip.wasResolved b (s.chip.secureStep b) = true → s.chip.engineBusy b (s.chip.secureStep b) = false →
    s.chip.engineBusy b (s.chip.secureStep b - 1) = false → s.chip.secDesc b = some d → Gives (.copyOutStart b) s (fun t =>
      t.chip.get (BSN_SECURE_STS.STATE b) = 2 ∧ t.chip.get (BSN_SECURE_STS.DONE b) = 0 ∧ OtherRegs [(BSN_SECURE_STS b).key] s t ∧ QueueAndSec s t))
  ∧ (∀ (b : Fin 6) (s : State), s.chip.pwr.on = true → s.chip.get (BSN_SECURE_STS.STATE b) = 1 →
    s.chip.wasResolved b (s.chip.secureStep b) = true → s.chip.engineBusy b (s.chip.secureStep b) = false →
    s.chip.engineBusy b (s.chip.secureStep b - 1) = false → s.chip.secDesc b = none → Gives (.copyOutStart b) s (fun t =>
      t.chip.get (BSN_SECURE_STS.STATE b) = 0 ∧ t.chip.get (BSN_SECURE_STS.RESULT b) = 2 ∧ t.chip.get (BSN_SECURE_STS.EV b) = 1
      ∧ RegsAndEvents s t ∧ OtherThanEvents [(BSN_SECURE_STS b).key] s t))
  ∧ (∀ (b : Fin 6) (d : SecDesc) (s : State), s.chip.pwr.on = true → s.chip.get (BSN_SECURE_STS.STATE b) = 2 → s.chip.secDesc b = some d →
    s.chip.poison = [] → Gives (.copyOutCommit b) s (fun t => t.chip.get (BSN_SECURE_STS.STATE b) = 3 ∧ t.chip.get (BSN_SECURE_STS.DONE b) = 0
      ∧ (∃ seq dig, t.chip.mem.reads (s.chip.targetSlot 2 d.keep d.slotLen + 0xFFC0) 64 =
          leBytes 64 (commitRec 2 seq (s.chip.secureStep b) d.ingots dig))
      ∧ OtherRegs [(BSN_SECURE_STS b).key] s t ∧ QueueAndSec s t))
  ∧ (∀ (b : Fin 6) (good : Bool) (s : State), s.chip.pwr.on = true → s.chip.get (BSN_SECURE_STS.STATE b) = 3 →
    Gives (.streamCommit b good) s (fun t => t.chip.get (BSN_SECURE_STS.STATE b) = 0
      ∧ t.chip.get (BSN_SECURE_STS.RESULT b) = (if good then 0 else 3) ∧ t.chip.get (BSN_SECURE_STS.EV b) = 1
      ∧ t.chip.get (BSN_SECURE_STS.DONE b) = (if good then s.chip.get (BSN_SECURE_STS.INGOTS b) else s.chip.get (BSN_SECURE_STS.DONE b))
      ∧ RegsAndEvents s t ∧ OtherThanEvents [(BSN_SECURE_STS b).key] s t))
  ∧ (∀ (ag : Agent) (b : Fin 6) (s : State), s.chip.hears ag 0x20000 = true → s.chip.mayBsn ag b = true → s.chip.get (BSN_SECURE_STS.STATE b) = 3 →
    Gives (.secureAbort ag b) s (fun t => t.chip.get (BSN_SECURE_STS.STATE b) = 0 ∧ t.chip.get (BSN_SECURE_STS.RESULT b) = 4
      ∧ t.chip.get (BSN_SECURE_STS.EV b) = 1 ∧ RegsAndEvents s t ∧ OtherThanEvents [(BSN_SECURE_STS b).key] s t))
  ∧ (∀ (ag : Agent) (b : Fin 6) (s : State), s.chip.get (BSN_SECURE_STS.STATE b) ≠ 3 → exec (.secureAbort ag b) s = .next s)

/-- STOP, REWIND, SEND and ADOPT are taken, and a recovery command ends. With no recovery command running, STOP by the physical function's side or Lansel runs, BUSY set; REWIND, SEND and ADOPT of a stopped basin whose slot of that step is found run with their step and target, every other register as it was; they end with RESULT 1 on a basin that is not stopped and 2 where no such slot is found. RECOVER_COMPLETE of a STOP with no outstanding operations stops the basin, clears BUSY and gives RESULT 0. Of a SEND it gives RESULT 4 where the transfer failed or no route is valid, 3 where an ingot mismatched twice, else 0, its ingots sent. Of a REWIND or ADOPT it gives RESULT 4 where the transfer failed, 3 where the digests do not match, else 0, STEP one past the slot's step. -/
def Obligations.RecoveryCommandsComplete : Prop :=
  (∀ (ag : Agent) (b : Fin 6) (s : State), s.chip.hears ag 0x20000 = true → ag.top = true → s.chip.on (BSN_RECOVER.BUSY b) = false →
    Gives (.stop ag b) s (fun t => t.chip.get (BSN_RECOVER.BUSY b) = 1 ∧ (t.chip.bs b).recov = some (1, 0, 0) ∧ QueueAndSec s t))
  ∧ (∀ (ag : Agent) (b : Fin 6) (n : BitVec 32) (target : BitVec 18) (act : Nat) (i : Instr) (s : State), s.chip.hears ag 0x20000 = true →
    ag.top = true → s.chip.on (BSN_RECOVER.BUSY b) = false → (s.chip.bs b).stopped = true → s.chip.recovSlot b act n.toNat ≠ none →
    ((i = .rewind ag b n ∧ act = 2 ∧ target = 0) ∨ (i = .send ag b n target ∧ act = 3) ∨ (i = .adopt ag b n ∧ act = 4 ∧ target = 0)) →
      Gives i s (fun t => t.chip.get (BSN_RECOVER.BUSY b) = 1 ∧ (t.chip.bs b).recov = some (act, n.toNat, target.toNat)
        ∧ OtherRegs [(BSN_RECOVER b).key] s t ∧ QueueAndSec s t ∧ t.chip.mem = s.chip.mem))
  ∧ (∀ (ag : Agent) (b : Fin 6) (n : BitVec 32) (target : BitVec 18) (act : Nat) (i : Instr) (s : State), s.chip.hears ag 0x20000 = true →
    ag.top = true → s.chip.on (BSN_RECOVER.BUSY b) = false → ((s.chip.bs b).stopped = false ∨ s.chip.recovSlot b act n.toNat = none) →
    ((i = .rewind ag b n ∧ act = 2) ∨ (i = .send ag b n target ∧ act = 3) ∨ (i = .adopt ag b n ∧ act = 4)) →
      Gives i s (fun t => t.chip.get (BSN_RECOVER.RESULT b) = (if (s.chip.bs b).stopped then 2 else 1) ∧ OnlyRegs s t
        ∧ OtherRegs [(BSN_RECOVER b).key] s t))
  ∧ (∀ (b : Fin 6) (twice lost : Bool) (n target : Nat) (s : State), s.chip.pwr.on = true → (s.chip.bs b).recov = some (1, n, target) →
    (∀ o ∈ s.chip.ops, o.flow.basin ≠ b) → Gives (.recoverComplete b twice lost) s (fun t =>
      (t.chip.bs b).stopped = true ∧ (t.chip.bs b).recov = none ∧ t.chip.get (BSN_RECOVER.BUSY b) = 0 ∧ t.chip.get (BSN_RECOVER.RESULT b) = 0
      ∧ OtherThanEvents [(BSN_RECOVER b).key] s t ∧ QueueAndSec s t ∧ t.chip.mem = s.chip.mem))
  ∧ (∀ (b : Fin 6) (twice lost : Bool) (n target : Nat) (d : SecDesc) (k : Slot) (s : State), s.chip.pwr.on = true →
    (s.chip.bs b).recov = some (3, n, target) → s.chip.recovSlot b 3 n = some (d, k) → Gives (.recoverComplete b twice lost) s (fun t =>
      (t.chip.bs b).recov = none ∧ t.chip.get (BSN_RECOVER.BUSY b) = 0
      ∧ t.chip.get (BSN_RECOVER.RESULT b) = (if lost || (List.range 4).all (fun j => !s.chip.on (ASY_ROUTE.VALID j)) then 4 else if twice then 3 else 0)
      ∧ (t.chip.get (BSN_RECOVER.RESULT b) = 0 → Out.ingots target b k.step k.count ∈ t.chip.out)
      ∧ OtherThanEvents [(BSN_RECOVER b).key] s t ∧ QueueAndSec s t ∧ t.chip.mem = s.chip.mem))
  ∧ (∀ (b : Fin 6) (twice lost : Bool) (act n target : Nat) (d : SecDesc) (k : Slot) (s : State), s.chip.pwr.on = true → (act = 2 ∨ act = 4) →
    (s.chip.bs b).recov = some (act, n, target) → s.chip.recovSlot b act n = some (d, k) → Gives (.recoverComplete b twice lost) s (fun t =>
      (t.chip.bs b).recov = none ∧ t.chip.get (BSN_RECOVER.BUSY b) = 0
      ∧ (lost = true → t.chip.get (BSN_RECOVER.RESULT b) = 4 ∧ t.chip.mem = s.chip.mem)
      ∧ (lost = false → s.chip.digests k.base k.count ≠ s.chip.mem.reads k.base (32 * k.count) →
          t.chip.get (BSN_RECOVER.RESULT b) = 3 ∧ t.chip.mem = s.chip.mem)
      ∧ (lost = false → s.chip.digests k.base k.count = s.chip.mem.reads k.base (32 * k.count) →
          t.chip.get (BSN_RECOVER.RESULT b) = 0 ∧ t.chip.step b = (k.step + 1) % 2 ^ 64) ∧ QueueAndSec s t))

/-- Clusters gate, stop, start and lock their PLLs. CLUSTER_IDLE of a cluster of a basin that runs no kernel, its PLL on and its clocks not gated, gates its clocks, and in a mode other than 0 also stops its PLL. CLUSTER_WAKE for a cluster that the launch next in a queue names starts every stopped PLL among the clusters that it names, and touches no other cluster; WAKE by an agent that may write the basin starts every stopped PLL of the basin and no other; PLL_LOCKED of a starting PLL turns it on and shows it. -/
def Obligations.ClustersSleepAndWake : Prop :=
  (∀ (kc : Fin 104) (s : State), s.chip.pwr.on = true → s.chip.clBasin kc < 6 → s.chip.kernOf kc = none → (s.chip.cl kc).gated = false →
    (s.chip.cl kc).pllOn = true → Gives (.clusterIdle kc) s (fun t => (t.chip.cl kc).gated = true
      ∧ (t.chip.cl kc).pllOn = decide (s.chip.get (BSN_WAKE.MODE (s.chip.clBasin kc)) = 0)
      ∧ (∀ j, j ≠ (kc : Nat) → t.chip.cl j = s.chip.cl j)
      ∧ OtherRegs [(BSN_WAKE (s.chip.clBasin kc)).key, (PWR_DIE_STS (kc / 4)).key] s t ∧ QueueAndSec s t ∧ t.chip.mem = s.chip.mem))
  ∧ (∀ (kc : Fin 104) (q : Fin 64) (s : State), s.chip.pwr.on = true → s.chip.clBasin kc < 6 →
    s.chip.wakes (s.chip.clBasin kc) q kc = true →
      Gives (.clusterWake kc q) s (fun t =>
        (∀ j ∈ s.chip.basinCls (s.chip.clBasin kc), s.chip.wakes (s.chip.clBasin kc) q j = true → (s.chip.cl j).pllOn = false →
          (t.chip.cl j).pllStart = true)
        ∧ (∀ j, (j ∉ s.chip.basinCls (s.chip.clBasin kc) ∨ s.chip.wakes (s.chip.clBasin kc) q j = false) → t.chip.cl j = s.chip.cl j)
        ∧ OtherRegs [(BSN_WAKE (s.chip.clBasin kc)).key] s t ∧ QueueAndSec s t ∧ t.chip.mem = s.chip.mem))
  ∧ (∀ (ag : Agent) (b : Fin 6) (s : State), s.chip.hears ag 0x20000 = true → s.chip.mayBsn ag b = true → Gives (.wake ag b) s (fun t =>
      (∀ kc ∈ s.chip.basinCls b, (s.chip.cl kc).pllOn = false → (t.chip.cl kc).pllStart = true)
      ∧ (∀ kc, kc ∉ s.chip.basinCls b → t.chip.cl kc = s.chip.cl kc) ∧ OtherRegs [(BSN_WAKE b).key] s t ∧ QueueAndSec s t ∧ t.chip.mem = s.chip.mem))
  ∧ (∀ (kc : Fin 104) (s : State), s.chip.pwr.on = true → (s.chip.cl kc).pllStart = true → Gives (.pllLocked kc) s (fun t =>
      (t.chip.cl kc).pllOn = true ∧ (t.chip.cl kc).pllStart = false ∧ t.chip.get (pllBit kc) = 1
      ∧ (∀ j, j ≠ (kc : Nat) → t.chip.cl j = s.chip.cl j)
      ∧ OtherRegs [(PWR_DIE_STS (kc / 4)).key] s t ∧ QueueAndSec s t ∧ t.chip.mem = s.chip.mem))

/-- The governor, Boost, grants, sensors and droop. BOOST_STEP under a limit lowers a FREQ above 0 by one, and without one raises it by one where it is below 8, the issue level is 64, the basin's grant leaves 2 W for each running cluster, the die is below BOOST_T, and no droop or rise has been. GOVERNOR_UPDATE shows the package averages, keeps the peak, and shows each basin's average over the window. GRANT_REDISTRIBUTE in single tenancy of grants that keep the floors and the cap sets them. A stack sample shows its temperature and, above 85 degrees, HOT; at or above 105 degrees it shuts the part down. A forge or other die's sample below 120 degrees of one sensor that engages or holds no clamp shows its reading and slope; a second sample in a row at 120 degrees or more trips the die, whose router is lost, or within 10 seconds of another trip shuts the part down. A sample of no sensor changes nothing. A droop event holds its die at issue level 1 and records itself; its end lifts the hold. -/
def Obligations.PowerAndTemperatureComplete : Prop :=
  (∀ (n : Fin 26) (s : State), s.chip.pwr.on = true → s.chip.modes.boost = true → s.chip.dieBasin n < 6 → 0 < s.chip.get (PWR_DIE_STS.FREQ n) →
    Gives (.boostStep n true) s (fun t => t.chip.get (PWR_DIE_STS.FREQ n) = s.chip.get (PWR_DIE_STS.FREQ n) - 1
      ∧ OnlyRegs s t ∧ OtherRegs [(PWR_DIE_STS n).key] s t))
  ∧ (∀ (n : Fin 26) (s : State), s.chip.pwr.on = true → s.chip.modes.boost = true → s.chip.dieBasin n < 6 → s.chip.get (PWR_DIE_STS.FREQ n) < 8 →
    s.chip.get (PWR_DIE_STS.LEVEL n) = 64 →
    s.chip.get (PWR_GRANT.AVG (s.chip.dieBasin n)) + 2 * s.chip.liveCls n ≤ s.chip.get (PWR_GRANT.GRANT (s.chip.dieBasin n)) →
    s.chip.get (TMP_DIE.TMAX n) < 8 * s.chip.get TMP_CTL.BOOST_T → (s.chip.dieP n).droopAt = none → (s.chip.dieP n).boostAt = none →
      Gives (.boostStep n false) s (fun t => t.chip.get (PWR_DIE_STS.FREQ n) = s.chip.get (PWR_DIE_STS.FREQ n) + 1
        ∧ OtherRegs [(PWR_DIE_STS n).key] s t ∧ QueueAndSec s t))
  ∧ (∀ (terms : List (Nat × Nat)) (energy : List Nat) (hbm : List Bool) (avg last : Nat) (s : State), s.chip.pwr.on = true →
    Gives (.governorUpdate terms energy hbm avg last) s (fun t => t.chip.get PWR_STS.AVG_W = satTo 0xFFF avg
      ∧ t.chip.get PWR_STS.LAST_W = satTo 0xFFF last ∧ t.chip.get PWR_STS.PEAK_W = max (s.chip.get PWR_STS.PEAK_W) (satTo 0xFFF last)
      ∧ (∀ b < 6, b < energy.length → t.chip.get (PWR_GRANT.AVG b) = satTo 0xFFF (energy.getD b 0 / max 1 (s.chip.get PWR_CAP.WINDOW)))
      ∧ QueueAndSec s t ∧ t.chip.mem = s.chip.mem))
  ∧ (∀ (gs : List Nat) (shared : Nat) (s : State), s.chip.pwr.on = true → s.chip.singleTenancy = true → gs.length = 6 →
    (∀ b < 6, s.chip.get (PWR_GRANT.MIN b) ≤ gs.getD b 0 ∧ gs.getD b 0 ≤ 1200) → gs.sum + shared ≤ s.chip.get PWR_CAP.CAP_W →
      Gives (.grantRedistribute gs shared) s (fun t => (∀ b < 6, t.chip.get (PWR_GRANT.GRANT b) = gs.getD b 0
        ∧ t.chip.get (PWR_GRANT.MIN b) = s.chip.get (PWR_GRANT.MIN b)) ∧ OnlyRegs s t
        ∧ OtherRegs ((List.range 6).map (fun b => (PWR_GRANT b).key)) s t))
  ∧ (∀ (n : Fin 44) (v : Nat) (sl : Int) (rest : List (Nat × Int)) (s : State), s.chip.pwr.on = true → 32 ≤ (n : Nat) → v < 840 →
    Gives (.thermalSample n ((v, sl) :: rest)) s (fun t =>
      t.chip.get (TMP_HBM.TEMP (n - 32)) = v ∧ t.chip.get (HBM_STACK_STS.HOT (n - 32)) = (if 680 < v then 1 else 0)
      ∧ OnlyRegs s t ∧ OtherRegs [(TMP_HBM (n - 32)).key, (HBM_STACK_STS (n - 32)).key] s t))
  ∧ (∀ (n : Fin 44) (v : Nat) (sl : Int) (rest : List (Nat × Int)) (s : State), s.chip.pwr.on = true → 32 ≤ (n : Nat) → 840 ≤ v →
    Gives (.thermalSample n ((v, sl) :: rest)) s (fun t =>
      t.chip.pwr.on = false ∧ t.chip.pwr.thermtrip = true ∧ t.chip.get HUB_BOOT_STS.STATE = 5))
  ∧ (∀ (n : Fin 44) (v : Nat) (sl : Int) (s : State), s.chip.pwr.on = true → (n : Nat) < 32 → v < 960 →
    (26 ≤ (n : Nat) ∨ ((s.chip.dieP n).clamp = false ∧ predict v sl (s.chip.get TMP_CTL.PRED_H) ≤ 10500000)) →
    Gives (.thermalSample n [(v, sl)]) s (fun t =>
      t.chip.get (TMP_DIE.TMAX n) = v ∧ t.chip.get (TMP_DIE.SENSOR n) = 0 ∧ t.chip.get (TMP_DIE.SLOPE n) = wrapInt 12 sl
      ∧ OtherRegs [(TMP_DIE n).key] s t
      ∧ t = { s with chip := { s.chip with regs := t.chip.regs, dies := t.chip.dies, risk := t.chip.risk } }))
  ∧ (∀ (n : Fin 44) (v : Nat) (sl : Int) (s : State), s.chip.pwr.on = true → (n : Nat) < 32 → 960 ≤ v → 0 ∈ (s.chip.dieP n).hot →
    Gives (.thermalSample n [(v, sl)]) s (fun t =>
      ((∀ k, s.chip.lastTrip = some k → k + 20000000 ≤ s.chip.ticks) → t.chip.get (TMP_DIE.TRIP n) = 1 ∧ (n : Nat) ∈ t.chip.routers ∧ t.chip.lastTrip = some s.chip.ticks)
      ∧ (∀ k, s.chip.lastTrip = some k → s.chip.ticks < k + 20000000 → t.chip.pwr.on = false ∧ t.chip.pwr.thermtrip = true
          ∧ t.chip.get HUB_BOOT_STS.STATE = 5)
      ∧ QueueAndSec s t))
  ∧ (∀ (n : Fin 44) (s : State), exec (.thermalSample n []) s = .next s)
  ∧ (∀ (n : Fin 26) (s : State), s.chip.pwr.on = true → 1 ≤ (s.chip.dieP n).pterm → 1 ≤ (s.chip.dieP n).tterm → Gives (.droopEvent n) s (fun t =>
      (t.chip.dieP n).droop = true ∧ (t.chip.dieP n).droopAt = some s.chip.ticks ∧ t.chip.get (PWR_DIE_STS.LEVEL n) = 1
      ∧ t.chip.get (PWR_DIE_STS.DROOP_EV n) = 1 ∧ QueueAndSec s t ∧ t.chip.mem = s.chip.mem))
  ∧ (∀ (n : Fin 26) (s : State), s.chip.pwr.on = true → (s.chip.dieP n).droop = true → Gives (.droopRecover n) s (fun t =>
      t.chip.dieP n = { s.chip.dieP n with droop := false } ∧ QueueAndSec s t ∧ t.chip.mem = s.chip.mem))

/-- Reads of PEAK_W, SLACK, NS and the non-finite summary answer and clear. A read by an agent that may read the register answers its word and then clears what R11 clears on a read (PEAK_W; SLACK with BASIN 7; NS; the summary's growths), and touches no other register. -/
def Obligations.ReadsThatClear : Prop :=
  (∀ (ag : Agent) (s : State), s.chip.hears ag PWR_STS.key = true → s.chip.mayRead ag PWR_STS.key = true → Gives (.peakRead ag) s (fun t =>
      t.chip.out = Out.rdata ag (s.chip.word PWR_STS) :: s.chip.out ∧ t.chip.get PWR_STS.PEAK_W = 0
      ∧ t.chip.get PWR_STS.AVG_W = s.chip.get PWR_STS.AVG_W ∧ RegsAndOut s t ∧ OtherRegs [PWR_STS.key] s t))
  ∧ (∀ (ag : Agent) (s : State), s.chip.hears ag PWR_SLACK.key = true → s.chip.mayRead ag PWR_SLACK.key = true → Gives (.slackRead ag) s (fun t =>
      t.chip.out = Out.rdata ag (s.chip.word PWR_SLACK) :: s.chip.out ∧ t.chip.get PWR_SLACK.SLACK = 0 ∧ t.chip.get PWR_SLACK.BASIN = 7
      ∧ RegsAndOut s t ∧ OtherRegs [PWR_SLACK.key] s t))
  ∧ (∀ (ag : Agent) (k : Fin 12) (s : State), s.chip.hears ag (HBM_URGENT_MAX k).key = true → s.chip.mayRead ag (HBM_URGENT_MAX k).key = true →
    Gives (.urgentMaxRead ag k) s (fun t => t.chip.out = Out.rdata ag (s.chip.get (HBM_URGENT_MAX.NS k)) :: s.chip.out
      ∧ t.chip.get (HBM_URGENT_MAX.NS k) = 0 ∧ RegsAndOut s t ∧ OtherRegs [(HBM_URGENT_MAX k).key] s t))
  ∧ (∀ (ag : Agent) (b : Fin 6) (s : State), s.chip.hears ag (ASY_NF_SUM b).key = true → s.chip.mayRead ag (ASY_NF_SUM b).key = true →
    Gives (.nfSumRead ag b) s (fun t => t.chip.out = Out.rdata ag (s.chip.nfSum b) :: s.chip.out ∧ (t.chip.bs b).nfGrow = []
      ∧ (t.chip.bs b).spikeGrow = 0 ∧ t = { s with chip := { s.chip with basins := t.chip.basins, out := t.chip.out } }))

/-- Counters clear as their rules say, and snapshots are taken and released. A write of any event counter by an agent that reaches its register sets SAT as written, and with SAT 0 clears COUNT; one of ASY_NF_DATA does so with the counter that ASY_NF_SEL selects. VOLUME_CLEAR through the second register of any volume counter makes COUNT and EPOCH zero. SNAP_TAKE of a block keeps an image of its counters and sets HELD, and SNAP_RELEASE drops it and clears HELD; each changes no other register. SNAP_ALL_TAKE and SNAP_ALL_RELEASE by the physical function, the sideband or Lansel do so for every block. -/
def Obligations.CountersAndSnapshots : Prop :=
  (∀ (ag : Agent) (off : Nat) (r : RegRow) (g : Reg) (sat : Bool) (s : State), s.chip.hears ag off = true → s.chip.regReach ag off true = true →
    s.chip.find off = some (r, g) → r.isEvent = true → r.kind ≠ .asyNfData →
    Gives (.eventCounterWrite ag off sat) s (fun t => t.chip.word g = (if sat then setBits (s.chip.word g) 63 1 1 else 0)
      ∧ OnlyRegs s t ∧ OtherRegs [g.key] s t))
  ∧ (∀ (ag : Agent) (b n : Nat) (sat : Bool) (s : State), ag.top = true → s.chip.hears ag ASY_NF_DATA.key = true → s.chip.get ASY_NF_SEL.BASIN = b → b < 6 →
    s.chip.get ASY_NF_SEL.SLOT = n → n ≠ 0 → Gives (.eventCounterWrite ag ASY_NF_DATA.key sat) s (fun t =>
      Map.get 0 (t.chip.bs b).nf n = (if sat then setBits (Map.get 0 (s.chip.bs b).nf n) 63 1 1 else 0)
      ∧ (∀ m, m ≠ n → Map.get 0 (t.chip.bs b).nf m = Map.get 0 (s.chip.bs b).nf m)
      ∧ t = { s with chip := { s.chip with basins := t.chip.basins } }))
  ∧ (∀ (ag : Agent) (off : Nat) (r : RegRow) (g : Reg) (s : State), s.chip.hears ag off = true → s.chip.regReach ag off true = true →
    s.chip.find off = some (r, g) → r.isEpoch = true → 8 ≤ g.key →
    Gives (.volumeClear ag off) s (fun t => t.chip.word ⟨g.key - 8, 0⟩ = 0 ∧ t.chip.word g = 0 ∧ OnlyRegs s t ∧ OtherRegs [g.key - 8, g.key] s t))
  ∧ (∀ (ag : Agent) (off : Nat) (l : Loc) (s : State), s.chip.hears ag off = true → s.chip.regReach ag off true = true → s.chip.locate off = some l →
    l.off = 0xFFF8 → Gives (.snapTake ag off) s (fun t =>
      Map.find t.chip.images l.base = some (s.chip.counters l.block l.base) ∧ t.chip.word (snapReg l.base) = 4
      ∧ OtherRegs [(snapReg l.base).key] s t ∧ QueueAndSec s t ∧ t.chip.mem = s.chip.mem))
  ∧ (∀ (ag : Agent) (off : Nat) (l : Loc) (s : State), s.chip.hears ag off = true → s.chip.regReach ag off true = true → s.chip.locate off = some l →
    l.off = 0xFFF8 → Gives (.snapRelease ag off) s (fun t =>
      Map.find t.chip.images l.base = none ∧ t.chip.word (snapReg l.base) = 0 ∧ OtherRegs [(snapReg l.base).key] s t ∧ QueueAndSec s t
      ∧ t.chip.mem = s.chip.mem))
  ∧ (∀ (ag : Agent) (s : State), s.chip.hears ag 0x20000 = true → ag.top = true → Gives (.snapAllTake ag) s (fun t =>
      (∀ e ∈ allBlocks, t.chip.word (snapReg e.2) = 4 ∧ t.chip.images.find e.2 ≠ none) ∧ QueueAndSec s t ∧ t.chip.mem = s.chip.mem))
  ∧ (∀ (ag : Agent) (s : State), s.chip.hears ag 0x20000 = true → ag.top = true → Gives (.snapAllRelease ag) s (fun t =>
      (∀ e ∈ allBlocks, t.chip.word (snapReg e.2) = 0 ∧ t.chip.images.find e.2 = none) ∧ QueueAndSec s t ∧ t.chip.mem = s.chip.mem))

/-- A stack controller serves reads, writes and refreshes. A controller that takes requests serves them. A good read counts in the read volume, an urgent one in HBM_URGENT_MAX, and touches nothing else. A corrected one also counts in HBM_CE_COUNT. The first uncorrectable granule of the last millisecond becomes poisoned and is logged, and a kernel that reads it stops. A whole write of a granule stores its 64 bytes, every other byte reads as before, and the granule is not poisoned. A part write of a good granule, and a write of a whole group row free of poison, store their bytes and no others. A part write of a poisoned granule by the fabric, the host or the hub stores nothing. A request to a held stack waits at the end of the list. A refresh that an urgent read waits for is postponed at most 8 times. -/
def Obligations.HbmRequestsComplete : Prop :=
  (∀ (a n syms ns : Nat) (others par : Bool) (who : Reader) (s : State), s.Serves who a false →
    0 < n → a % 64 + n ≤ 64 → a / 64 ∉ s.chip.poison → s.chip.inspect a syms others par = .good → s.chip.word (HBM_RDVOL (stackOf a)) < 2 ^ 64 - 1 →
      Gives (.hbmReadRequest a n syms ⟨others, par⟩ ns who) s (fun t =>
        t.chip.word (HBM_RDVOL (stackOf a)) = s.chip.word (HBM_RDVOL (stackOf a)) + 1
        ∧ t.chip.get (HBM_URGENT_MAX.NS (stackOf a)) = (if s.chip.prio who = .urgent then
            max (s.chip.get (HBM_URGENT_MAX.NS (stackOf a))) (min 65535 ns) else s.chip.get (HBM_URGENT_MAX.NS (stackOf a)))
        ∧ OnlyRegs s t ∧ OtherRegs [(HBM_RDVOL (stackOf a)).key, (HBM_URGENT_MAX (stackOf a)).key] s t))
  ∧ (∀ (a n syms ns : Nat) (others par : Bool) (who : Reader) (s : State), s.Serves who a false →
    0 < n → a % 64 + n ≤ 64 → a / 64 ∉ s.chip.poison → s.chip.inspect a syms others par = .corrected →
    s.chip.word (HBM_RDVOL (stackOf a)) < 2 ^ 64 - 1 → s.chip.word (HBM_CE_COUNT (stackOf a)) < 2 ^ 48 - 1 →
      Gives (.hbmReadRequest a n syms ⟨others, par⟩ ns who) s (fun t =>
        t.chip.word (HBM_CE_COUNT (stackOf a)) = s.chip.word (HBM_CE_COUNT (stackOf a)) + 1 ∧ OnlyRegs s t
        ∧ OtherRegs [(HBM_RDVOL (stackOf a)).key, (HBM_URGENT_MAX (stackOf a)).key, (HBM_CE_COUNT (stackOf a)).key] s t))
  ∧ (∀ (a n syms ns : Nat) (others par : Bool) (who : Reader) (s : State), s.Serves who a false → s.chip.ueSeenAt = [] →
    who = .record ∨ (∃ run, who = .fabric run) ∨ (∃ ag, who = .host ag) →
    0 < n → a % 64 + n ≤ 64 → a / 64 ∉ s.chip.poison → s.chip.inspect a syms others par = .bad →
      Gives (.hbmReadRequest a n syms ⟨others, par⟩ ns who) s (fun t =>
        a / 64 ∈ t.chip.poison ∧ t.chip.get (HBM_UE_LOG.VALID (stackOf a)) = 1 ∧ t.chip.mem = s.chip.mem ∧ QueueAndSec s t
        ∧ OtherThanEvents [(HBM_RDVOL (stackOf a)).key, (HBM_RDVOLE (stackOf a)).key, (HBM_URGENT_MAX (stackOf a)).key,
            (HBM_UE_COUNT (stackOf a)).key, (HBM_UE_LOG (stackOf a)).key, ASY_CTR_EV.key] s t))
  ∧ (∀ (a n syms ns kc k : Nat) (others par : Bool) (x : Kern) (s : State), s.Serves (.kernel kc k) a false → s.chip.ueSeenAt = [] →
    s.chip.kernOf kc = some x → 0 < n → a % 64 + n ≤ 64 → a / 64 ∉ s.chip.poison → s.chip.inspect a syms others par = .bad →
      Gives (.hbmReadRequest a n syms ⟨others, par⟩ ns (.kernel kc k)) s (fun t =>
        a / 64 ∈ t.chip.poison ∧ (∀ y ∈ t.chip.kerns, y.id ≠ x.id) ∧ t.chip.mem = s.chip.mem ∧ QueueAndSec s t))
  ∧ (∀ (a syms : Nat) (data : List Byte) (others par : Bool) (who : Reader) (s : State), s.Serves who a true → s.chip.ueSeenAt = [] →
    a % 64 = 0 → data.length = 64 → Gives (.hbmWriteRequest a data syms ⟨others, par⟩ who) s (fun t =>
      t.chip.mem.reads a 64 = data ∧ OtherBytes a 64 s t ∧ a / 64 ∉ t.chip.poison ∧ QueueAndSec s t
      ∧ OtherThanEvents [(HBM_WRVOL (stackOf a)).key, (HBM_WRVOLE (stackOf a)).key, (HBM_CE_COUNT (stackOf a)).key,
          (HBM_RECON_COUNT (stackOf a)).key, (HBM_UE_LOG (stackOf a)).key, ASY_CTR_EV.key] s t))
  ∧ (∀ (a syms : Nat) (data : List Byte) (others par : Bool) (who : Reader) (s : State), s.Serves who a true →
    (0 < data.length ∧ data.length < 64 ∧ a % 64 + data.length ≤ 64 ∧ a / 64 ∉ s.chip.poison ∧ s.chip.inspect a syms others par = .good)
      ∨ (data.length = 3840 ∧ groupRow a = a ∧ s.chip.poison = []) →
    Gives (.hbmWriteRequest a data syms ⟨others, par⟩ who) s (fun t =>
      t.chip.mem.reads a data.length = data ∧ OtherBytes a data.length s t ∧ t.chip.poison = s.chip.poison ∧ QueueAndSec s t
      ∧ OtherThanEvents [(HBM_WRVOL (stackOf a)).key, (HBM_WRVOLE (stackOf a)).key, ASY_CTR_EV.key] s t))
  ∧ (∀ (a syms : Nat) (data : List Byte) (others par : Bool) (who : Reader) (s : State), s.Serves who a true →
    who = .record ∨ (∃ run, who = .fabric run) ∨ (∃ ag, who = .host ag) →
    0 < data.length → data.length < 64 → a % 64 + data.length ≤ 64 → a / 64 ∈ s.chip.poison →
      Gives (.hbmWriteRequest a data syms ⟨others, par⟩ who) s (fun t => RegsAndEvents s t
        ∧ OtherThanEvents [(HBM_WRVOL (stackOf a)).key, (HBM_WRVOLE (stackOf a)).key, ASY_CTR_EV.key] s t))
  ∧ (∀ (a n syms ns : Nat) (data : List Byte) (others par : Bool) (who : Reader) (s : State), s.chip.pwr.on = true → s.chip.isHbm a = true →
    s.chip.takes (stackOf a) = true → stackOf a ∈ s.chip.held →
      (s.chip.mayHbm who a false = true → 0 < n → a % 64 + n ≤ 64 → exec (.hbmReadRequest a n syms ⟨others, par⟩ ns who) s =
        .next { s with chip := { s.chip with heldReqs := s.chip.heldReqs ++ [⟨a, n, none, syms, others, par, ns, who⟩] } })
      ∧ (s.chip.mayHbm who a true = true → wfHbmWrite a data.length = true → exec (.hbmWriteRequest a data syms ⟨others, par⟩ who) s =
        .next { s with chip := { s.chip with
          heldReqs := s.chip.heldReqs ++ [⟨a, data.length, some data, syms, others, par, 0, who⟩] } }))
  ∧ (∀ (k : Fin 12) (p : Fin 65) (bank : Fin 256) (waiting : Bool) (s : State), s.chip.pwr.on = true →
    Gives (.bankRefresh k p bank waiting) s (fun t =>
      Map.get 0 t.chip.postponed (((k : Nat) * 65 + p) * 256 + bank) =
        (if waiting = true ∧ Map.get 0 s.chip.postponed (((k : Nat) * 65 + p) * 256 + bank) < 8
         then Map.get 0 s.chip.postponed (((k : Nat) * 65 + p) * 256 + bank) + 1 else 0)
      ∧ (∀ x, x ≠ ((k : Nat) * 65 + p) * 256 + bank → Map.get 0 t.chip.postponed x = Map.get 0 s.chip.postponed x)
      ∧ t = { s with chip := { s.chip with postponed := t.chip.postponed } }))

/-- Scrub reads, lost pseudo-channels, rebuilds and planned copies. A scrub read of a granule without error counts 64 bytes and, at the end of a pass, the pass; one with 1 or 2 symbols in error also counts in HBM_CE_COUNT; one with more, the first of the last millisecond, leaves HBM_UE_LOG valid. A pseudo-channel lost from a Guarded stack whose group is whole sets its LOST and EXPOSED bits, holds the stack's requests, and starts a rebuild into a free spare; a lost channel does so for both of its own, the first being rebuilt. Lost from a Full stack it makes the stack Failed and takes its basin out of service. The unused spare lost is never used again. Releasing the hold shows Rebuilding while a rebuild runs and serves a request that waited. A rebuild that ends brings the spare in and clears LOST and EXPOSED. HBM_SPARE_CMD starts a planned copy or is refused; a copy that ends brings the spare in. -/
def Obligations.PseudoChannelsAreReplaced : Prop :=
  (∀ (k : Fin 12) (at' : ScrubAt) (syms : Nat) (others par last : Bool) (s : State), s.chip.pwr.on = true →
    s.chip.on (HBM_SCRUB_CTL.ENABLE k) = true → (k : Nat) ∉ s.chip.held → s.chip.takes k = true → s.chip.scrubs k at' = true → syms ≤ 2 →
    s.chip.word (HBM_RDVOL k) < 2 ^ 64 - 1 → s.chip.word (HBM_CE_COUNT k) < 2 ^ 48 - 1 →
      Gives (.scrubRead ⟨k, at'⟩ syms ⟨others, par⟩ last) s (fun t =>
        t.chip.word (HBM_RDVOL k) = s.chip.word (HBM_RDVOL k) + 1
        ∧ t.chip.word (HBM_CE_COUNT k) = s.chip.word (HBM_CE_COUNT k) + (if syms = 0 then 0 else 1)
        ∧ t.chip.get (HBM_SCRUB_CTL.PASSES k) = (s.chip.get (HBM_SCRUB_CTL.PASSES k) + b2n last) % 2 ^ (HBM_SCRUB_CTL.PASSES k).len
        ∧ OnlyRegs s t ∧ OtherRegs [(HBM_RDVOL k).key, (HBM_CE_COUNT k).key, (HBM_SCRUB_CTL k).key] s t))
  ∧ (∀ (k : Fin 12) (at' : ScrubAt) (syms : Nat) (others par last : Bool) (s : State), s.chip.pwr.on = true →
    s.chip.on (HBM_SCRUB_CTL.ENABLE k) = true → (k : Nat) ∉ s.chip.held → s.chip.takes k = true → s.chip.scrubs k at' = true → 2 < syms →
    s.chip.ueSeenAt = [] → s.chip.poison = [] → Gives (.scrubRead ⟨k, at'⟩ syms ⟨others, par⟩ last) s (fun t =>
        t.chip.get (HBM_UE_LOG.VALID k) = 1 ∧ t.chip.mem = s.chip.mem ∧ QueueAndSec s t
        ∧ OtherThanEvents [(HBM_RDVOL k).key, (HBM_RDVOLE k).key, (HBM_UE_COUNT k).key, (HBM_RECON_COUNT k).key, (HBM_UE_LOG k).key,
            (HBM_SCRUB_CTL k).key, ASY_CTR_EV.key] s t))
  ∧ (∀ (k : Fin 12) (p : Fin 65) (s : State), s.chip.pwr.on = true → (p : Nat) < 64 → s.chip.get (HBM_STACK_STS.STATE k) ≠ 5 → s.chip.guarded k = true →
    s.chip.grpExposed k (p % 4) = false → s.chip.pcLost k p = false → s.chip.get (HBM_REBUILD.KIND k) = 0 → s.chip.spareFree k = true →
      Gives (.pseudoChannelLoss k p false) s (fun t =>
        t.chip.pcLost k p = true ∧ t.chip.grpExposed k (p % 4) = true ∧ (k : Nat) ∈ t.chip.held ∧ t.chip.get (HBM_REBUILD.KIND k) = 1
        ∧ t.chip.get (HBM_REBUILD.TARGET k) = p ∧ t.chip.get (HBM_REBUILD.ROW k) = 0 ∧ t.chip.mem = s.chip.mem ∧ QueueAndSec s t
        ∧ OtherThanEvents [(HBM_LOST_MAP k).key, (HBM_STACK_STS k).key, (HBM_REBUILD k).key] s t))
  ∧ (∀ (k : Fin 12) (p : Fin 65) (j : Nat) (s : State), s.chip.pwr.on = true → (p : Nat) < 64 → (p : Nat) = 2 * j ∨ (p : Nat) = 2 * j + 1 →
    s.chip.get (HBM_STACK_STS.STATE k) ≠ 5 → s.chip.guarded k = true → s.chip.grpExposed k (2 * j % 4) = false →
    s.chip.grpExposed k ((2 * j + 1) % 4) = false → s.chip.pcLost k (2 * j) = false → s.chip.pcLost k (2 * j + 1) = false →
    s.chip.get (HBM_REBUILD.KIND k) = 0 → s.chip.spareFree k = true → Gives (.pseudoChannelLoss k p true) s (fun t =>
        t.chip.pcLost k (2 * j) = true ∧ t.chip.pcLost k (2 * j + 1) = true ∧ t.chip.grpExposed k (2 * j % 4) = true
        ∧ t.chip.grpExposed k ((2 * j + 1) % 4) = true ∧ (k : Nat) ∈ t.chip.held ∧ t.chip.get (HBM_REBUILD.KIND k) = 1
        ∧ t.chip.get (HBM_REBUILD.TARGET k) = 2 * j ∧ t.chip.mem = s.chip.mem ∧ QueueAndSec s t
        ∧ OtherThanEvents [(HBM_LOST_MAP k).key, (HBM_STACK_STS k).key, (HBM_REBUILD k).key] s t))
  ∧ (∀ (k : Fin 12) (p : Fin 65) (s : State), s.chip.pwr.on = true → (p : Nat) < 64 → s.chip.get (HBM_STACK_STS.STATE k) ≠ 5 → s.chip.guarded k = false →
    s.chip.pcLost k p = false → s.chip.on (HBM_STACK_STS.SPARE_USED k) = false → Gives (.pseudoChannelLoss k p false) s (fun t =>
      t.chip.get (HBM_STACK_STS.STATE k) = 5 ∧ (k : Nat) ∈ t.chip.deadStacks ∧ (t.chip.bs (k / 2)).outOfService = true ∧ QueueAndSec s t))
  ∧ (∀ (k : Fin 12) (p : Fin 65) (channel : Bool) (s : State), s.chip.pwr.on = true → (p : Nat) = 64 → s.chip.on (HBM_STACK_STS.SPARE_USED k) = false →
    Gives (.pseudoChannelLoss k p channel) s (fun t => (k : Nat) ∈ t.chip.spareDead ∧ t.chip.get (HBM_REBUILD.KIND k) = 0
      ∧ t = { s with chip := { s.chip with regs := t.chip.regs, spareDead := t.chip.spareDead } } ∧ OtherRegs [(HBM_REBUILD k).key] s t))
  ∧ (∀ (k : Fin 12) (s : State), s.chip.pwr.on = true → (k : Nat) ∈ s.chip.held →
    ((∀ r ∈ s.chip.heldReqs, stackOf r.a ≠ k) → Gives (.requestHoldRelease k) s (fun t =>
      t.chip.get (HBM_STACK_STS.STATE k) = (if s.chip.takes k = true then (if s.chip.get (HBM_REBUILD.KIND k) = 1 then 3 else 4) else 6)
      ∧ (k : Nat) ∉ t.chip.held
      ∧ t = { s with chip := { s.chip with regs := t.chip.regs, held := t.chip.held } } ∧ OtherRegs [(HBM_STACK_STS k).key] s t))
    ∧ (∀ r, s.chip.heldReqs = [r] → stackOf r.a = k → s.chip.takes k = true → exec (.requestHoldRelease k) s = .next { s with
        chip := ({ s.chip with heldReqs := [], held := s.chip.held.filter (· != (k : Nat)) }.put (HBM_STACK_STS.STATE k)
          (if s.chip.get (HBM_REBUILD.KIND k) = 1 then 3 else 4)).request r }))
  ∧ (∀ (k : Fin 12) (s : State), s.chip.pwr.on = true → s.chip.get (HBM_REBUILD.KIND k) = 1 → Gives (.rebuildComplete k) s (fun t =>
      t.chip.get (HBM_STACK_STS.SPARE_USED k) = 1 ∧ t.chip.get (HBM_STACK_STS.SPARE_FOR k) = s.chip.get (HBM_REBUILD.TARGET k)
      ∧ t.chip.get (HBM_REBUILD.KIND k) = 0 ∧ RegsAndEvents s t
      ∧ (t.chip.pcLost k (s.chip.get (HBM_REBUILD.TARGET k)) = false
          ∧ t.chip.grpExposed k (s.chip.get (HBM_REBUILD.TARGET k) % 4) = false)
      ∧ OtherThanEvents [(HBM_LOST_MAP k).key, (HBM_STACK_STS k).key, (HBM_REBUILD k).key] s t))
  ∧ (∀ (ag : Agent) (k : Fin 12) (p : Fin 64) (s : State), ag.pfSide = true → s.chip.hears ag 0x20000 = true →
    (s.chip.spareFree k = true → s.chip.get (HBM_REBUILD.KIND k) = 0 → s.chip.pcLost k p = false → Gives (.hbmSpareCopy ag k p) s (fun t =>
      t.chip.get (HBM_REBUILD.KIND k) = 2 ∧ t.chip.get (HBM_REBUILD.TARGET k) = p ∧ t.chip.get (HBM_REBUILD.ROW k) = 0
      ∧ OnlyRegs s t ∧ OtherRegs [(HBM_REBUILD k).key] s t))
    ∧ (s.chip.spareFree k = false ∨ s.chip.get (HBM_REBUILD.KIND k) ≠ 0 ∨ s.chip.pcLost k p = true → Gives (.hbmSpareCopy ag k p) s (fun t =>
      t.chip.get (HBM_STACK_STS.CMD_REFUSED k) = 1 ∧ OnlyRegs s t ∧ OtherRegs [(HBM_STACK_STS k).key] s t)))
  ∧ (∀ (k : Fin 12) (s : State), s.chip.pwr.on = true → s.chip.get (HBM_REBUILD.KIND k) = 2 → Gives (.plannedCopyComplete k) s (fun t =>
      t.chip.get (HBM_STACK_STS.SPARE_USED k) = 1 ∧ t.chip.get (HBM_STACK_STS.SPARE_FOR k) = s.chip.get (HBM_REBUILD.TARGET k)
      ∧ t.chip.get (HBM_REBUILD.KIND k) = 0 ∧ OnlyRegs s t ∧ OtherRegs [(HBM_STACK_STS k).key, (HBM_REBUILD k).key] s t))

/-- Ports send and take frames. A port that is neither out of service nor expressed sends a frame: 5,120 bytes leave its stream, the frame number goes up by one, the symbols go out on its lanes, and where no control waits the word's first 16 bits are the frame number and its CRC holds. A received frame whose codewords are all correctable counts its corrected bits; a packet that ends good in it counts in the volume, raises the receiver's number and frees its credits, and a word whose CRC fails is ignored. A packet whose checks fail makes a replay request of the receiver's number. A word that checks, with neither a request nor a restart, frees the far end's credits, takes its BER report, and frees the replay buffer up to its ACK. -/
def Obligations.FramesAreSentAndTaken : Prop :=
  (∀ (p : Fin 8) (s : State), s.chip.pwr.on = true → s.chip.portState p ≠ 0 → s.chip.portState p ≠ 7 → Gives (.frameTransmit p) s (fun t =>
      (t.chip.port p).frame = ((s.chip.port p).frame + 1) % 65536 ∧ (t.chip.port p).stream = (s.chip.port p).stream.drop 5120
      ∧ (∃ w lanes, t.chip.out = Out.frame p w :: Out.coded p lanes :: s.chip.out ∧ lanes.map Prod.fst = frameLanes (s.chip.port p).lanes
          ∧ ((s.chip.port p).ctl = [] → w % 65536 = (s.chip.port p).frame % 65536 ∧ bits w 144 16 = crc16 (leBytes 18 (bits w 0 144))))
      ∧ (∀ q, q ≠ (p : Nat) → t.chip.port q = s.chip.port q)
      ∧ t = { s with chip := { s.chip with ports := t.chip.ports, out := t.chip.out, free := t.chip.free } }))
  ∧ (∀ (p : Fin 8) (fr : BitVec 16) (ctl : BitVec 48) (link : BitVec 64) (ber crc : BitVec 16)
    (errs : List (Nat × Nat)) (e : RxEnd) (s : State), s.chip.pwr.on = true → s.chip.portState p ≠ 0 →
    s.chip.portState p ≠ 7 → errs.length ≤ 8 → (∀ x ∈ errs, x.1 ≤ 7) →
    s.chip.word (FNT_FEC_CORR (portDie p) (portK p)) + (errs.map Prod.snd).sum < 2 ^ 48 →
    crc.toNat ≠ crc16 (leBytes 18 (bits (frameWord fr ctl link ber crc) 0 144)) → (s.chip.port p).request = none → (s.chip.port p).skip = 0 →
    (s.chip.port p).rxTail = none → e.check = .good → s.chip.word (FAB_RXVOL p) + ceilDiv e.bytes 64 < 2 ^ 64 →
      Gives (.frameReceive p fr ctl link ber crc errs [] [e] none) s (fun t =>
        t.chip.word (FNT_FEC_CORR (portDie p) (portK p)) = s.chip.word (FNT_FEC_CORR (portDie p) (portK p)) + (errs.map Prod.snd).sum
        ∧ t.chip.word (FAB_RXVOL p) = s.chip.word (FAB_RXVOL p) + ceilDiv e.bytes 64
        ∧ (t.chip.port p).rxNum = ((s.chip.port p).rxNum + 1) % 65536
        ∧ Map.get 0 (t.chip.port p).rxFreed e.pool = (Map.get 0 (s.chip.port p).rxFreed e.pool + ceilDiv e.bytes 64) % 2 ^ 20
        ∧ (t.chip.port p).replay = (s.chip.port p).replay ∧ (t.chip.port p).freed = (s.chip.port p).freed
        ∧ (∀ q, q ≠ (p : Nat) → t.chip.port q = s.chip.port q)
        ∧ OtherRegs [(FNT_FEC_CORR (portDie p) (portK p)).key, (FAB_RXVOL p).key] s t
        ∧ t = { s with chip := { s.chip with regs := t.chip.regs, ports := t.chip.ports } }))
  ∧ (∀ (p : Fin 8) (fr : BitVec 16) (ctl : BitVec 48) (link : BitVec 64) (ber crc : BitVec 16)
    (e : RxEnd) (s : State), s.chip.pwr.on = true → s.chip.portState p ≠ 0 → s.chip.portState p ≠ 7 →
    crc.toNat ≠ crc16 (leBytes 18 (bits (frameWord fr ctl link ber crc) 0 144)) → (s.chip.port p).request = none → (s.chip.port p).skip = 0 →
    (s.chip.port p).rxTail = none → e.check = .failed → s.chip.word (FAB_REPLAYS p) < 2 ^ 48 - 1 →
      Gives (.frameReceive p fr ctl link ber crc [] [] [e] none) s (fun t =>
        (t.chip.port p).request = some ((s.chip.port p).rxNum % 65536) ∧ (t.chip.port p).rxNum = (s.chip.port p).rxNum
        ∧ t.chip.word (FAB_REPLAYS p) = s.chip.word (FAB_REPLAYS p) + 1
        ∧ (∀ q, q ≠ (p : Nat) → t.chip.port q = s.chip.port q) ∧ OtherRegs [(FAB_REPLAYS p).key] s t
        ∧ t = { s with chip := { s.chip with regs := t.chip.regs, ports := t.chip.ports } }))
  ∧ (∀ (p : Fin 8) (fr : BitVec 16) (ctl : BitVec 48) (link : BitVec 64) (ber crc : BitVec 16) (s : State), s.chip.pwr.on = true →
    s.chip.portState p ≠ 0 → s.chip.portState p ≠ 7 →
    (s.chip.port p).rx = none → crc.toNat = crc16 (leBytes 18 (bits (frameWord fr ctl link ber crc) 0 144)) →
    bit (frameWord fr ctl link ber crc) 96 = false → bit (frameWord fr ctl link ber crc) 97 = false →
      Gives (.frameReceive p fr ctl link ber crc [] [] [] none) s (fun t =>
        (t.chip.port p).replay = ((s.chip.port p).acked (bits (frameWord fr ctl link ber crc) 64 16)).replay
        ∧ (t.chip.port p).first = ((s.chip.port p).acked (bits (frameWord fr ctl link ber crc) 64 16)).first
        ∧ Map.get 0 (t.chip.port p).freed (bits (frameWord fr ctl link ber crc) 98 3) = bits (frameWord fr ctl link ber crc) 101 20
        ∧ Map.get 0 (t.chip.port p).peerBer (bits (frameWord fr ctl link ber crc) 140 4) = bits (frameWord fr ctl link ber crc) 128 12
        ∧ (t.chip.port p).rxFreed = (s.chip.port p).rxFreed ∧ (∀ q, q ≠ (p : Nat) → t.chip.port q = s.chip.port q)
        ∧ t = { s with chip := { s.chip with ports := t.chip.ports } }))

/-- REMAP, REMAP_ACK, LANE_DOWN, DARK, ID and CAL controls act on their port. A REMAP whose frames match, or an abrupt one, is accepted: the receiver notes the switch and sends REMAP_ACK; one for a switch already made is answered again; one whose frames do not match is refused. REMAP_ACK marks the transmitter's remap accepted, ends one already switched whose frame has passed, and on a refusal with no spare left returns the spare. LANE_DOWN with a spare laser lights it for the lane at once and parks the old one; without one, or in Compatibility mode, the port retrains; for the lane of the abrupt remap that runs it does nothing. DARK is recorded with its time, and with cause 3 makes a port that is Up or mismatched acquire. ID is recorded. CAL sets what the port lights or sends a marker. -/
def Obligations.ControlsAreTaken : Prop :=
  (∀ (p : Fin 8) (lane : Fin 16) (w : Fin 18) (f : BitVec 16) (kind : Fin 2) (same : Bool) (s : State), s.chip.pwr.on = true →
    s.chip.waveOf false p lane ≠ (w : Nat) → (same = true ∨ kind = 1) → Gives (.remap p lane w f kind same) s (fun t =>
      t.chip.port p = { s.chip.port p with rx := some (lane, w, f.toNat), downs := (s.chip.port p).downs.filter (· != (lane : Nat)),
                                           ctl := (s.chip.port p).ctl ++ [(2, remapArg lane w f.toNat kind)] }
      ∧ t.chip.pst p FNT_PORT_STS.REMAP_BUSY = 1 ∧ OtherRegs [(FNT_PORT_STS (portDie p) (portK p)).key] s t
      ∧ t = { s with chip := { s.chip with regs := t.chip.regs, ports := t.chip.ports } }))
  ∧ (∀ (p : Fin 8) (lane : Fin 16) (w : Fin 18) (f : BitVec 16) (kind : Fin 2) (same : Bool) (s : State), s.chip.pwr.on = true →
    s.chip.waveOf false p lane = (w : Nat) → Gives (.remap p lane w f kind same) s (fun t =>
      t.chip.port p = { s.chip.port p with downs := (s.chip.port p).downs.filter (· != (lane : Nat)),
                                           ctl := (s.chip.port p).ctl ++ [(2, remapArg lane w f.toNat kind)] }
      ∧ OtherRegs [(FNT_PORT_STS (portDie p) (portK p)).key] s t
      ∧ t = { s with chip := { s.chip with regs := t.chip.regs, ports := t.chip.ports } }))
  ∧ (∀ (p : Fin 8) (lane : Fin 16) (w : Fin 18) (f : BitVec 16) (s : State), s.chip.pwr.on = true →
    s.chip.waveOf false p lane ≠ (w : Nat) → Gives (.remap p lane w f 0 false) s (fun t =>
      t.chip.port p = { s.chip.port p with downs := (s.chip.port p).downs.filter (· != (lane : Nat)),
                                           ctl := (s.chip.port p).ctl ++ [(2, remapArg lane w f.toNat 0 + 2 ^ 46)] }
      ∧ OtherRegs [(FNT_PORT_STS (portDie p) (portK p)).key] s t
      ∧ t = { s with chip := { s.chip with regs := t.chip.regs, ports := t.chip.ports } }))
  ∧ (∀ (p : Fin 8) (lane : Fin 16) (w : Fin 18) (f : BitVec 16) (m : Remap) (s : State), s.chip.pwr.on = true → (s.chip.port p).tx = some m →
    m.lane = lane → m.wave = w → m.f = f.toNat →
      (m.switched = false ∨ framePast (s.chip.port p).frame m.f = false → exec (.remapAck p lane w f false) s =
        .next { s with chip := s.chip.setPort p { s.chip.port p with tx := some { m with acked := true } } })
      ∧ (m.switched = true → framePast (s.chip.port p).frame m.f = true → (s.chip.port p).due = [] →
        s.chip.word (FNT_REMAPS (portDie p) (portK p)) < 2 ^ 48 - 1 → Gives (.remapAck p lane w f false) s (fun t =>
          (t.chip.port p).tx = none ∧ t.chip.word (FNT_REMAPS (portDie p) (portK p)) = s.chip.word (FNT_REMAPS (portDie p) (portK p)) + 1
          ∧ OtherRegs [(FNT_REMAPS (portDie p) (portK p)).key, (FNT_PORT_STS (portDie p) (portK p)).key] s t ∧ QueueAndSec s t))
      ∧ (m.abrupt = true → exec (.remapAck p lane w f true) s = .next s)
      ∧ (m.abrupt = false → (∀ v < 18, s.chip.laser p v = 2 → v = (w : Nat) ∨ v ∈ m.tried) → Gives (.remapAck p lane w f true) s (fun t =>
          t.chip.laser p w = 2 ∧ (t.chip.port p).tx = none ∧ QueueAndSec s t
          ∧ OtherRegs [(FNT_LASER (portDie p) (portK p) w).key, (FNT_PORT_STS (portDie p) (portK p)).key] s t)))
  ∧ (∀ (p : Fin 8) (lane : Fin 16) (sp : Nat) (s : State), s.chip.pwr.on = true → s.chip.modes.native = true → (s.chip.port p).tx = none →
    s.chip.waveOf true p lane < 18 → s.chip.spareWave p [] = some sp → sp ≠ s.chip.waveOf true p lane → Gives (.laneDown p lane) s (fun t =>
      t.chip.laser p sp = 1 ∧ t.chip.laser p (s.chip.waveOf true p lane) = 4
      ∧ (t.chip.port p).tx = some { lane := lane, wave := sp, old := s.chip.waveOf true p lane, f := ((s.chip.port p).frame + 64) % 65536, abrupt := true }
      ∧ t.chip.pst p FNT_PORT_STS.LANE_EV = 1 ∧ t.chip.pst p FNT_PORT_STS.REMAP_BUSY = 1 ∧ QueueAndSec s t ∧ t.chip.mem = s.chip.mem))
  ∧ (∀ (p : Fin 8) (lane : Fin 16) (s : State), s.chip.pwr.on = true → (s.chip.port p).tx = none → s.chip.waveOf true p lane < 18 →
    (s.chip.modes.native = false ∨ ∀ v < 18, s.chip.laser p v = 2 → v = s.chip.waveOf true p lane) → Gives (.laneDown p lane) s (fun t =>
      t.chip.portState p = 2 ∧ t.chip.pst p FNT_PORT_STS.LANE_EV = 1 ∧ QueueAndSec s t ∧ t.chip.mem = s.chip.mem))
  ∧ (∀ (p : Fin 8) (lane : Fin 16) (m : Remap) (s : State), (s.chip.port p).tx = some m → m.lane = lane → m.abrupt = true →
      exec (.laneDown p lane) s = .next s)
  ∧ (∀ (p : Fin 8) (cause : Fin 16) (lead : BitVec 8) (s : State), s.chip.pwr.on = true →
    (cause ≠ 3 ∨ (s.chip.portUp p = false ∧ s.chip.portState p ≠ 6) → Gives (.dark p cause lead) s (fun t =>
      t.chip.pst p FNT_PORT_STS.DARK_SEEN = 1 ∧ t.chip.pst p FNT_PORT_STS.DARK_CAUSE = cause % 8 ∧ t.chip.portState p = s.chip.portState p
      ∧ t.chip.port p = { s.chip.port p with darkAt := some s.chip.ticks } ∧ OtherRegs [(FNT_PORT_STS (portDie p) (portK p)).key] s t
      ∧ t = { s with chip := { s.chip with regs := t.chip.regs, ports := t.chip.ports } }))
    ∧ (cause = 3 → s.chip.portUp p = true ∨ s.chip.portState p = 6 → Gives (.dark p cause lead) s (fun t =>
      t.chip.pst p FNT_PORT_STS.DARK_SEEN = 1 ∧ t.chip.pst p FNT_PORT_STS.DARK_CAUSE = 3 ∧ t.chip.portState p = 2 ∧ QueueAndSec s t
      ∧ t.chip.mem = s.chip.mem)))
  ∧ (∀ (p : Fin 8) (coord : BitVec 18) (port : Fin 8) (fec : Bool) (spares : Fin 4) (ver : BitVec 16) (startup : Bool) (s : State),
    s.chip.pwr.on = true → Gives (.idCtl p coord port fec spares ver startup) s (fun t =>
      t.chip.pst p FNT_PORT_STS.PEER = coord.toNat ∧ t.chip.pst p FNT_PORT_STS.PEER_PORT = port ∧ t.chip.pst p FNT_PORT_STS.SPARES_RX = spares
      ∧ t.chip.port p = { s.chip.port p with peerFec := fec, peerStart := startup }
      ∧ OtherRegs [(FNT_PORT_STS (portDie p) (portK p)).key] s t
      ∧ t = { s with chip := { s.chip with regs := t.chip.regs, ports := t.chip.ports } }))
  ∧ (∀ (p : Fin 8) (w : Fin 32) (action : Fin 8) (s : State), s.chip.pwr.on = true →
    ((action : Nat) ≤ 2 → Gives (.cal p w action) s (fun t =>
      t.chip.port p = { s.chip.port p with cal := if (action : Nat) = 0 then none else some (action, w) }
      ∧ t.chip.out = (if (action : Nat) = 2 then Out.marker p w else Out.light p (t.chip.lightMask p)) :: s.chip.out
      ∧ t = { s with chip := { s.chip with ports := t.chip.ports, out := t.chip.out } }))
    ∧ (2 < (action : Nat) → exec (.cal p w action) s = .next s))

/-- Light is lost and found, links are acquired and retrained. LOSS_OF_LIGHT of a port in service shows STATE 5 with LOS_EV, counts it, empties the replay buffer and takes the cause of a DARK of the last 600 ticks. LIGHT_DETECTED on a terminated port that is enabled and not Up starts an acquisition (STATE 2), as RETRAIN does after a DARK with cause 3, and the end of start-up calibration, which counts the record's SEQ. An acquisition that ends well, with no remap that waits, comes Up, at half width in STATE 4 while fewer than 16 lasers are lit, with its FEC mode, round trip and margin, the far end's map, and PEER_BAD as Lansel's comparison has it; one whose far end names another FEC mode stops in STATE 6; one whose lanes are not below the threshold, or with a far end in the other link mode, goes on. -/
def Obligations.LinksComeAndGo : Prop :=
  (∀ (p : Fin 8) (s : State), s.chip.pwr.on = true → s.chip.portState p ≠ 0 → s.chip.portState p ≠ 5 → s.chip.portState p ≠ 7 →
    s.chip.word (FNT_LOS (portDie p) (portK p)) < 2 ^ 48 - 1 → Gives (.lossOfLight p) s (fun t =>
      t.chip.portState p = 5 ∧ t.chip.pst p FNT_PORT_STS.LOS_EV = 1
      ∧ t.chip.word (FNT_LOS (portDie p) (portK p)) = s.chip.word (FNT_LOS (portDie p) (portK p)) + 1
      ∧ t.chip.port p = { (s.chip.port p).relink with losCause :=
          ((s.chip.port p).darkAt.filter (fun d => decide (s.chip.ticks ≤ d + 600))).map (fun _ => s.chip.pst p FNT_PORT_STS.DARK_CAUSE) }
      ∧ t = { s with chip := { s.chip with regs := t.chip.regs, ports := t.chip.ports, out := t.chip.out, irqs := t.chip.irqs } }
      ∧ OtherThanEvents [(FNT_PORT_STS (portDie p) (portK p)).key, (FNT_LOS (portDie p) (portK p)).key] s t))
  ∧ (∀ (p : Fin 8) (s : State), s.chip.pwr.on = true → s.chip.pst p FNT_PORT_CTL.ENABLE = 1 → s.chip.pst p FNT_PORT_CTL.LOOP = 0 →
    s.chip.portUp p = false → s.chip.portState p ≠ 7 → bits (s.chip.word SLC_MAP) (4 * p) 4 = 8 → Gives (.lightDetected p) s (fun t =>
      t.chip.portState p = 2 ∧ t.chip.pst p FNT_PORT_STS.LOW_MARGIN = 0 ∧ (t.chip.port p).tx = none ∧ (t.chip.port p).idDue = true
      ∧ QueueAndSec s t ∧ t.chip.mem = s.chip.mem
      ∧ ((s.chip.port p).tx = none → OtherRegs [(FNT_PORT_STS (portDie p) (portK p)).key] s t
        ∧ t.chip.port p = { s.chip.port p with rx := none, downs := [], idDue := true, peerStart := false, cal := none, bad := [],
                                               rxTail := none, pools := s.chip.word FAB_POOL % 2 ^ 32 }
        ∧ t = { s with chip := { s.chip with regs := t.chip.regs, ports := t.chip.ports } })))
  ∧ (∀ (p : Fin 8) (rtt : Nat) (bers : List (Nat × Nat)) (losses map parkedOk : List Nat) (peerOk : Bool) (s : State), s.chip.pwr.on = true →
    s.chip.portState p = 2 → s.chip.modes.native = true → (s.chip.port p).startup = false → (s.chip.port p).peerStart = false →
    (s.chip.port p).peerFec = (s.chip.pst p FNT_PORT_CTL.FEC == 1) → (∀ e ∈ bers, berBelow (s.chip.pst p FNT_PORT_CTL.FEC) e.2 = true) →
    (s.chip.port p).due = [] → (s.chip.port p).half = false ∨ (parkedOk = [] ∧ ((List.range 18).filter (fun w => s.chip.lit p w)).length < 16) →
      Gives (.acquisitionComplete p rtt bers losses ⟨map, parkedOk⟩ ⟨true, peerOk⟩) s (fun t =>
        t.chip.portState p = (if (s.chip.port p).half then 4 else 3) ∧ (t.chip.port p).half = (s.chip.port p).half
        ∧ t.chip.pst p FNT_PORT_STS.FEC_ACT = s.chip.pst p FNT_PORT_CTL.FEC ∧ t.chip.pst p FNT_PORT_STS.RTT = min 0xFFFF rtt
        ∧ t.chip.pst p FNT_PORT_STS.LOW_MARGIN = b2n (!losses.all (lossOk (s.chip.pst p FNT_PORT_CTL.FEC)))
        ∧ (∀ l < 16, t.chip.waveOf false p l = map.getD l 31 % 32) ∧ bit (t.chip.get FAB_PHYS.PEER_BAD) p = !peerOk
        ∧ QueueAndSec s t ∧ t.chip.mem = s.chip.mem
        ∧ ((∀ l < 16, s.chip.waveOf false p l = map.getD l 31) → parkedOk = [] →
            OtherThanEvents [(FNT_PORT_STS (portDie p) (portK p)).key, FAB_PHYS.key] s t)))
  ∧ (∀ (p : Fin 8) (rtt : Nat) (bers : List (Nat × Nat)) (losses map parkedOk : List Nat) (peerMode peerOk : Bool) (s : State),
    s.chip.pwr.on = true → s.chip.portState p = 2 → s.chip.modes.native = true → (s.chip.port p).startup = false → (s.chip.port p).peerStart = false →
    (peerMode = true → (s.chip.port p).peerFec ≠ (s.chip.pst p FNT_PORT_CTL.FEC == 1) →
      Gives (.acquisitionComplete p rtt bers losses ⟨map, parkedOk⟩ ⟨peerMode, peerOk⟩) s (fun t => t.chip.portState p = 6 ∧ RegsAndEvents s t
        ∧ OtherThanEvents [(FNT_PORT_STS (portDie p) (portK p)).key] s t))
    ∧ (peerMode = false ∨ ((s.chip.port p).peerFec = (s.chip.pst p FNT_PORT_CTL.FEC == 1)
        ∧ ∃ e ∈ bers, berBelow (s.chip.pst p FNT_PORT_CTL.FEC) e.2 = false) →
      exec (.acquisitionComplete p rtt bers losses ⟨map, parkedOk⟩ ⟨peerMode, peerOk⟩) s = .next s))
  ∧ (∀ (ag : Agent) (p : Fin 8) (s : State),
    (ag.top = true → s.chip.hears ag 0x20000 = true → s.chip.portState p ≠ 0 → s.chip.portState p ≠ 7 → Gives (.retrain ag p) s (fun t =>
      t.chip.portState p = 2 ∧ (t.chip.port p).ctl = (s.chip.port p).ctl ++ [(4, fld 20 4 3)] ∧ QueueAndSec s t ∧ t.chip.mem = s.chip.mem
      ∧ ((s.chip.port p).tx = none → OtherRegs [(FNT_PORT_STS (portDie p) (portK p)).key] s t)))
    ∧ (ag.top = false ∨ s.chip.portState p = 0 ∨ s.chip.portState p = 7 → exec (.retrain ag p) s = .next s))
  ∧ (∀ (p : Fin 8) (losses : List Nat) (s : State), s.chip.pwr.on = true → (s.chip.port p).startup = true → s.chip.portUp p = true →
    Gives (.calibrationCommit p losses) s (fun t =>
      t.chip.portState p = 2 ∧ (t.chip.port p).startup = false ∧ (t.chip.port p).ctl = (s.chip.port p).ctl ++ [(4, fld 20 4 3)]
      ∧ Map.get 0 t.chip.calSeq p = Map.get 0 s.chip.calSeq p + 1 ∧ QueueAndSec s t ∧ t.chip.mem = s.chip.mem
      ∧ ((s.chip.port p).tx = none → OtherThanEvents [(FNT_PORT_STS (portDie p) (portK p)).key] s t)))

/-- Lasers are evaluated, mirrored, switched, failed and returned. An evaluation below its thresholds shows what was measured, and the BER code of a received lane, and changes nothing else; one above them of a laser that carries a lane, with a spare, starts a fade remap, as REMAP_GO does; while another remap runs REMAP_GO waits. A remap whose frame has passed moves the lane to its wavelength: an abrupt one not yet accepted goes on waiting for that, an accepted one ends, is counted, and a fade one retires the old laser. A remap that waits past F + 1,024 is sent again. A spare laser whose light falls is Failed; so is one that carries a lane, which moves to a spare; one that is dark stays. RETURN_GO lights a Parked, Retired or Failed laser; its training makes it Spare or Failed. A measurement sets BUSY, with a CAL for the far end where it needs one, or is turned away with ERR; its end gives its value and ends the CAL. -/
def Obligations.LasersAreMovedAndReturned : Prop :=
  (∀ (p : Fin 8) (w : Fin 18) (fade fadePred berPred power bias headroom : Nat) (rx : Option (Fin 16 × Nat)) (s : State), s.chip.pwr.on = true →
    fadePred ≤ 10 * s.chip.pst p FNT_PORT_CTL.SWAP_DB → berVal 8 (berCode 8 berPred) ≤ s.chip.pst p FNT_PORT_CTL.SWAP_BER →
      Gives (.laserEvaluation p w fade fadePred berPred power bias headroom (rx.toList.map (fun e => ((e.1 : Nat), e.2)))) s (fun t =>
      t.chip.get (FNT_LASER.FADE (portDie p) (portK p) w) = fade % 4096 ∧ t.chip.get (FNT_LASER.POWER (portDie p) (portK p) w) = power % 4096
      ∧ t.chip.get (FNT_LASER.BIAS (portDie p) (portK p) w) = bias % 1024 ∧ t.chip.get (FNT_LASER.HEADROOM (portDie p) (portK p) w) = headroom % 256
      ∧ t.chip.laser p w = s.chip.laser p w ∧ (∀ e, rx = some e → t.chip.get (berField p e.1) = berCode 12 e.2) ∧ OnlyRegs s t
      ∧ OtherRegs ((FNT_LASER (portDie p) (portK p) w).key :: rx.toList.map (fun e => (berField p e.1).reg.key)) s t))
  ∧ (∀ (p : Fin 8) (w : Fin 18) (fade fadePred berPred power bias headroom l sp : Nat) (s : State), s.chip.pwr.on = true →
    10 * s.chip.pst p FNT_PORT_CTL.SWAP_DB < fadePred → s.chip.laneOf true p w = some l → s.chip.laser p w = 1 →
    s.chip.pst p FNT_PORT_CTL.HOLD_SPARE = 0 → (s.chip.port p).tx = none → s.chip.portUp p = true → s.chip.modes.native = true →
    s.chip.circuitChanging p = false → s.chip.spareWave p [] = some sp →
      Gives (.laserEvaluation p w fade fadePred berPred power bias headroom []) s (fun t => t.chip.laser p sp = 3
        ∧ (t.chip.port p).tx = some { lane := l, wave := sp, old := w, f := ((s.chip.port p).frame + 128) % 65536, abrupt := false }
        ∧ t.chip.pst p FNT_PORT_STS.REMAP_BUSY = 1 ∧ QueueAndSec s t ∧ t.chip.mem = s.chip.mem))
  ∧ (∀ (ag : Agent) (p : Fin 8) (lane : Fin 16) (s : State), ag.top = true → s.chip.hears ag 0x20000 = true → s.chip.modes.native = true →
    (∀ sp, (s.chip.port p).tx = none → s.chip.portUp p = true → s.chip.circuitChanging p = false → s.chip.spareWave p [] = some sp →
      Gives (.remapGo ag p lane) s (fun t => t.chip.laser p sp = 3
      ∧ (t.chip.port p).tx = some { lane := lane, wave := sp, old := s.chip.waveOf true p lane, f := ((s.chip.port p).frame + 128) % 65536, abrupt := false }
      ∧ t.chip.pst p FNT_PORT_STS.REMAP_BUSY = 1
      ∧ OtherRegs [(FNT_LASER (portDie p) (portK p) sp).key, (FNT_PORT_STS (portDie p) (portK p)).key] s t ∧ QueueAndSec s t))
    ∧ ((s.chip.port p).tx ≠ none → (lane : Nat) ∉ (s.chip.port p).due → exec (.remapGo ag p lane) s =
        .next { s with chip := s.chip.setPort p { s.chip.port p with due := (s.chip.port p).due ++ [(lane : Nat)] } }))
  ∧ (∀ (p : Fin 8) (m : Remap) (s : State), s.chip.pwr.on = true → (s.chip.port p).tx = some m → m.lane < 16 → m.wave < 32 → m.switched = false →
    framePast (s.chip.port p).frame m.f = true →
    (m.abrupt = true → m.acked = false → Gives (.remapSwitch p) s (fun t =>
      t.chip.waveOf true p m.lane = m.wave ∧ (∀ l < 16, l ≠ m.lane → t.chip.waveOf true p l = s.chip.waveOf true p l)
      ∧ t.chip.port p = { s.chip.port p with tx := some { m with switched := true } }
      ∧ OtherRegs [(mapField true p m.lane).reg.key] s t
      ∧ t = { s with chip := { s.chip with regs := t.chip.regs, ports := t.chip.ports } }))
    ∧ (m.acked = true → (s.chip.port p).due = [] → m.old < 18 → m.wave < 18 → m.old ≠ m.wave →
      s.chip.word (FNT_REMAPS (portDie p) (portK p)) < 2 ^ 48 - 1 → Gives (.remapSwitch p) s (fun t =>
      t.chip.waveOf true p m.lane = m.wave ∧ (∀ l < 16, l ≠ m.lane → t.chip.waveOf true p l = s.chip.waveOf true p l)
      ∧ (m.abrupt = false → t.chip.laser p m.old = 5 ∧ t.chip.laser p m.wave = 1)
      ∧ (t.chip.port p).tx = none ∧ t.chip.word (FNT_REMAPS (portDie p) (portK p)) = s.chip.word (FNT_REMAPS (portDie p) (portK p)) + 1
      ∧ OtherRegs [(mapField true p m.lane).reg.key, (FNT_REMAPS (portDie p) (portK p)).key, (FNT_PORT_STS (portDie p) (portK p)).key,
          (FNT_LASER (portDie p) (portK p) m.old).key, (FNT_LASER (portDie p) (portK p) m.wave).key] s t ∧ QueueAndSec s t)))
  ∧ (∀ (p : Fin 8) (m : Remap) (s : State), s.chip.pwr.on = true → (s.chip.port p).tx = some m → m.acked = false →
    framePast (s.chip.port p).frame (m.f + 1024) = true → Gives (.remapRetry p) s (fun t =>
      (∃ f, f = ((s.chip.port p).frame + if m.abrupt then 64 else 128) % 65536 ∧ (t.chip.port p).tx = some { m with f := f }
        ∧ (t.chip.port p).ctl = (s.chip.port p).ctl ++ [(1, remapArg m.lane m.wave f (b2n m.abrupt))])
      ∧ t = { s with chip := { s.chip with ports := t.chip.ports } }))
  ∧ (∀ (p : Fin 8) (w : Fin 18) (s : State), s.chip.pwr.on = true →
    (s.chip.laser p w = 2 → Gives (.laserLightDrop p w) s (fun t =>
      t.chip.laser p w = 6 ∧ OnlyRegs s t ∧ OtherRegs [(FNT_LASER (portDie p) (portK p) w).key, (FNT_PORT_STS (portDie p) (portK p)).key] s t))
    ∧ (∀ l sp, s.chip.laser p w = 1 → s.chip.laneOf true p w = some l → s.chip.modes.native = true → (s.chip.port p).tx = none →
        s.chip.spareWave p [] = some sp → Gives (.laserLightDrop p w) s (fun t =>
          t.chip.laser p w = 6 ∧ t.chip.laser p sp = 1 ∧ t.chip.pst p FNT_PORT_STS.LANE_EV = 1
          ∧ (t.chip.port p).tx = some { lane := l, wave := sp, old := w, f := ((s.chip.port p).frame + 64) % 65536, abrupt := true }
          ∧ QueueAndSec s t ∧ t.chip.mem = s.chip.mem))
    ∧ (s.chip.laser p w = 0 ∨ 4 ≤ s.chip.laser p w → exec (.laserLightDrop p w) s = .next s))
  ∧ (∀ (ag : Agent) (p : Fin 8) (w : Fin 32) (s : State),
    (ag.top = true → s.chip.hears ag 0x20000 = true → (w : Nat) < 18 → s.chip.portUp p = true → 4 ≤ s.chip.laser p w →
      exec (.returnGo ag p w) s = .next { s with chip := (s.chip.setPort p { s.chip.port p with training := some w }).shine p })
    ∧ (ag.top = false ∨ 18 ≤ (w : Nat) ∨ s.chip.portUp p = false ∨ s.chip.laser p w < 4 → exec (.returnGo ag p w) s = .next s))
  ∧ (∀ (p : Fin 8) (w : Fin 18) (fade ber : Nat) (s : State), s.chip.pwr.on = true → (s.chip.port p).training = some w →
    Gives (.laserReturnDone p w fade ber) s (fun t =>
      t.chip.laser p w = (if fade < 10 * s.chip.pst p FNT_PORT_CTL.SWAP_DB ∧ ber < s.chip.pst p FNT_PORT_CTL.SWAP_BER then 2 else 6)
      ∧ t.chip.port p = { s.chip.port p with training := none }
      ∧ OtherRegs [(FNT_LASER (portDie p) (portK p) w).key, (FNT_PORT_STS (portDie p) (portK p)).key] s t ∧ QueueAndSec s t))
  ∧ (∀ (ag : Agent) (p : Fin 8) (kind : Fin 8) (w v : Fin 32) (integ : Fin 8) (s : State), ag.top = true → s.chip.hears ag 0x20000 = true →
    (s.chip.pst p FNT_WEIR_RES.BUSY = 0 → s.chip.weirOk p kind w v integ = true → Gives (.weirMeasure ag p kind w v integ) s (fun t =>
      t.chip.pst p FNT_WEIR_RES.BUSY = 1 ∧ t.chip.pst p FNT_WEIR_RES.DONE = 0 ∧ t.chip.pst p FNT_WEIR_RES.ERR = 0
      ∧ t.chip.port p = (if (kind : Nat) = 2 then { s.chip.port p with calTo := some v, ctl := (s.chip.port p).ctl ++ [(6, fld 20 5 v + fld 25 3 1)] }
          else if (kind : Nat) = 3 then { s.chip.port p with calTo := some w, ctl := (s.chip.port p).ctl ++ [(6, fld 20 5 w + fld 25 3 2)] }
          else s.chip.port p)
      ∧ OtherRegs [(FNT_WEIR_RES (portDie p) (portK p)).key] s t
      ∧ t = { s with chip := { s.chip with regs := t.chip.regs, ports := t.chip.ports } }))
    ∧ (s.chip.pst p FNT_WEIR_RES.BUSY = 1 ∨ s.chip.weirOk p kind w v integ = false → Gives (.weirMeasure ag p kind w v integ) s (fun t =>
      t.chip.pst p FNT_WEIR_RES.ERR = 1 ∧ OnlyRegs s t ∧ OtherRegs [(FNT_WEIR_RES (portDie p) (portK p)).key] s t)))
  ∧ (∀ (p : Fin 8) (value enob : Nat) (s : State), s.chip.pwr.on = true → s.chip.pst p FNT_WEIR_RES.BUSY = 1 → Gives (.weirMeasureDone p value enob) s (fun t =>
      t.chip.pst p FNT_WEIR_RES.VALUE = value % 2 ^ 32 ∧ t.chip.pst p FNT_WEIR_RES.ENOB = enob % 256 ∧ t.chip.pst p FNT_WEIR_RES.DONE = 1
      ∧ t.chip.pst p FNT_WEIR_RES.BUSY = 0
      ∧ t.chip.port p = { s.chip.port p with calTo := none, ctl := (s.chip.port p).ctl ++ (s.chip.port p).calTo.toList.map (fun w => (6, fld 20 5 w)) }
      ∧ OtherRegs [(FNT_WEIR_RES (portDie p) (portK p)).key] s t
      ∧ t = { s with chip := { s.chip with regs := t.chip.regs, ports := t.chip.ports } }))

/-- The sluice checks a map, waits, and switches; a lost fountain die's ports are Lost. APPLY of a map that checks sets BUSY and waits with it; of one that does not, it ends with the result of the check and the map stays; while BUSY it sets OVERRUN. BAR does the same with the bar map. The switch, with every remap that runs on a laser of its port, gives every port that is not Lost its code of the waiting map, clears BUSY with RESULT 0 and counts GEN. The loss of a fountain die makes its own ports' code Lost and their STATE 0, and leaves the code of every port that expressed to none of them. -/
def Obligations.SluiceChangesMap : Prop :=
  (∀ (ag : Agent) (s : State), ag.top = true → s.chip.hears ag 0x20000 = true → s.chip.modes.native = true → s.chip.on SLC_STS.BUSY = false →
    s.chip.mapCheck (s.chip.word SLC_MAP_NEXT % 2 ^ 32) = 0 → Gives (.applyMap ag) s (fun t =>
      t.chip.get SLC_STS.BUSY = 1 ∧ t.chip.sluiceNext = some (s.chip.word SLC_MAP_NEXT % 2 ^ 32) ∧ OtherRegs [SLC_STS.key] s t ∧ QueueAndSec s t
      ∧ t = { s with chip := { s.chip with regs := t.chip.regs, ports := t.chip.ports, sluiceNext := t.chip.sluiceNext } }))
  ∧ (∀ (ag : Agent) (s : State), ag.top = true → s.chip.hears ag 0x20000 = true → s.chip.modes.native = true → s.chip.on SLC_STS.BUSY = false →
    s.chip.mapCheck (s.chip.word SLC_MAP_NEXT % 2 ^ 32) ≠ 0 → Gives (.applyMap ag) s (fun t =>
      t.chip.get SLC_STS.RESULT = s.chip.mapCheck (s.chip.word SLC_MAP_NEXT % 2 ^ 32) ∧ t.chip.get SLC_STS.BUSY = 0 ∧ RegsAndEvents s t
      ∧ OtherThanEvents [SLC_STS.key] s t))
  ∧ (∀ (ag : Agent) (i : Instr) (s : State), i = .applyMap ag ∨ i = .barMap ag → ag.top = true → s.chip.hears ag 0x20000 = true →
    s.chip.modes.native = true → s.chip.on SLC_STS.BUSY = true → Gives i s (fun t =>
      t.chip.get SLC_STS.OVERRUN = 1 ∧ OnlyRegs s t ∧ OtherRegs [SLC_STS.key] s t))
  ∧ (∀ (ag : Agent) (s : State), ag.top = true → s.chip.hears ag 0x20000 = true → s.chip.modes.native = true → s.chip.on SLC_STS.BUSY = false →
    (s.chip.mapCheck barMap = 0 → Gives (.barMap ag) s (fun t =>
      t.chip.get SLC_STS.BUSY = 1 ∧ t.chip.sluiceNext = some barMap ∧ OtherRegs [SLC_STS.key] s t ∧ QueueAndSec s t))
    ∧ (s.chip.mapCheck barMap ≠ 0 → Gives (.barMap ag) s (fun t =>
      t.chip.get SLC_STS.RESULT = s.chip.mapCheck barMap ∧ t.chip.get SLC_STS.BUSY = 0 ∧ RegsAndEvents s t ∧ OtherThanEvents [SLC_STS.key] s t)))
  ∧ (∀ (m : Nat) (s : State), s.chip.pwr.on = true → s.chip.sluiceNext = some m → (∀ p r, (s.chip.port p).tx = some r → r.wave < 18) →
    Gives .sluiceSwitch s (fun t =>
      (∀ p < 8, mapCode (t.chip.word SLC_MAP) p = (if mapCode (s.chip.word SLC_MAP) p = 0xB then 0xB else mapCode m p))
      ∧ t.chip.get SLC_MAP.GEN = (s.chip.get SLC_MAP.GEN + 1) % 65536 ∧ t.chip.sluiceNext = none ∧ t.chip.get SLC_STS.BUSY = 0
      ∧ t.chip.get SLC_STS.RESULT = 0 ∧ QueueAndSec s t ∧ t.chip.mem = s.chip.mem))
  ∧ (∀ (d : Fin 4) (s : State), s.chip.pwr.on = true → bit (s.chip.get SLC_STS.LOST) d = false → Gives (.fountainDieLoss d) s (fun t =>
      bit (t.chip.get SLC_STS.LOST) d = true ∧ (∀ p < 8, portDie p = d → mapCode (t.chip.word SLC_MAP) p = 0xB ∧ t.chip.portState p = 0)
      ∧ (∀ p < 8, portDie p ≠ d → (∀ q < 8, portDie q = d → mapCode (s.chip.word SLC_MAP) q ≠ p) → mapCode (t.chip.word SLC_MAP) p = mapCode (s.chip.word SLC_MAP) p)
      ∧ OnlyRegs s t))

/-- Every packet header reads back as it was written, and its check holds. For every header whose fields fit their widths, decoding the 256 bits that encode it gives the header itself, with every field at every value, and the header check holds. It says that no bit of a header is dropped and no two fields share one. -/
def Obligations.PacketHeadersRoundTrip : Prop :=
  ∀ h : Hdr, h.opc < 16 → h.run < 4 → h.lane < 2 → h.rfmt < 16 → h.maxis < 4 → h.dst < 2 ^ 18 → h.dbasin < 8 → h.src < 2 ^ 18 → h.sbasin < 8 →
    h.addr < 2 ^ 48 → h.len < 2 ^ 13 → h.seq < 2 ^ 16 → h.slice < 2 ^ 16 → h.step < 2 ^ 32 → h.mspan < 2 ^ 6 → h.xid < 2 ^ 16 →
      decHdr h.enc = h ∧ hdrOk h.enc = true ∧ h.enc < 2 ^ 256

/-- Header words and slot words written out from the spec's tables decode to what they stand for. The words whose bits the header table places decode so: a PUT of 64 bytes on runnel B to coordinate 5, basin 2, from coordinate 1, basin 3, at address 0x1000 with number 9; a GET with ORD on runnel U; an ACK with REF. The words the spec writes out decode to what it says they are: HALT and LADD of latch 5 by s5 (bundle 10 of its example), MLOAD of 256 rows and 256 columns to WTAG 5, MPASS of 256 rows into OTAG 4 of set 0, VFMA v1, v0, v0, v1 on p0. So do ADD s3, s1, s2; ADDI s4, s1, −1; and MSYNC of event 0, their bits written out from the encoding tables; the empty word of each slot is empty, and an unknown S opcode decodes to nothing. -/
def Obligations.WordsDecode : Prop :=
  (decHdr (0 + 1 * 2 ^ 4 + 5 * 2 ^ 17 + 2 * 2 ^ 35 + 1 * 2 ^ 38 + 3 * 2 ^ 56 + 0x1000 * 2 ^ 64 + 64 * 2 ^ 112 + 9 * 2 ^ 128) =
      { opc := 0, run := 1, dst := 5, dbasin := 2, src := 1, sbasin := 3, addr := 0x1000, len := 64, seq := 9 }
  ∧ decHdr (1 + 1 * 2 ^ 10 + 7 * 2 ^ 17 + 8 * 2 ^ 112 + 5 * 2 ^ 198) = { opc := 1, ord := true, dst := 7, len := 8, xid := 5 }
  ∧ decHdr (7 + 2 * 2 ^ 4 + 1 * 2 ^ 9 + 65535 * 2 ^ 128 + 3 * 2 ^ 160) = { opc := 7, run := 2, ref := true, seq := 65535, step := 3 })
  ∧ (decodeS 0x7F = some .halt ∧ decodeX 0x28000510 = some (.latch false 5 false 0 5)
  ∧ decodeM 0x05FFFF10 = some (.mload 255 255 5) ∧ decodeM 0x0200FF11 = some (.mpass 255 false 0 0 4)
  ∧ decodeV 0x04000104 = some (.r .vfma 1 0 0 1 0 false 0 false false 0 false)
  ∧ decodeS (0x01 + 3 * 2 ^ 8 + 1 * 2 ^ 13 + 2 * 2 ^ 18) = some (.alu .add 3 1 2)
  ∧ decodeS (0x21 + 4 * 2 ^ 8 + 1 * 2 ^ 13 + (2 ^ 46 - 1) * 2 ^ 18) = some (.alui .add 4 1 (-1)) ∧ decodeX (0x1C + 1 * 2 ^ 8) = some (.msync 1)
  ∧ decodeS 0xFF = none
  ∧ decodeS 0 = some .empty ∧ decodeV 0 = some .empty ∧ decodeM 0 = some .empty ∧ decodeX 0 = some .empty)

/-- A PUT, MCAST-PUT, AADD or REDUCE-PUT in order is performed once and acknowledged. A sequenced packet that is next in its flow, is not turned away, and lands on memory that can be written is performed there: a PUT's and MCAST-PUT's bytes are stored, AADD.I adds its addend, AADD.F adds in FP32, REDUCE-PUT of one element reduces it; an AADD.I on a latch adds to the latch. Its flow's number goes up by one, the last thing to leave is an ACK of that number, and every byte outside its own and the flow table's entry reads as before. A later member of a multicast stores the bytes on arrival and its ACK has number 0. A PUT, AADD or REDUCE-PUT ahead of its flow's number only counts in BSN_FLOW_GAPS; one behind it counts in BSN_FLOW_DUPS and is acknowledged again; to a quenched basin it is answered with REF and changes no byte but the flow table's entry. -/
def Obligations.FabricWritesAreDelivered : Prop :=
  (∀ (w : BitVec 256) (d : List Byte) (via : Option (Fin 8)) (pl : Place) (s : State), s.Arrives w.toNat 0 d (via.map Fin.val) pl d.length →
    Gives (.putPacket w d via) s (fun t => t.chip.mem.reads pl.key d.length = d ∧ Acked w.toNat pl d.length s t))
  ∧ (∀ (w : BitVec 256) (d : List Byte) (via : Option (Fin 8)) (pl : Place) (s : State), s.Arrives w.toNat 6 d (via.map Fin.val) pl d.length →
    s.chip.modes.native = true → (decHdr w.toNat).dst = s.chip.coord →
    Gives (.mcastPutPacket w d via) s (fun t => t.chip.mem.reads pl.key d.length = d ∧ Acked w.toNat pl d.length s t))
  ∧ (∀ (w : BitVec 256) (d : List Byte) (via : Option (Fin 8)) (pl : Place) (s : State), s.Comes w.toNat 6 d (via.map Fin.val) →
    s.chip.modes.native = true → (decHdr w.toNat).dst ≠ s.chip.coord → (decHdr w.toNat).len = d.length →
    s.chip.turnAway (decHdr w.toNat).dbasin (decHdr w.toNat) (via.map Fin.val) = none →
    s.chip.landing (decHdr w.toNat).dbasin (decHdr w.toNat).addr d.length = some pl → inLatches pl d.length = false →
    (∀ k, pl = .hbm k → s.chip.partPoison k d.length = false) → (∀ kc off, pl = .cis kc off → (s.chip.cl kc).tags = []) →
    Gives (.mcastPutPacket w d via) s (fun t => t.chip.mem.reads pl.key d.length = d ∧ OtherBytes pl.key d.length s t
      ∧ t.chip.out.head? = some (Out.packet ({ t.chip.answerHdr (decHdr w.toNat).dbasin (decHdr w.toNat) 7 false with seq := 0 } : Hdr).enc [])
      ∧ QueueAndSec s t))
  ∧ (∀ (w : BitVec 256) (d : List Byte) (via : Option (Fin 8)) (pl : Place) (s : State), s.Arrives w.toNat 3 d (via.map Fin.val) pl 8 →
    d.length = 8 → (decHdr w.toNat).addr % 8 = 0 → Gives (.aaddIPacket w d via) s (fun t =>
      t.chip.mem.reads pl.key 8 = leBytes 8 (addMod 64 (s.chip.rdn pl 8) (leNat d)) ∧ Acked w.toNat pl 8 s t))
  ∧ (∀ (w : BitVec 256) (d : List Byte) (via : Option (Fin 8)) (pl : Place) (s : State), s.Arrives w.toNat 4 d (via.map Fin.val) pl 4 →
    d.length = 8 → (decHdr w.toNat).addr % 4 = 0 → s.chip.modes.native = true → Gives (.aaddFPacket w d via) s (fun t =>
      t.chip.mem.reads pl.key 4 = leBytes 4 (toFp32 ((fp32 (s.chip.rdn pl 4)).add (fp32 (leNat (d.take 4))))) ∧ Acked w.toNat pl 4 s t))
  ∧ (∀ (w : BitVec 256) (d : List Byte) (via : Option (Fin 8)) (pl : Place) (n : Nat) (s : State), s.Arrives w.toNat 5 d (via.map Fin.val) pl d.length →
    rfmtSize (decHdr w.toNat).rfmt = some n → d.length = n → ((decHdr w.toNat).rfmt = 6 → (decHdr w.toNat).addr % 4096 ≤ 4092) →
    (∀ k, pl = .hbm k → s.chip.poison = []) → Gives (.reducePutPacket w d via) s (fun t =>
      t.chip.mem.reads pl.key n = leBytes n (reduceElem (decHdr w.toNat).rfmt pl.key (s.chip.rdn pl n) (leNat d)).1 ∧ Acked w.toNat pl n s t))
  ∧ (∀ (w : BitVec 256) (d : List Byte) (via : Option (Fin 8)) (pl : Place) (b l : Nat) (s : State), s.Comes w.toNat 3 d (via.map Fin.val) →
    (decHdr w.toNat).len = 8 → d.length = 8 →
    s.chip.flowEnt (decHdr w.toNat).dbasin (decHdr w.toNat).flowOf true = (decHdr w.toNat).seq →
    s.chip.turnAway (decHdr w.toNat).dbasin (decHdr w.toNat) (via.map Fin.val) = none → (decHdr w.toNat).addr % 8 = 0 →
    s.chip.landing (decHdr w.toNat).dbasin (decHdr w.toNat).addr 8 = some pl → s.chip.latchAt pl = some (b, l) → s.chip.latchPlace b l = some pl →
      Gives (.aaddIPacket w d via) s (fun t => t.chip.mem.reads pl.key 8 = leBytes 8 (addMod 64 (s.chip.rdn pl 8) (leNat d))
        ∧ t.chip.flowEnt (decHdr w.toNat).dbasin (decHdr w.toNat).flowOf true = ((decHdr w.toNat).seq + 1) % 65536 ∧ QueueAndSec s t))
  ∧ (∀ (w : BitVec 256) (d : List Byte) (via : Option (Fin 8)) (opc : Nat) (i : Instr) (s : State),
    (opc = 0 ∧ i = .putPacket w d via) ∨ (opc = 3 ∧ i = .aaddIPacket w d via) ∨ (opc = 4 ∧ i = .aaddFPacket w d via)
      ∨ (opc = 5 ∧ i = .reducePutPacket w d via) → s.Comes w.toNat opc d (via.map Fin.val) → (decHdr w.toNat).len = d.length →
    (0 < subMod 16 (decHdr w.toNat).seq (s.chip.flowEnt (decHdr w.toNat).dbasin (decHdr w.toNat).flowOf true) →
      subMod 16 (decHdr w.toNat).seq (s.chip.flowEnt (decHdr w.toNat).dbasin (decHdr w.toNat).flowOf true) < 32768 →
      s.chip.word (BSN_FLOW_GAPS (decHdr w.toNat).dbasin) < 2 ^ 48 - 1 → Gives i s (fun t =>
        t.chip.word (BSN_FLOW_GAPS (decHdr w.toNat).dbasin) = s.chip.word (BSN_FLOW_GAPS (decHdr w.toNat).dbasin) + 1
        ∧ OtherRegs [(BSN_FLOW_GAPS (decHdr w.toNat).dbasin).key] s t
        ∧ t = { s with chip := { s.chip with regs := t.chip.regs, mesh := t.chip.mesh } }))
    ∧ (32768 ≤ subMod 16 (decHdr w.toNat).seq (s.chip.flowEnt (decHdr w.toNat).dbasin (decHdr w.toNat).flowOf true) →
      s.chip.word (BSN_FLOW_DUPS (decHdr w.toNat).dbasin) < 2 ^ 48 - 1 → Gives i s (fun t =>
        t.chip.word (BSN_FLOW_DUPS (decHdr w.toNat).dbasin) = s.chip.word (BSN_FLOW_DUPS (decHdr w.toNat).dbasin) + 1
        ∧ t.chip.out = Out.packet ({ s.chip.answerHdr (decHdr w.toNat).dbasin (decHdr w.toNat) 7 false with
            seq := (s.chip.flowEnt (decHdr w.toNat).dbasin (decHdr w.toNat).flowOf true + 65535) % 65536, xid := 0 } : Hdr).enc [] :: s.chip.out
        ∧ OtherRegs [(BSN_FLOW_DUPS (decHdr w.toNat).dbasin).key] s t ∧ t.chip.mem = s.chip.mem ∧ QueueAndSec s t))
    ∧ ((s.chip.bs (decHdr w.toNat).dbasin).quenched = true →
      subMod 16 (decHdr w.toNat).seq (s.chip.flowEnt (decHdr w.toNat).dbasin (decHdr w.toNat).flowOf true) = 0 → Gives i s (fun t =>
        (∃ h : Hdr, h.opc = 7 ∧ h.ref = true ∧ h.dst = (decHdr w.toNat).src ∧ t.chip.out.head? = some (Out.packet h.enc []))
        ∧ (∀ x, (∀ k, s.chip.flowPlace (decHdr w.toNat).dbasin (decHdr w.toNat).flowOf true = some k → x < k ∨ k + 2 ≤ x) →
            t.chip.mem.read x = s.chip.mem.read x) ∧ QueueAndSec s t)))

/-- GETs are answered, held and released; responses and ACKs end what they answer. A GET that is not turned away, whose order lets it, answers the bytes at its place and changes no memory; one for no reachable place, or of more than 4,096 bytes, is answered with REF; one that must wait is held, and released when its turn has come, not before. A GET-RESP for the last awaited part of a sequencer's GET stores its bytes at the recorded place and ends the operation. An ACK, while no operation runs, takes every packet that it covers off its flow's list and adds none. A timeout of a flow that no operation uses sends every unacknowledged packet of it again. -/
def Obligations.ReadsAreAnswered : Prop :=
  (∀ (w : BitVec 256) (via : Option (Fin 8)) (s : State), s.Comes w.toNat 1 [] (via.map Fin.val) →
    s.chip.turnAway (decHdr w.toNat).dbasin (decHdr w.toNat) (via.map Fin.val) = none →
    s.chip.getFree (decHdr w.toNat).dbasin (decHdr w.toNat) = true →
    (∀ pl, (decHdr w.toNat).len ≤ 4096 → s.chip.landing (decHdr w.toNat).dbasin (decHdr w.toNat).addr (decHdr w.toNat).len = some pl →
      (∀ k, pl = .hbm k → s.chip.poisoned k (decHdr w.toNat).len = false) → Gives (.getPacket w via) s (fun t =>
      Out.packet ({ t.chip.answerHdr (decHdr w.toNat).dbasin (decHdr w.toNat) 2 false with len := (decHdr w.toNat).len } : Hdr).enc
          (s.chip.rd pl (decHdr w.toNat).len) ∈ t.chip.out
      ∧ t.chip.mem = s.chip.mem ∧ t.chip.heldGets = s.chip.heldGets ∧ t.chip.ops = s.chip.ops ∧ QueueAndSec s t))
    ∧ (4096 < (decHdr w.toNat).len ∨ s.chip.landing (decHdr w.toNat).dbasin (decHdr w.toNat).addr (decHdr w.toNat).len = none →
      Gives (.getPacket w via) s (fun t =>
      Out.packet (t.chip.answerHdr (decHdr w.toNat).dbasin (decHdr w.toNat) 2 true).enc [] ∈ t.chip.out
      ∧ t.chip.mem = s.chip.mem ∧ t.chip.heldGets = s.chip.heldGets ∧ t.chip.ops = s.chip.ops ∧ QueueAndSec s t)))
  ∧ (∀ (w : BitVec 256) (via : Option (Fin 8)) (s : State), s.Comes w.toNat 1 [] (via.map Fin.val) →
    s.chip.turnAway (decHdr w.toNat).dbasin (decHdr w.toNat) (via.map Fin.val) = none →
    s.chip.getFree (decHdr w.toNat).dbasin (decHdr w.toNat) = false → Gives (.getPacket w via) s (fun t =>
      t.chip.heldGets = s.chip.heldGets ++ [(w.toNat, via.map Fin.val)] ∧ t.chip.out = s.chip.out ∧ t.chip.mem = s.chip.mem ∧ QueueAndSec s t))
  ∧ (∀ (i w : Nat) (via : Option Nat) (s : State), s.chip.pwr.on = true → s.chip.heldGets[i]? = some (w, via) →
    (∀ pl, s.chip.getFree (decHdr w).dbasin (decHdr w) = true → (decHdr w).len ≤ 4096 →
      s.chip.landing (decHdr w).dbasin (decHdr w).addr (decHdr w).len = some pl → (∀ k, pl = .hbm k → s.chip.poisoned k (decHdr w).len = false) →
      Gives (.getOrdRelease i) s (fun t => t.chip.heldGets = s.chip.heldGets.eraseIdx i
        ∧ Out.packet ({ t.chip.answerHdr (decHdr w).dbasin (decHdr w) 2 false with len := (decHdr w).len } : Hdr).enc (s.chip.rd pl (decHdr w).len)
            ∈ t.chip.out
        ∧ t.chip.mem = s.chip.mem ∧ QueueAndSec s t))
    ∧ (s.chip.getFree (decHdr w).dbasin (decHdr w) = false → exec (.getOrdRelease i) s = .next s))
  ∧ (∀ (w : BitVec 256) (d : List Byte) (via : Option (Fin 8)) (o : Op) (kc j : Nat) (pl : Place) (s : State), s.Comes w.toNat 2 d (via.map Fin.val) →
    (decHdr w.toNat).ref = false → (decHdr w.toNat).len = d.length →
    s.chip.turnAway (decHdr w.toNat).dbasin (decHdr w.toNat) (via.map Fin.val) = none → s.chip.ops = [o] → o.kind = .get → o.src = .seq kc j →
    o.sig = none → o.seqs = [0] → o.xid = (decHdr w.toNat).xid →
    o.flow = { basin := (decHdr w.toNat).dbasin, coord := (decHdr w.toNat).src, dbasin := (decHdr w.toNat).sbasin, run := (decHdr w.toNat).run } →
    d ≠ [] → s.chip.reach o.flow.basin o.loc d.length true = some pl → (∀ k, pl = .hbm k → s.chip.partPoison k d.length = false) →
    (∀ c off, pl = .cis c off → (s.chip.cl c).tags = []) → Gives (.getRespPacket w d via) s (fun t =>
      t.chip.mem.reads pl.key d.length = d ∧ OtherBytes pl.key d.length s t ∧ t.chip.ops = [] ∧ QueueAndSec s t))
  ∧ (∀ (w : BitVec 256) (via : Option (Fin 8)) (s : State), s.Comes w.toNat 7 [] (via.map Fin.val) →
    s.chip.turnAway (decHdr w.toNat).dbasin (decHdr w.toNat) (via.map Fin.val) = none → s.chip.ops = [] →
      Gives (.ackPacket w via) s (fun t =>
        (∀ u ∈ t.chip.unacked, u ∈ s.chip.unacked ∧ ¬ (subMod 16 (decHdr w.toNat).seq u.seq < 32768 ∧
          u.flow = { basin := (decHdr w.toNat).dbasin, coord := (decHdr w.toNat).src, dbasin := (decHdr w.toNat).sbasin, run := (decHdr w.toNat).run }))
        ∧ t.chip.mem = s.chip.mem ∧ t.chip.out = s.chip.out ∧ QueueAndSec s t))
  ∧ (∀ (b : Fin 6) (coord : BitVec 18) (dbasin : Fin 8) (run : Fin 4) (s : State), s.chip.pwr.on = true →
    (∀ o ∈ s.chip.ops, o.flow ≠ { basin := b, coord := coord.toNat, dbasin := dbasin, run := run }) → Gives (.ackTimeout b coord dbasin run) s (fun t =>
      (∀ u ∈ s.chip.pendingOf { basin := b, coord := coord.toNat, dbasin := dbasin, run := run },
        Out.packet ({ s.chip.retaint b .hub (decHdr u.hdr) with resend := true } : Hdr).enc u.payload ∈ t.chip.out)
      ∧ t.chip.unacked = s.chip.unacked ∧ t.chip.ops = s.chip.ops ∧ t.chip.mem = s.chip.mem ∧ QueueAndSec s t))

/-- Links start packets, routers forward them, and detours, holes and relocations change the way. A link whose only waiting packet has its credits starts it: it leaves, waits for its acknowledgement, and uses its credits; a link where nothing waits does nothing. A packet that the router sends out waits at the port it names, with the dateline lane it names; one for this package waits for its opcode's row, and one of a reserved opcode is counted by FAB_BADPKT; one without a way leaves the mesh. DETOUR_SET sets DETOUR and counts GEN, and discards the waiting packets that cannot turn around; set already, it does nothing. A hole that R347 allows, or one cleared, is written; one that it does not allow, or that a relocation leads to, is ignored. A relocation write brings the entry into force, but none onto a hole. -/
def Obligations.PacketsAreRouted : Prop :=
  (∀ (p : Fin 8) (uOver : Bool) (k : LinkPkt) (s : State), s.chip.pwr.on = true → s.chip.portUp p = true →
    bit (s.chip.get FAB_PHYS.PEER_BAD) p = false ∨ 6 ≤ k.pool → (s.chip.port p).wait = [k] → k.pool < 8 → k.party < 7 →
    s.chip.pktCredits k ≤ (s.chip.port p).credits k.pool → (s.chip.port p).replay = [] → s.chip.pktSize k ≤ 0x400000 →
      Gives (.linkPacketStart p uOver) s (fun t => Out.link p k.hdr k.payload ∈ t.chip.out ∧ (t.chip.port p).wait = []
        ∧ (t.chip.port p).replay = [k] ∧ (t.chip.port p).stream = (s.chip.port p).stream ++ s.chip.pktData k
        ∧ Map.get 0 (t.chip.port p).used k.pool = (Map.get 0 (s.chip.port p).used k.pool + s.chip.pktCredits k) % 2 ^ 20
        ∧ (∀ q, q ≠ (p : Nat) → t.chip.port q = s.chip.port q) ∧ t.chip.mem = s.chip.mem ∧ QueueAndSec s t
        ∧ OtherThanEvents [(FAB_TXVOL p).key, (FAB_TXVOLE p).key, ASY_CTR_EV.key] s t))
  ∧ (∀ (p : Fin 8) (uOver : Bool) (s : State), (s.chip.port p).wait = [] → exec (.linkPacketStart p uOver) s = .next s)
  ∧ (∀ (w : BitVec 256) (d : List Byte) (via : Option (Fin 8)) (rev turned bad r : Bool) (p lane : Nat) (s : State), s.chip.pwr.on = true →
    hdrOk w.toNat = true → s.chip.routeOf (s.chip.fwdHdr w.toNat via) (via.map Fin.val) rev turned = .out p lane r →
    s.chip.comes w.toNat d (via.map Fin.val) (some (26 + portDie p)) = true → exec (.routerForward w d via rev ⟨turned, bad⟩) s =
      .next { s with chip := (s.chip.took w.toNat d (via.map Fin.val) (some (26 + portDie p))).setPort p { s.chip.port p with
        wait := (s.chip.port p).wait ++ [{ pool := 2 * (s.chip.fwdHdr w.toNat via).run + lane, hdr := ({ s.chip.fwdHdr w.toNat via with lane := lane } : Hdr).enc, payload := d, party := if via.isSome then 6 else (decHdr w.toNat).sbasin % 6, rev := r, stomp := bad }] } })
  ∧ (∀ (w : BitVec 256) (d : List Byte) (via : Option (Fin 8)) (rev turned bad : Bool) (s : State), s.chip.pwr.on = true →
    hdrOk w.toNat = true →
    (s.chip.routeOf (s.chip.fwdHdr w.toNat via) (via.map Fin.val) rev turned = .here → 8 < (decHdr w.toNat).opc → bad = false →
      s.chip.word FAB_BADPKT < 2 ^ 48 - 1 → Gives (.routerForward w d via rev ⟨turned, bad⟩) s (fun t =>
      t.chip.word FAB_BADPKT = s.chip.word FAB_BADPKT + 1 ∧ OnlyRegs s t ∧ OtherRegs [FAB_BADPKT.key] s t))
    ∧ (s.chip.routeOf (s.chip.fwdHdr w.toNat via) (via.map Fin.val) rev turned = .here → (decHdr w.toNat).opc ≤ 8 →
      exec (.routerForward w d via rev ⟨turned, bad⟩) s = .next s)
    ∧ (s.chip.routeOf (s.chip.fwdHdr w.toNat via) (via.map Fin.val) rev turned = .drop →
      exec (.routerForward w d via rev ⟨turned, bad⟩) s = .next { s with chip := s.chip.took w.toNat d (via.map Fin.val) (some 26) }))
  ∧ (∀ (d : Fin 6) (s : State), s.chip.pwr.on = true → s.chip.on (FAB_DIR.DETOUR d) = false →
    ((s.chip.port (s.chip.dirPort d)).wait = [] → Gives (.detourSet d) s (fun t => t.chip.get (FAB_DIR.DETOUR d) = 1
      ∧ t.chip.get (FAB_DIR.GEN d) = (s.chip.get (FAB_DIR.GEN d) + 1) % 65536
      ∧ t.chip.get (FAB_DIR.PORT d) = s.chip.get (FAB_DIR.PORT d) ∧ (∀ q, t.chip.port q = s.chip.port q) ∧ OtherRegs [(FAB_DIR d).key] s t ∧ QueueAndSec s t))
    ∧ ((∀ k ∈ (s.chip.port (s.chip.dirPort d)).wait, k.rev = true) ∨ s.chip.wraps (d / 2) = false → Gives (.detourSet d) s (fun t =>
      t.chip.get (FAB_DIR.DETOUR d) = 1 ∧ t.chip.port (s.chip.dirPort d) = { s.chip.port (s.chip.dirPort d) with wait := [] }
      ∧ OtherRegs [(FAB_DIR d).key] s t ∧ t = { s with chip := { s.chip with regs := t.chip.regs, ports := t.chip.ports } })))
  ∧ (∀ (d : Fin 6) (s : State), s.chip.on (FAB_DIR.DETOUR d) = true → exec (.detourSet d) s = .next s)
  ∧ (∀ (ag : Agent) (j : Fin 4) (v : Word) (s : State), ag.top = true → s.chip.hears ag 0x20000 = true →
    (bit v.toNat 18 = false ∨ ((∀ i < 8, ¬ (s.chip.on (FAB_RELOC.VALID i) = true ∧ s.chip.get (FAB_RELOC.TO i) = bits v.toNat 0 18)) ∧
      s.chip.holesOk (bits v.toNat 0 18 :: (List.range 4).filterMap (fun i =>
        if i ≠ (j : Nat) ∧ s.chip.on (FAB_HOLE.VALID i) then some (s.chip.get (FAB_HOLE.COORD i)) else none)) = true) → Gives (.holeWrite ag j v) s (fun t =>
      t.chip.get (FAB_HOLE.COORD j) = bits v.toNat 0 18 ∧ t.chip.on (FAB_HOLE.VALID j) = bit v.toNat 18
      ∧ t = { s with chip := { s.chip with regs := t.chip.regs, free := t.chip.free } } ∧ OtherRegs [(FAB_HOLE j).key, FAB_PHYS.key] s t))
    ∧ (bit v.toNat 18 = true → ((∃ i, i < 8 ∧ s.chip.on (FAB_RELOC.VALID i) = true ∧ s.chip.get (FAB_RELOC.TO i) = bits v.toNat 0 18) ∨
      s.chip.holesOk (bits v.toNat 0 18 :: (List.range 4).filterMap (fun i =>
        if i ≠ (j : Nat) ∧ s.chip.on (FAB_HOLE.VALID i) then some (s.chip.get (FAB_HOLE.COORD i)) else none)) = false) →
      exec (.holeWrite ag j v) s = .next s))
  ∧ (∀ (ag : Agent) (j : Fin 8) (v : Word) (s : State), ag.top = true → s.chip.hears ag 0x20000 = true → s.chip.ops = [] →
    (s.chip.holes.contains (bits v.toNat 18 18) = false ∨ bit v.toNat 36 = false → Gives (.relocWrite ag j v) s (fun t =>
      t.chip.get (FAB_RELOC.FROM j) = bits v.toNat 0 18 ∧ t.chip.get (FAB_RELOC.TO j) = bits v.toNat 18 18 ∧ t.chip.on (FAB_RELOC.VALID j) = bit v.toNat 36
      ∧ OtherRegs [(FAB_RELOC j).key] s t ∧ t = { s with chip := { s.chip with regs := t.chip.regs, unacked := t.chip.unacked } }))
    ∧ (s.chip.holes.contains (bits v.toNat 18 18) = true → bit v.toNat 36 = true → exec (.relocWrite ag j v) s = .next s))

/-- A NOP starts, completes and retires; a released latch operation is applied; a spout copy arrives. A NOP that is next in a queue with nothing started or inserted and no replay, whose conditions hold, moves HEAD and RETIRED past it; without SIGNAL no byte of memory changes, nothing leaves, and no register but the queue's status, the watchdog's and the pour status; with SIGNAL its latch takes the add. One whose WAIT is not met leaves HEAD and shows the queue waiting; one whose latch numbers are out of range halts the queue with ERRCODE 4. A latch operation of a sequencer whose marks are met, in a basin that is not frozen, leaves the list and sets its latch, or adds to it; a suppressed one changes nothing else. A spout copy within the package from a place that holds no poison to one where no poison is met in part stores the source's bytes at the destination and no others, where it has no latch to signal and meets no tag copy; from a stream it delivers the bytes of whole rows, and through a stream it writes them; then the operation is done, and its latch is signalled. A copy that meets poison stops with its issuer. -/
def Obligations.PacketsAndOperationsComplete : Prop :=
  ((∀ (b : Fin 6) (q : Fin 64) (p : Nat) (s : State), s.AtHead b q 0 p → bit p 10 = false → Gives (.nop b q) s (fun t =>
      Retires b q s t ∧ t.chip.mem = s.chip.mem ∧ t.chip.out = s.chip.out ∧ QueueAndSec s t
      ∧ OtherRegs [(BSN_Q_STS b q).key, (BSN_WDOG b).key, (BSN_POUR_STS b).key] s t))
  ∧ (∀ (b : Fin 6) (q : Fin 64) (p : Nat) (pl : Place) (s : State), s.AtHead b q 0 p → bit p 10 = true →
    s.chip.latchPlace b (bits p 29 13) = some pl → Gives (.nop b q) s (fun t =>
      Retires b q s t ∧ t.chip.mem.reads pl.key 8 = leBytes 8 (addMod 64 (s.chip.rdn pl 8) (bits p 448 32)) ∧ QueueAndSec s t))
  ∧ (∀ (b : Fin 6) (q : Fin 64) (p : Nat) (s : State), s.Next b q 0 p → s.chip.pktOk b q p = true →
    s.chip.pktReady b q (s.chip.get (BSN_Q_STS.HEAD b q)) p = false → s.chip.get (BSN_Q_STS.STATE b q) ≠ 5 → Gives (.nop b q) s (fun t =>
      t.chip.get (BSN_Q_STS.STATE b q) = 2 ∧ t.chip.get (BSN_Q_STS.HEAD b q) = s.chip.get (BSN_Q_STS.HEAD b q)
      ∧ OnlyRegs s t ∧ OtherRegs [(BSN_Q_STS b q).key] s t))
  ∧ (∀ (b : Fin 6) (q : Fin 64) (p : Nat) (s : State), s.Next b q 0 p → s.chip.pktOk b q p = false → Gives (.nop b q) s (fun t =>
      Halted b q 4 s t ∧ t.chip.mem = s.chip.mem ∧ QueueAndSec s t ∧ OtherThanEvents [(BSN_Q_STS b q).key] s t)))
  ∧ ((∀ (b : Fin 6) (id : Nat) (o : LatchOp) (kc j : Nat) (pl : Place) (s : State), s.chip.pwr.on = true →
    (s.chip.bs b).lops.find? (fun x => x.id == id) = some o → o.src = .seq kc j → (s.chip.bs b).frozen = false → s.chip.met kc o.marks = true →
    o.supp = false → s.chip.latchPlace b o.latch = some pl →
      Gives (.latchOpApply b id) s (fun t => (t.chip.bs b).lops = (s.chip.bs b).lops.filter (fun x => x.id != id)
        ∧ t.chip.mem.reads pl.key 8 = leBytes 8 (if o.isSet then o.val % 2 ^ 64 else addMod 64 (s.chip.rdn pl 8) o.val) ∧ QueueAndSec s t))
  ∧ (∀ (b : Fin 6) (id : Nat) (o : LatchOp) (kc j : Nat) (s : State), s.chip.pwr.on = true →
    (s.chip.bs b).lops.find? (fun x => x.id == id) = some o → o.src = .seq kc j → (s.chip.bs b).frozen = false → s.chip.met kc o.marks = true →
    o.supp = true → Gives (.latchOpApply b id) s (fun t => (t.chip.bs b).lops = (s.chip.bs b).lops.filter (fun x => x.id != id)
        ∧ t = { s with chip := { s.chip with basins := t.chip.basins } }))
  ∧ (∀ (id : Nat) (o : Op) (kc j : Nat) (p q : Place) (s : State), s.chip.pwr.on = true →
    s.chip.ops.find? (fun x => x.id = id && x.kind = .spout && x.seqs.isEmpty) = some o → o.src = .seq kc j → o.sig = none →
    o.agSrc = none → s.chip.reach o.flow.basin o.loc o.len true = some p → s.chip.poisonAt p o.len = false →
    o.agDst = none → s.chip.reach o.flow.basin o.dst o.len false = some q → s.chip.partPoisonAt q o.len = false →
    (∀ c off, q = .cis c off → (s.chip.cl c).tags = []) →
      Gives (.spoutCopyComplete id) s (fun t => t.chip.mem.reads q.key o.len = s.chip.rd p o.len ∧ OtherBytes q.key o.len s t
        ∧ t.chip.ops = s.chip.ops.filter (fun x => x.id ≠ o.id) ∧ OtherRegs [] s t ∧ QueueAndSec s t))
  ∧ (∀ (id : Nat) (o : Op) (p q : Place) (s : State), s.chip.pwr.on = true →
    s.chip.ops.find? (fun x => x.id = id && x.kind = .spout && x.seqs.isEmpty) = some o →
    o.agSrc = none → s.chip.reach o.flow.basin o.loc o.len true = some p → s.chip.poisonAt p o.len = false →
    o.agDst = none → s.chip.reach o.flow.basin o.dst o.len false = some q → s.chip.partPoisonAt q o.len = false →
      exec (.spoutCopyComplete id) s = .next { s with chip := (s.chip.wr q (s.chip.rd p o.len)).opDone o false })
  ∧ (∀ (id : Nat) (o : Op) (kc : Nat) (g : Ag) (q : Place) (s : State), s.chip.pwr.on = true →
    s.chip.ops.find? (fun x => x.id = id && x.kind = .spout && x.seqs.isEmpty) = some o → o.agSrc = some (kc, g) →
    o.agDst = none → s.chip.reach o.flow.basin o.dst o.len false = some q → s.chip.partPoisonAt q o.len = false →
      exec (.spoutCopyComplete id) s = .next { s with chip := (s.chip.wr q (s.chip.streamBytes kc g o.len)).opDone o false })
  ∧ (∀ (id : Nat) (o : Op) (kc : Nat) (g : Ag) (p : Place) (s : State), s.chip.pwr.on = true →
    s.chip.ops.find? (fun x => x.id = id && x.kind = .spout && x.seqs.isEmpty) = some o → o.agSrc = none →
    s.chip.reach o.flow.basin o.loc o.len true = some p → s.chip.poisonAt p o.len = false → o.agDst = some (kc, g) →
      exec (.spoutCopyComplete id) s = .next { s with chip := (s.chip.streamWrite kc g (s.chip.rd p o.len)).opDone o false })
  ∧ (∀ (id : Nat) (o : Op) (k1 k2 : Nat) (g h : Ag) (s : State), s.chip.pwr.on = true →
    s.chip.ops.find? (fun x => x.id = id && x.kind = .spout && x.seqs.isEmpty) = some o → o.agSrc = some (k1, g) → o.agDst = some (k2, h) →
      exec (.spoutCopyComplete id) s = .next { s with chip := (s.chip.streamWrite k2 h (s.chip.streamBytes k1 g o.len)).opDone o false })
  ∧ (∀ (id : Nat) (o : Op) (p q : Place) (s : State), s.chip.pwr.on = true →
    s.chip.ops.find? (fun x => x.id = id && x.kind = .spout && x.seqs.isEmpty) = some o →
    o.agSrc = none → s.chip.reach o.flow.basin o.loc o.len true = some p → o.agDst = none → s.chip.reach o.flow.basin o.dst o.len false = some q →
    (s.chip.poisonAt p o.len = true ∨ s.chip.partPoisonAt q o.len = true) →
      exec (.spoutCopyComplete id) s = .next { s with chip := s.chip.spoutFail o }))

/-- LAUNCH starts its kernel; a kernel ends, runs over its budget, or has its queue released. A LAUNCH at the head whose checks pass, on dies that no safety limit holds, starts a kernel on the clusters of its mask with its KERNEL_ID and moves HEAD on; every sequencer of those clusters runs. A released batch's LAUNCH starts before HEAD, which stays. A LAUNCH that is refused halts the queue with ERRCODE 4; one whose clusters are not free waits, with WHOLE_WAIT where Whole mode holds it. A kernel that has halted everywhere and performed all its writes ends, and its packet retires; one that has not goes on. A side-class kernel past its budget is stopped, and its queue halts with ERRCODE 5; a main-class one goes on. Release of a halted queue clears what halted it, and a packet that halted it at HEAD retires; discard takes TAIL back to HEAD and drops what waits before it. Either does nothing on a queue that is not halted. -/
def Obligations.KernelsLaunchAndEnd : Prop :=
  (∀ (b : Fin 6) (q : Fin 64) (p : Nat) (cls : List Nat) (s : State), s.AtHead b q 1 p → s.chip.launchRes b q (decLaunch p) = .run cls →
    s.chip.Unheld cls → Gives (.launch b q) s (fun t =>
      (∃ k, t.chip.kerns = s.chip.kerns ++ [k] ∧ k.clusters = cls ∧ k.basin = (b : Nat) ∧ k.queue = (q : Nat) ∧ k.kid = bits p 96 32
        ∧ k.pkt = s.chip.get (BSN_Q_STS.HEAD b q) ∧ k.side = qClassSide s.chip b q ∧ k.whole = bit p 148 ∧ k.batch = none)
      ∧ t.chip.get (BSN_Q_STS.HEAD b q) = (s.chip.get (BSN_Q_STS.HEAD b q) + 1) % 65536
      ∧ t.chip.get (BSN_Q_STS.RETIRED b q) = s.chip.get (BSN_Q_STS.RETIRED b q)
      ∧ (∀ kc ∈ cls, t.chip.get (CLS_SEQ_STS.STATE (kc / 4) (kc % 4) 0) = 1 ∧ t.chip.get (CLS_SEQ_STS.STATE (kc / 4) (kc % 4) 1) = 1)
      ∧ t.chip.mem = s.chip.mem ∧ QueueAndSec s t))
  ∧ (∀ (b : Fin 6) (q : Fin 64) (p bq num : Nat) (rest : List (Nat × Nat × Nat)) (cls : List Nat) (s : State), s.chip.pwr.on = true →
    (s.chip.qu b q).ins = (p, bq, num) :: rest → s.chip.qLive b q = true → s.chip.started b q < 32 →
    s.chip.launchRes b q (decLaunch p) = .run cls → s.chip.Unheld cls → Gives (.launch b q) s (fun t =>
      (∃ k, t.chip.kerns = s.chip.kerns ++ [k] ∧ k.clusters = cls ∧ k.kid = bits p 96 32 ∧ k.batch = some (bq, num))
      ∧ (t.chip.qu b q).ins = rest ∧ t.chip.get (BSN_Q_STS.HEAD b q) = s.chip.get (BSN_Q_STS.HEAD b q) ∧ t.chip.mem = s.chip.mem
      ∧ QueueAndSec s t))
  ∧ (∀ (b : Fin 6) (q : Fin 64) (p : Nat) (s : State), s.AtHead b q 1 p →
    (s.chip.launchRes b q (decLaunch p) = .refuse → Gives (.launch b q) s (fun t =>
      Halted b q 4 s t ∧ t.chip.kerns = s.chip.kerns ∧ t.chip.mem = s.chip.mem ∧ QueueAndSec s t ∧ OtherThanEvents [(BSN_Q_STS b q).key] s t))
    ∧ (∀ w, s.chip.launchRes b q (decLaunch p) = .hold w → s.chip.get (BSN_Q_STS.STATE b q) ≠ 5 → Gives (.launch b q) s (fun t =>
      t.chip.get (BSN_Q_STS.STATE b q) = 2 ∧ (w = true → t.chip.get (PWR_GRANT.WHOLE_WAIT b) = 1)
      ∧ t.chip.get (BSN_Q_STS.HEAD b q) = s.chip.get (BSN_Q_STS.HEAD b q) ∧ OnlyRegs s t
      ∧ OtherRegs [(BSN_Q_STS b q).key, (PWR_GRANT b).key] s t)))
  ∧ (∀ (kc : Fin 104) (k : Kern) (s : State), s.chip.pwr.on = true → s.chip.kernOf kc = some k →
    (s.chip.kernIdle k = true → Gives (.kernelComplete kc) s (fun t =>
      t.chip.kerns = s.chip.kerns.filter (fun x => x.id ≠ k.id) ∧ QueueAndSec s t
      ∧ (∀ w, k.batch = none → k.basin < 6 → k.queue < 64 → (s.chip.qu k.basin k.queue).win = [w] → w.idx = k.pkt →
          (s.chip.qu k.basin k.queue).haltPkt = none → t.chip.get (BSN_Q_STS.RETIRED k.basin k.queue) = (k.pkt + 1) % 65536)))
    ∧ (s.chip.kernIdle k = false → exec (.kernelComplete kc) s = .next s))
  ∧ (∀ (kc : Fin 104) (k : Kern) (s : State), s.chip.pwr.on = true → s.chip.kernOf kc = some k →
    (k.side = true → k.basin < 6 → k.queue < 64 → Gives (.sideBudgetExpiry kc) s (fun t => t.chip.kerns = s.chip.kerns.filter (fun x => x.id ≠ k.id)
      ∧ t.chip.get (BSN_Q_STS.STATE k.basin k.queue) = 4 ∧ t.chip.get (BSN_Q_STS.ERRCODE k.basin k.queue) = 5
      ∧ t.chip.get (BSN_Q_STS.ERR k.basin k.queue) = 1 ∧ t.chip.mem = s.chip.mem ∧ QueueAndSec s t))
    ∧ (k.side = false → exec (.sideBudgetExpiry kc) s = .next s))
  ∧ (∀ (ag : Agent) (b : Fin 6) (q : Fin 64) (s : State), s.chip.hears ag 0x20000 = true → s.chip.mayBsn ag b = true →
    (s.chip.get (BSN_Q_STS.STATE b q) = 3 ∨ s.chip.get (BSN_Q_STS.STATE b q) = 4) → (s.chip.qu b q).replay = none →
      ((s.chip.qu b q).haltPkt = none → Gives (.queueRelease ag b q) s (fun t =>
        (t.chip.get (BSN_Q_STS.STATE b q) = 0 ∨ t.chip.get (BSN_Q_STS.STATE b q) = 1)
        ∧ t.chip.get (BSN_Q_STS.HEAD b q) = s.chip.get (BSN_Q_STS.HEAD b q) ∧ t.chip.get (BSN_Q_STS.TAIL b q) = s.chip.get (BSN_Q_STS.TAIL b q)
        ∧ OtherRegs [(BSN_Q_STS b q).key] s t ∧ t.chip.mem = s.chip.mem ∧ QueueAndSec s t))
      ∧ ((s.chip.qu b q).haltPkt = some (s.chip.get (BSN_Q_STS.HEAD b q)) → (s.chip.qu b q).win = [] →
        s.chip.get (BSN_Q_STS.HEAD b q) ≠ s.chip.get (BSN_Q_STS.TAIL b q) → Gives (.queueRelease ag b q) s (fun t =>
          Retires b q s t ∧ (t.chip.qu b q).haltPkt = none ∧ t.chip.get (BSN_Q_STS.TAIL b q) = s.chip.get (BSN_Q_STS.TAIL b q)
          ∧ t.chip.mem = s.chip.mem ∧ QueueAndSec s t)))
  ∧ (∀ (ag : Agent) (b : Fin 6) (q : Fin 64) (s : State), s.chip.hears ag 0x20000 = true → s.chip.mayBsn ag b = true →
    (s.chip.get (BSN_Q_STS.STATE b q) = 3 ∨ s.chip.get (BSN_Q_STS.STATE b q) = 4) → (∀ e ∈ (s.chip.qu b q).ins, e.2.1 < 8) →
    Gives (.queueDiscard ag b q) s (fun t =>
      t.chip.get (BSN_Q_STS.TAIL b q) = s.chip.get (BSN_Q_STS.HEAD b q) ∧ t.chip.get (BSN_Q_STS.HEAD b q) = s.chip.get (BSN_Q_STS.HEAD b q)
      ∧ t.chip.get (BSN_Q_STS.STATE b q) = s.chip.get (BSN_Q_STS.STATE b q) ∧ (t.chip.qu b q).ins = []
      ∧ ((s.chip.qu b q).ins = [] → OtherRegs [(BSN_Q_STS b q).key] s t) ∧ t.chip.mem = s.chip.mem ∧ QueueAndSec s t))
  ∧ (∀ (ag : Agent) (b : Fin 6) (q : Fin 64) (s : State), s.chip.get (BSN_Q_STS.STATE b q) ≠ 3 → s.chip.get (BSN_Q_STS.STATE b q) ≠ 4 →
    exec (.queueRelease ag b q) s = .next s ∧ exec (.queueDiscard ag b q) s = .next s)

/-- SPOUT, TEMPER and LADLE packets enter what they name. A SPOUT packet within the package, with nothing to suppress, becomes an outstanding operation of its source, destination and length and changes no memory; one to another package becomes one of its length, sent as PUTs; one with a length of 0 or no multiple of 64 halts its queue with ERRCODE 4. A TEMPER packet enters the FIFO of the unit of its slot's die, and a LADLE packet the FIFO that its descriptor's OP names; each moves HEAD on and changes no memory. While the FIFO holds 32, or the slot is empty, the queue waits; an updating scatter-add of a side-class queue halts it with ERRCODE 4. -/
def Obligations.CopiesAndEngineCommandsEnter : Prop :=
  (∀ (b : Fin 6) (q : Fin 64) (p : Nat) (s : State), s.AtHead b q 2 p → bits p 210 3 ≤ 5 → bits p 213 2 ≤ 2 → bits p 256 40 ≠ 0 → bits p 256 40 % 64 = 0 →
    (s.chip.reach b (bits p 64 48) (bits p 256 40) true).isSome = true → s.chip.spoutDst b (bits p 192 18) (bits p 128 48) (bits p 256 40) = true →
    s.chip.dest (bits p 192 18) = s.chip.coord → Map.get 0 (s.chip.qu b q).bsupp (s.chip.get (BSN_Q_STS.HEAD b q)) = 0 → Gives (.spoutPacket b q) s (fun t =>
      (∃ o, t.chip.ops = s.chip.ops ++ [o] ∧ o.kind = .spout ∧ o.loc = bits p 64 48 ∧ o.dst = bits p 128 48 ∧ o.len = bits p 256 40
        ∧ o.src = .pkt b q (s.chip.get (BSN_Q_STS.HEAD b q)))
      ∧ t.chip.get (BSN_Q_STS.HEAD b q) = (s.chip.get (BSN_Q_STS.HEAD b q) + 1) % 65536 ∧ t.chip.mem = s.chip.mem
      ∧ OtherRegs [(BSN_Q_STS b q).key] s t ∧ QueueAndSec s t))
  ∧ (∀ (b : Fin 6) (q : Fin 64) (p : Nat) (s : State), s.AtHead b q 2 p → bits p 210 3 ≤ 5 → bits p 213 2 ≤ 2 → bits p 256 40 ≠ 0 → bits p 256 40 % 64 = 0 →
    (s.chip.reach b (bits p 64 48) (bits p 256 40) true).isSome = true → s.chip.spoutDst b (bits p 192 18) (bits p 128 48) (bits p 256 40) = true →
    s.chip.dest (bits p 192 18) ≠ s.chip.coord → s.chip.poison = [] →
    Map.get 0 (s.chip.qu b q).bsupp (s.chip.get (BSN_Q_STS.HEAD b q)) = 0 → Gives (.spoutPacket b q) s (fun t =>
      (∃ o, t.chip.ops = s.chip.ops ++ [o] ∧ o.kind = .spout ∧ o.len = bits p 256 40 ∧ o.src = .pkt b q (s.chip.get (BSN_Q_STS.HEAD b q)))
      ∧ t.chip.get (BSN_Q_STS.HEAD b q) = (s.chip.get (BSN_Q_STS.HEAD b q) + 1) % 65536 ∧ QueueAndSec s t))
  ∧ (∀ (b : Fin 6) (q : Fin 64) (p : Nat) (s : State), s.AtHead b q 2 p → (bits p 256 40 = 0 ∨ bits p 256 40 % 64 ≠ 0) →
    Gives (.spoutPacket b q) s (fun t => Halted b q 4 s t ∧ t.chip.ops = s.chip.ops ∧ t.chip.mem = s.chip.mem ∧ QueueAndSec s t
      ∧ OtherThanEvents [(BSN_Q_STS b q).key] s t))
  ∧ (∀ (b : Fin 6) (q : Fin 64) (slot : Fin 5) (p : Nat) (s : State), s.AtHead b q 3 p →
    (s.chip.slotDie b slot < 26 → (s.chip.reach b (bits p 64 48) 64 true).isSome = true → (s.chip.reach b (bits p 128 48) 16 true).isSome = true →
      (s.chip.tu (s.chip.slotDie b slot)).q.length < 32 → Gives (.temper b q slot) s (fun t =>
      (∃ e, (t.chip.tu (s.chip.slotDie b slot)).q = (s.chip.tu (s.chip.slotDie b slot)).q ++ [e] ∧ e.desc = bits p 64 48 ∧ e.comp = bits p 128 48)
      ∧ t.chip.get (FGE_TEMPER_STS.QDEPTH (s.chip.slotDie b slot)) = (s.chip.tu (s.chip.slotDie b slot)).q.length + 1
      ∧ t.chip.get (BSN_Q_STS.HEAD b q) = (s.chip.get (BSN_Q_STS.HEAD b q) + 1) % 65536 ∧ t.chip.mem = s.chip.mem
      ∧ OtherRegs [(BSN_Q_STS b q).key, (FGE_TEMPER_STS (s.chip.slotDie b slot)).key] s t ∧ QueueAndSec s t))
    ∧ (26 ≤ s.chip.slotDie b slot ∨ ((s.chip.reach b (bits p 64 48) 64 true).isSome = true ∧ (s.chip.reach b (bits p 128 48) 16 true).isSome = true
        ∧ 32 ≤ (s.chip.tu (s.chip.slotDie b slot)).q.length) → s.chip.get (BSN_Q_STS.STATE b q) ≠ 5 → Gives (.temper b q slot) s (fun t =>
      t.chip.get (BSN_Q_STS.STATE b q) = 2 ∧ t.chip.get (BSN_Q_STS.HEAD b q) = s.chip.get (BSN_Q_STS.HEAD b q) ∧ OnlyRegs s t
      ∧ OtherRegs [(BSN_Q_STS b q).key] s t)))
  ∧ (∀ (b : Fin 6) (q : Fin 64) (slot : Fin 5) (p : Nat) (pl : Place) (s : State), s.AtHead b q 4 p → s.chip.slotDie b slot < 26 →
    s.chip.reach b (bits p 64 48) 64 true = some pl →
    (bits (s.chip.rdn pl 64) 0 2 ≠ 2 → (s.chip.lu (s.chip.slotDie b slot)).g.length < 32 → Gives (.ladle b q slot) s (fun t =>
        (∃ e, (t.chip.lu (s.chip.slotDie b slot)).g = (s.chip.lu (s.chip.slotDie b slot)).g ++ [e] ∧ e.desc = bits p 64 48)
        ∧ t.chip.get (BSN_Q_STS.HEAD b q) = (s.chip.get (BSN_Q_STS.HEAD b q) + 1) % 65536 ∧ t.chip.mem = s.chip.mem
        ∧ OtherRegs [(BSN_Q_STS b q).key, (FGE_LADLE_STS (s.chip.slotDie b slot)).key] s t ∧ QueueAndSec s t))
    ∧ (bits (s.chip.rdn pl 64) 0 2 = 2 → qClassSide s.chip b q = false → (s.chip.lu (s.chip.slotDie b slot)).u.length < 32 →
      Gives (.ladle b q slot) s (fun t =>
        (∃ e, (t.chip.lu (s.chip.slotDie b slot)).u = (s.chip.lu (s.chip.slotDie b slot)).u ++ [e] ∧ e.desc = bits p 64 48)
        ∧ t.chip.get (BSN_Q_STS.HEAD b q) = (s.chip.get (BSN_Q_STS.HEAD b q) + 1) % 65536 ∧ t.chip.mem = s.chip.mem ∧ QueueAndSec s t))
    ∧ (bits (s.chip.rdn pl 64) 0 2 = 2 → qClassSide s.chip b q = true → Gives (.ladle b q slot) s (fun t =>
        Halted b q 4 s t ∧ t.chip.mem = s.chip.mem ∧ QueueAndSec s t ∧ OtherThanEvents [(BSN_Q_STS b q).key] s t))
    ∧ (bits (s.chip.rdn pl 64) 0 2 ≠ 2 → 32 ≤ (s.chip.lu (s.chip.slotDie b slot)).g.length → s.chip.get (BSN_Q_STS.STATE b q) ≠ 5 →
      Gives (.ladle b q slot) s (fun t => t.chip.get (BSN_Q_STS.STATE b q) = 2
        ∧ t.chip.get (BSN_Q_STS.HEAD b q) = s.chip.get (BSN_Q_STS.HEAD b q) ∧ OnlyRegs s t ∧ OtherRegs [(BSN_Q_STS b q).key] s t)))

/-- Batching queues are bound, take requests, close and release batches. BATCH_BIND keeps the template. BATCH_APPEND of a request that fits joins it to the open batch, counts its rows in PENDING and writes its slot and batch number where it asks; one with no rows or more than 256, one that does not fit the 1,024 rows, or one to a disabled queue sets REJECT and completes with ERRCODE 4. BATCH_FLUSH, the register flush and the disable close the open batch with cause flush, the deadline in MODE 1 with cause deadline; in another mode the deadline does nothing. A closed batch is released to its target queue; an open one, or one for which no flight is free, is not. -/
def Obligations.BatchesFormAndRelease : Prop :=
  (∀ (b : Fin 6) (q : Fin 64) (p : Nat) (s : State), s.AtHead b q 5 p → bit p 10 = false → Gives (.batchBind b q) s (fun t =>
      Retires b q s t ∧ (t.chip.bq b (bits p 64 3)).tmpl =
        some (1 + bits p 71 25 * 2 ^ 64 + bits p 96 32 * 2 ^ 96 + bits p 128 256 * 2 ^ 128)
      ∧ (t.chip.bq b (bits p 64 3)).batches = (s.chip.bq b (bits p 64 3)).batches ∧ t.chip.mem = s.chip.mem ∧ QueueAndSec s t))
  ∧ (∀ (b : Fin 6) (q : Fin 64) (p : Nat) (ps : List (Nat × Nat)) (r : Place) (s : State), s.AtHead b q 6 p → bit p 10 = false →
    1 ≤ bits p 67 9 → bits p 67 9 ≤ 256 → s.chip.get (BSN_BATCH_STS.PENDING b (bits p 64 3)) + bits p 67 9 ≤ 1024 →
    s.chip.on (BSN_BATCH_CFG.ENABLE b (bits p 64 3)) = true → bits p 76 13 < 5120 →
    s.chip.batchPlaces b (bits p 64 3) (s.chip.bq b (bits p 64 3)).head (bits p 67 9) (bits p 128 48) = some ps →
    s.chip.reach b (bits p 192 48) 8 true = some r → inLatches r 8 = false → s.chip.poison = [] → (∀ c off, r = .cis c off → (s.chip.cl c).tags = []) →
      Gives (.batchAppend b q) s (fun t =>
        Retires b q s t
        ∧ t.chip.get (BSN_BATCH_STS.PENDING b (bits p 64 3)) = s.chip.get (BSN_BATCH_STS.PENDING b (bits p 64 3)) + bits p 67 9
        ∧ t.chip.get (BSN_BATCH_STS.IDLE b (bits p 64 3)) = 0
        ∧ (∃ j, j = (s.chip.bq b (bits p 64 3)).join (bits p 67 9) (bits p 76 13) (bits p 128 48)
              (s.chip.get (BSN_BATCH_CFG.MODE b (bits p 64 3)) == 1 && s.chip.get (BSN_BATCH_CFG.DEADLINE b (bits p 64 3)) == 0)
            ∧ t.chip.bq b (bits p 64 3) = j.1 ∧ t.chip.mem.reads r.key 8 = leBytes 8 (j.2.1 + 2 ^ 32 * j.2.2))
        ∧ QueueAndSec s t))
  ∧ (∀ (b : Fin 6) (q : Fin 64) (p : Nat) (s : State), s.AtHead b q 6 p → bit p 10 = false →
    (bits p 67 9 = 0 ∨ 256 < bits p 67 9 ∨ 1024 < s.chip.get (BSN_BATCH_STS.PENDING b (bits p 64 3)) + bits p 67 9
      ∨ s.chip.on (BSN_BATCH_CFG.ENABLE b (bits p 64 3)) = false) → Gives (.batchAppend b q) s (fun t =>
      Retires b q s t ∧ t.chip.get (BSN_BATCH_STS.REJECT b (bits p 64 3)) = 1 ∧ t.chip.get (BSN_Q_STS.ERR b q) = 1
      ∧ t.chip.get (BSN_Q_STS.ERRCODE b q) = 4 ∧ t.chip.mem = s.chip.mem ∧ QueueAndSec s t))
  ∧ (∀ (b : Fin 6) (q : Fin 64) (p : Nat) (s : State), s.AtHead b q 7 p → bit p 10 = false → Gives (.batchFlush b q) s (fun t =>
      Retires b q s t ∧ t.chip.mem = s.chip.mem ∧ QueueAndSec s t ∧ (t.chip.bq b (bits p 64 3)).batches =
        (s.chip.bq b (bits p 64 3)).batches.map (fun x => if x.closed.isNone then { x with closed := some 2 } else x)))
  ∧ (∀ (ag : Agent) (b : Fin 6) (x : Fin 8) (s : State), s.chip.hears ag 0x20000 = true → s.chip.mayBsn ag b = true →
    Gives (.batchCfgFlush ag b x) s (fun t =>
      (t.chip.bq b x).batches = (s.chip.bq b x).batches.map (fun y => if y.closed.isNone then { y with closed := some 2 } else y)
      ∧ t = { s with chip := { s.chip with basins := t.chip.basins } }))
  ∧ (∀ (ag : Agent) (b : Fin 6) (x : Fin 8) (s : State), s.chip.hears ag 0x20000 = true → s.chip.mayBsn ag b = true →
    Gives (.batchDisable ag b x) s (fun t =>
      (t.chip.bq b x).batches = (s.chip.bq b x).batches.map (fun y => if y.closed.isNone then { y with closed := some 2 } else y)
      ∧ t.chip.get (BSN_BATCH_CFG.ENABLE b x) = 0 ∧ OtherRegs [(BSN_BATCH_CFG b x).key] s t
      ∧ t = { s with chip := { s.chip with basins := t.chip.basins, regs := t.chip.regs } }))
  ∧ (∀ (b : Fin 6) (x : Fin 8) (s : State), s.chip.pwr.on = true →
    (s.chip.get (BSN_BATCH_CFG.MODE b x) = 1 → Gives (.batchDeadline b x) s (fun t =>
      (t.chip.bq b x).batches = (s.chip.bq b x).batches.map (fun y => if y.closed.isNone then { y with closed := some 1 } else y)
      ∧ t = { s with chip := { s.chip with basins := t.chip.basins } }))
    ∧ (s.chip.get (BSN_BATCH_CFG.MODE b x) ≠ 1 → exec (.batchDeadline b x) s = .next s))
  ∧ (∀ (b : Fin 6) (x : Fin 8) (tp n : Nat) (y : Batch) (s : State), s.chip.pwr.on = true → (s.chip.bq b x).tmpl = some tp → y.closed = some n → n < 3 →
    (s.chip.bq b x).batches.find? (fun z => !z.inFlight) = some y → s.chip.get (BSN_BATCH_STS.INFL b x) ≤ s.chip.get (BSN_BATCH_CFG.INFLIGHT b x) →
    (s.chip.bs b).quenched = false → y.rows ≤ s.chip.get (BSN_BATCH_STS.PENDING b x) → Gives (.batchRelease b x) s (fun t =>
      (t.chip.qu b (s.chip.get (BSN_BATCH_CFG.TARGET_Q b x))).ins = (s.chip.qu b (s.chip.get (BSN_BATCH_CFG.TARGET_Q b x))).ins
        ++ [(setBits (setBits tp 256 64 y.rows) 320 64 y.slot, (x : Nat), y.num)]
      ∧ t.chip.get (BSN_BATCH_STS.PENDING b x) = s.chip.get (BSN_BATCH_STS.PENDING b x) - y.rows
      ∧ t.chip.get (BSN_BATCH_STS.INFL b x) = s.chip.get (BSN_BATCH_STS.INFL b x) + 1
      ∧ t.chip.get (BSN_BATCH_STS.LAST_CAUSE b x) = n ∧ t.chip.mem = s.chip.mem ∧ QueueAndSec s t
      ∧ OtherRegs [(BSN_BATCH_STS b x).key, (BSN_Q_STS b (s.chip.get (BSN_BATCH_CFG.TARGET_Q b x))).key] s t))
  ∧ (∀ (b : Fin 6) (x : Fin 8) (y : Batch) (s : State), (s.chip.bq b x).batches.find? (fun z => !z.inFlight) = some y →
    y.closed = none ∨ s.chip.get (BSN_BATCH_CFG.INFLIGHT b x) < s.chip.get (BSN_BATCH_STS.INFL b x) → exec (.batchRelease b x) s = .next s)

/-- Steps are sealed, agreed, released and abandoned. A SEAL of the present step, with none sealed, makes STEP one more, seals the taint and the loss scale, and opens the next step clean; while a step is sealed it waits; of another step it halts its queue with ERRCODE 4. An AGREE of the sealed step whose engine commands are done records NF and DIST: in a group of more than one, whose first round has not come, it arrives at context 0 and waits in STATE 2; in a group of one it resolves the step and retires. RELEASE of an agreed step resolves it with its recorded result; ABANDON resolves it disturbed; of a step that is not the sealed one, either says whether that was resolved. A timeout sets TIMEOUT_EV; TAINT sets local taint. -/
def Obligations.StepsSealAndAgree : Prop :=
  (∀ (b : Fin 6) (q : Fin 64) (p : Nat) (s : State), s.AtHead b q 8 p → bit p 10 = false → bits p 64 32 = s.chip.step b % 2 ^ 32 →
    s.chip.get (BSN_AGREE_STS.STATE b) = 0 → Gives (.sealStep b q) s (fun t =>
      Retires b q s t ∧ t.chip.step b = (s.chip.step b + 1) % 2 ^ 64 ∧ t.chip.get (BSN_AGREE_STS.STATE b) = 1
      ∧ t.chip.on (BSN_AGREE_STS.SEALED_TAINT b) = (s.chip.on (BSN_AGREE_STS.LOCAL_TAINT b) || s.chip.on (BSN_AGREE_STS.TAINT_SEEN b))
      ∧ t.chip.get (BSN_AGREE_STS.LOCAL_TAINT b) = 0
      ∧ t.chip.get (BSN_AGREE_STS.SEALED_LS b) = s.chip.get (BSN_AGREE_STS.OPEN_LS b)
      ∧ t.chip.get (BSN_AGREE_STS.OPEN_LS b) = s.chip.get (BSN_LOSS_SCALE.LS_EXP b)
      ∧ OtherRegs [(BSN_Q_STS b q).key, (BSN_WDOG b).key, (BSN_POUR_STS b).key, (BSN_AGREE_STS b).key, (BSN_STEP b).key] s t ∧ QueueAndSec s t))
  ∧ (∀ (b : Fin 6) (q : Fin 64) (p : Nat) (s : State), s.AtHead b q 8 p →
    (bits p 64 32 = s.chip.step b % 2 ^ 32 → s.chip.get (BSN_AGREE_STS.STATE b) ≠ 0 → s.chip.get (BSN_Q_STS.STATE b q) ≠ 5 → Gives (.sealStep b q) s (fun t =>
      t.chip.get (BSN_Q_STS.STATE b q) = 2 ∧ t.chip.get (BSN_Q_STS.HEAD b q) = s.chip.get (BSN_Q_STS.HEAD b q) ∧ OnlyRegs s t
      ∧ OtherRegs [(BSN_Q_STS b q).key] s t))
    ∧ (bits p 64 32 ≠ s.chip.step b % 2 ^ 32 → Gives (.sealStep b q) s (fun t => Halted b q 4 s t ∧ t.chip.mem = s.chip.mem ∧ QueueAndSec s t
      ∧ OtherThanEvents [(BSN_Q_STS b q).key] s t)))
  ∧ (∀ (b : Fin 6) (q : Fin 64) (p n r l : Nat) (s : State), s.AtHead b q 9 p → s.chip.get (BSN_AGREE_STS.STATE b) = 1 →
    bits p 64 32 = (s.chip.step b - 1) % 2 ^ 32 → (3 ≤ s.chip.step b → s.chip.engineBusy b (s.chip.step b - 3) = false) →
    s.chip.group b 0 = some (n, r, l) → 2 ≤ n →
    s.chip.get (BSN_BAR_STS.ROUND b 0) = 0 → 0 ∉ (s.chip.barCtx b 0).got → Gives (.agree b q) s (fun t =>
      t.chip.get (BSN_AGREE_STS.STATE b) = 2
      ∧ t.chip.on (BSN_AGREE_STS.AGREED_NF b) = (bit (s.chip.agreedWord b (s.chip.step b - 1) 0) 0 || (s.chip.bs b).seenSealed)
      ∧ t.chip.on (BSN_AGREE_STS.AGREED_DIST b) = bit (s.chip.agreedWord b (s.chip.step b - 1) 0) 1
      ∧ t.chip.get (BSN_BAR_STS.STATE b 0) = 1 ∧ (t.chip.barCtx b 0).arrived = true
      ∧ t.chip.get (BSN_Q_STS.HEAD b q) = (s.chip.get (BSN_Q_STS.HEAD b q) + 1) % 65536 ∧ t.chip.step b = s.chip.step b
      ∧ t.chip.mem = s.chip.mem ∧ QueueAndSec s t))
  ∧ (∀ (b : Fin 6) (q : Fin 64) (p r l : Nat) (s : State), s.AtHead b q 9 p → s.chip.get (BSN_AGREE_STS.STATE b) = 1 →
    bits p 64 32 = (s.chip.step b - 1) % 2 ^ 32 → (3 ≤ s.chip.step b → s.chip.engineBusy b (s.chip.step b - 3) = false) →
    s.chip.group b 0 = some (1, r, l) → (s.chip.qu b q).haltPkt = none → Gives (.agree b q) s (fun t =>
      Retires b q s t ∧ t.chip.get (BSN_AGREE_STS.STATE b) = 0
      ∧ t.chip.get (BSN_AGREE_STS.LAST_RESULT b) =
          (if (bit (s.chip.agreedWord b (s.chip.step b - 1) 0) 0 || (s.chip.bs b).seenSealed) = true then 2
            else if bit (s.chip.agreedWord b (s.chip.step b - 1) 0) 1 = true then 3 else 1)
      ∧ t.chip.get (BSN_AGREE_STS.LAST_STEP b) = (s.chip.step b - 1) % 2 ^ 32 ∧ t.chip.step b = s.chip.step b ∧ QueueAndSec s t))
  ∧ (∀ (ag : Agent) (b : Fin 6) (n : BitVec 32) (s : State), s.chip.hears ag 0x20000 = true → s.chip.mayQuench ag b = true →
    s.chip.get (BSN_AGREE_STS.STATE b) = 2 → n.toNat = (s.chip.step b - 1) % 2 ^ 32 → (s.chip.barCtx b 0).waiter = none →
      Gives (.agreeCtlRelease ag b n) s (fun t =>
        t.chip.get (BSN_AGREE_STS.STATE b) = 0 ∧ t.chip.get (BSN_AGREE_STS.CMD_RESULT b) = 0
        ∧ t.chip.get (BSN_AGREE_STS.LAST_RESULT b) = (if s.chip.on (BSN_AGREE_STS.AGREED_NF b) then 2
            else if s.chip.on (BSN_AGREE_STS.AGREED_DIST b) then 3 else 1)
        ∧ t.chip.get (BSN_AGREE_STS.LAST_STEP b) = n.toNat ∧ t.chip.step b = s.chip.step b ∧ QueueAndSec s t))
  ∧ (∀ (ag : Agent) (b : Fin 6) (n : BitVec 32) (s : State), s.chip.hears ag 0x20000 = true → s.chip.mayQuench ag b = true →
    s.chip.get (BSN_AGREE_STS.STATE b) ≠ 0 → n.toNat = (s.chip.step b - 1) % 2 ^ 32 → (s.chip.barCtx b 0).waiter = none →
      Gives (.agreeCtlAbandon ag b n) s (fun t =>
        t.chip.get (BSN_AGREE_STS.STATE b) = 0 ∧ t.chip.get (BSN_AGREE_STS.CMD_RESULT b) = 0 ∧ t.chip.get (BSN_AGREE_STS.LAST_RESULT b) = 3
        ∧ t.chip.get (BSN_AGREE_STS.LAST_STEP b) = n.toNat ∧ t.chip.step b = s.chip.step b ∧ QueueAndSec s t))
  ∧ (∀ (ag : Agent) (b : Fin 6) (n : BitVec 32) (i : Instr) (s : State), i = .agreeCtlRelease ag b n ∨ i = .agreeCtlAbandon ag b n →
    s.chip.hears ag 0x20000 = true → s.chip.mayQuench ag b = true →
    (s.chip.get (BSN_AGREE_STS.STATE b) = 0 ∨ n.toNat ≠ (s.chip.step b - 1) % 2 ^ 32) → Gives i s (fun t =>
      t.chip.get (BSN_AGREE_STS.CMD_RESULT b) = (if s.chip.wasResolved b n.toNat then 1 else 3) ∧ OnlyRegs s t
      ∧ OtherRegs [(BSN_AGREE_STS b).key] s t))
  ∧ (∀ (ag : Agent) (b : Fin 6) (s : State), s.chip.hears ag 0x20000 = true → s.chip.mayQuench ag b = true → Gives (.agreeCtlTaint ag b) s (fun t =>
      t.chip.get (BSN_AGREE_STS.LOCAL_TAINT b) = 1 ∧ t.chip.get (BSN_AGREE_STS.STATE b) = s.chip.get (BSN_AGREE_STS.STATE b)
      ∧ OnlyRegs s t ∧ OtherRegs [(BSN_AGREE_STS b).key] s t))
  ∧ (∀ (b : Fin 6) (s : State), s.chip.pwr.on = true → s.chip.get (BSN_AGREE_CTL.TIMEOUT b) ≠ 0 → s.chip.get (BSN_AGREE_STS.STATE b) ≠ 0 →
    Gives (.agreeTimeout b) s (fun t => t.chip.get (BSN_AGREE_STS.TIMEOUT_EV b) = 1
      ∧ t.chip.get (BSN_AGREE_STS.STATE b) = s.chip.get (BSN_AGREE_STS.STATE b) ∧ RegsAndEvents s t ∧ OtherThanEvents [(BSN_AGREE_STS b).key] s t))

/-- Barriers arrive, wait, complete, time out and are cancelled. A BARRIER of a group of one completes at once and moves its generation on; in a larger group whose first round has not come it waits in STATE 1 with HEAD moved on; of context 0 or with no group it halts its queue with ERRCODE 4. A control packet of the present generation of a context that has not arrived is kept, one of the next generation is kept for it, and one that brings the last round of a group of two that has arrived, with no waiting packet, ends the generation. A timeout sets TIMEOUT_EV. CANCEL of a context returns it to STATE 0, round 0 and, but for context 0, generation 0; a packet that waits completes with ERRCODE 9. -/
def Obligations.BarriersArriveAndEnd : Prop :=
  (∀ (b : Fin 6) (q : Fin 64) (p r l : Nat) (s : State), s.AtHead b q 10 p → bit p 10 = false → bits p 64 4 ≠ 0 →
    s.chip.group b (bits p 64 4) = some (1, r, l) → s.chip.get (BSN_BAR_STS.STATE b (bits p 64 4)) = 0 → (s.chip.qu b q).haltPkt = none →
    Gives (.barrier b q) s (fun t =>
      Retires b q s t ∧ t.chip.barGen b (bits p 64 4) = (s.chip.barGen b (bits p 64 4) + 1) % 2 ^ 32
      ∧ t.chip.get (BSN_BAR_STS.STATE b (bits p 64 4)) = 0 ∧ t.chip.mem = s.chip.mem ∧ t.chip.out = s.chip.out ∧ QueueAndSec s t))
  ∧ (∀ (b : Fin 6) (q : Fin 64) (p n r l : Nat) (s : State), s.AtHead b q 10 p → bits p 64 4 ≠ 0 →
    s.chip.group b (bits p 64 4) = some (n, r, l) → 2 ≤ n → s.chip.get (BSN_BAR_STS.STATE b (bits p 64 4)) = 0 →
    s.chip.get (BSN_BAR_STS.ROUND b (bits p 64 4)) = 0 → 0 ∉ (s.chip.barCtx b (bits p 64 4)).got → Gives (.barrier b q) s (fun t =>
      t.chip.get (BSN_BAR_STS.STATE b (bits p 64 4)) = 1 ∧ t.chip.barGen b (bits p 64 4) = s.chip.barGen b (bits p 64 4)
      ∧ (t.chip.barCtx b (bits p 64 4)).waiter = some ((q : Nat), s.chip.get (BSN_Q_STS.HEAD b q))
      ∧ t.chip.get (BSN_Q_STS.HEAD b q) = (s.chip.get (BSN_Q_STS.HEAD b q) + 1) % 65536 ∧ t.chip.mem = s.chip.mem ∧ QueueAndSec s t))
  ∧ (∀ (b : Fin 6) (q : Fin 64) (p : Nat) (s : State), s.AtHead b q 10 p → bits p 64 4 = 0 ∨ s.chip.group b (bits p 64 4) = none →
    Gives (.barrier b q) s (fun t => Halted b q 4 s t ∧ t.chip.mem = s.chip.mem ∧ QueueAndSec s t ∧ OtherThanEvents [(BSN_Q_STS b q).key] s t))
  ∧ (∀ (w : BitVec 256) (via : Option (Fin 8)) (s : State), s.Comes w.toNat 8 [] (via.map Fin.val) →
    bits (decHdr w.toNat).addr 44 4 = 0 →
    s.chip.turnAway (decHdr w.toNat).dbasin (decHdr w.toNat) (via.map Fin.val) = none →
    (bits (decHdr w.toNat).addr 0 32 = s.chip.barGen (decHdr w.toNat).dbasin (bits (decHdr w.toNat).addr 32 4) →
      (s.chip.barCtx (decHdr w.toNat).dbasin (bits (decHdr w.toNat).addr 32 4)).arrived = false → Gives (.ctrlPacket w via) s (fun t =>
      bits (decHdr w.toNat).addr 36 5 ∈ (t.chip.barCtx (decHdr w.toNat).dbasin (bits (decHdr w.toNat).addr 32 4)).got
      ∧ t.chip.mem = s.chip.mem ∧ t.chip.out = s.chip.out ∧ QueueAndSec s t
      ∧ OtherRegs [(BSN_AGREE_STS (decHdr w.toNat).dbasin).key] s t))
    ∧ (bits (decHdr w.toNat).addr 0 32 = (s.chip.barGen (decHdr w.toNat).dbasin (bits (decHdr w.toNat).addr 32 4) + 1) % 2 ^ 32 →
      Gives (.ctrlPacket w via) s (fun t =>
      bits (decHdr w.toNat).addr 36 5 ∈ (t.chip.barCtx (decHdr w.toNat).dbasin (bits (decHdr w.toNat).addr 32 4)).early
      ∧ t.chip.get (BSN_BAR_STS.EARLY (decHdr w.toNat).dbasin (bits (decHdr w.toNat).addr 32 4)) = 1
      ∧ t.chip.mem = s.chip.mem ∧ t.chip.out = s.chip.out ∧ QueueAndSec s t))
    ∧ (∀ r l, bits (decHdr w.toNat).addr 0 32 = s.chip.barGen (decHdr w.toNat).dbasin (bits (decHdr w.toNat).addr 32 4) →
      bits (decHdr w.toNat).addr 32 4 ≠ 0 → bits (decHdr w.toNat).addr 36 5 = 0 →
      s.chip.group (decHdr w.toNat).dbasin (bits (decHdr w.toNat).addr 32 4) = some (2, r, l) →
      (s.chip.barCtx (decHdr w.toNat).dbasin (bits (decHdr w.toNat).addr 32 4)).arrived = true →
      (s.chip.barCtx (decHdr w.toNat).dbasin (bits (decHdr w.toNat).addr 32 4)).waiter = none →
      s.chip.get (BSN_BAR_STS.ROUND (decHdr w.toNat).dbasin (bits (decHdr w.toNat).addr 32 4)) = 0 → Gives (.ctrlPacket w via) s (fun t =>
      t.chip.barGen (decHdr w.toNat).dbasin (bits (decHdr w.toNat).addr 32 4) =
          (s.chip.barGen (decHdr w.toNat).dbasin (bits (decHdr w.toNat).addr 32 4) + 1) % 2 ^ 32
      ∧ t.chip.get (BSN_BAR_STS.STATE (decHdr w.toNat).dbasin (bits (decHdr w.toNat).addr 32 4)) = 0
      ∧ t.chip.mem = s.chip.mem ∧ t.chip.out = s.chip.out ∧ QueueAndSec s t)))
  ∧ (∀ (b : Fin 6) (x : Fin 16) (s : State), s.chip.pwr.on = true → x ≠ 0 → s.chip.get (BSN_BAR_CTX.TIMEOUT b x) ≠ 0 →
    s.chip.get (BSN_BAR_STS.STATE b x) = 1 → Gives (.barrierTimeout b x) s (fun t => t.chip.get (BSN_BAR_STS.TIMEOUT_EV b x) = 1
      ∧ t.chip.get (BSN_BAR_STS.STATE b x) = 1 ∧ RegsAndEvents s t ∧ OtherThanEvents [(BSN_BAR_STS b x).key] s t))
  ∧ (∀ (ag : Agent) (b : Fin 6) (x : Fin 16) (s : State), s.chip.hears ag 0x20000 = true → s.chip.mayBsn ag b = true →
    ((s.chip.barCtx b x).waiter = none ∨ x = 0 → Gives (.cancel ag b x) s (fun t =>
      t.chip.get (BSN_BAR_STS.STATE b x) = 0 ∧ t.chip.get (BSN_BAR_STS.ROUND b x) = 0
      ∧ t.chip.get (BSN_BAR_STS.GEN b x) = (if x = 0 then s.chip.get (BSN_BAR_STS.GEN b x) else 0)
      ∧ t.chip.barCtx b x = {} ∧ OtherRegs [(BSN_BAR_STS b x).key] s t
      ∧ t = { s with chip := { s.chip with regs := t.chip.regs, basins := t.chip.basins } }))
    ∧ (∀ q i, (s.chip.barCtx b x).waiter = some (q, i) → q < 64 → x ≠ 0 → Gives (.cancel ag b x) s (fun t =>
      t.chip.get (BSN_BAR_STS.STATE b x) = 0 ∧ t.chip.get (BSN_BAR_STS.ROUND b x) = 0 ∧ t.chip.get (BSN_BAR_STS.GEN b x) = 0
      ∧ t.chip.barCtx b x = {} ∧ t.chip.get (BSN_Q_STS.ERR b q) = 1 ∧ t.chip.get (BSN_Q_STS.ERRCODE b q) = 9 ∧ QueueAndSec s t)))

/-- POUR waits and is taken; the loss monitor and the trap are written. A POUR of a queue that is alone in the pour set waits and changes nothing but its queue's STATE; of a queue outside the set it halts every queue of the set with ERRCODE 6. With every queue of the set at a POUR of one number, POUR_TAKE shows that number valid, moves every HEAD of the set on, and where the record's slot lies in the basin's own HBM, apart from the rings, with no poison and no signals, the record reads back with the number, the step and the index after each POUR. A loss write of a queue program not of the side class: a non-finite one is counted; the first after RESTART becomes the average; a spike past the warm-up is counted and leaves the average; any other moves it. RESTART marks that. A write of HELD re-arms the trap where it is enabled. -/
def Obligations.PourPointsAndMonitors : Prop :=
  (∀ (b : Fin 6) (q : Fin 64) (p : Nat) (s : State), s.AtHead b q 11 p →
    (s.chip.pourSet b = [(q : Nat)] → s.chip.get (BSN_Q_STS.STATE b q) ≠ 5 → Gives (.pour b q) s (fun t =>
      t.chip.get (BSN_Q_STS.STATE b q) = 2 ∧ t.chip.get (BSN_Q_STS.HEAD b q) = s.chip.get (BSN_Q_STS.HEAD b q)
      ∧ OnlyRegs s t ∧ OtherRegs [(BSN_Q_STS b q).key] s t))
    ∧ ((q : Nat) ∉ s.chip.pourSet b → Gives (.pour b q) s (fun t =>
      (∀ r ∈ s.chip.pourSet b, t.chip.get (BSN_Q_STS.STATE b r) = 4 ∧ t.chip.get (BSN_Q_STS.ERRCODE b r) = 6
        ∧ t.chip.get (BSN_Q_STS.HEAD b r) = s.chip.get (BSN_Q_STS.HEAD b r))
      ∧ t.chip.mem = s.chip.mem ∧ QueueAndSec s t)))
  ∧ (∀ (b : Fin 6) (q n : Nat) (rest : List Nat) (s : State), s.chip.pwr.on = true → s.chip.pourSet b = q :: rest →
    (∀ r ∈ s.chip.pourSet b, s.chip.pourAt b r = some n) → Gives (.pourTake b) s (fun t =>
      t.chip.get (BSN_POUR_STS.P b) = n ∧ t.chip.get (BSN_POUR_STS.VALID b) = 1
      ∧ t.chip.get (BSN_POUR_STS.SLOT b) = (if s.chip.on (BSN_POUR_STS.VALID b) then 1 - s.chip.get (BSN_POUR_STS.SLOT b) else 0)
      ∧ (∀ r ∈ s.chip.pourSet b, t.chip.get (BSN_Q_STS.HEAD b r) = (s.chip.get (BSN_Q_STS.HEAD b r) + 1) % 65536)
      ∧ (∀ k, s.chip.pourSlot b (if s.chip.on (BSN_POUR_STS.VALID b) then 1 - s.chip.get (BSN_POUR_STS.SLOT b) else 0) = some k → s.chip.poison = [] →
          (∀ r ∈ s.chip.pourSet b, ∀ j p, s.chip.ringPlace b r (s.chip.get (BSN_Q_STS.HEAD b r)) = some j →
            s.chip.ringPkt b r (s.chip.get (BSN_Q_STS.HEAD b r)) = some p → bit p 10 = false ∧ (j + 64 ≤ k ∨ k + 4096 ≤ j)) →
          t.chip.pourRec b = some { p := n, step := s.chip.step b,
                                    idx := (s.chip.pourSet b).map (fun r => (r, (s.chip.get (BSN_Q_STS.HEAD b r) + 1) % 65536)) })
      ∧ QueueAndSec s t))
  ∧ (∀ (ag : Agent) (b : Fin 6) (loss : BitVec 32) (s : State), s.chip.hears ag 0x20000 = true → s.chip.mayBsn ag b = true → (∀ d, ag ≠ .prog d true) →
    ((fp32 loss.toNat).isFin = false → s.chip.word (BSN_LOSS_NF b) < 2 ^ 48 - 1 → Gives (.lossIn ag b loss) s (fun t =>
      t.chip.word (BSN_LOSS_NF b) = s.chip.word (BSN_LOSS_NF b) + 1 ∧ OtherRegs [(BSN_LOSS_NF b).key] s t
      ∧ t = { s with chip := { s.chip with regs := t.chip.regs, basins := t.chip.basins } }))
    ∧ ((fp32 loss.toNat).isFin = true → (s.chip.bs b).lossRestart = true → Gives (.lossIn ag b loss) s (fun t =>
      t.chip.get (BSN_LOSS_AVG.AVG b) = loss.toNat ∧ (t.chip.bs b).lossRestart = false ∧ OtherRegs [(BSN_LOSS_AVG b).key] s t
      ∧ t = { s with chip := { s.chip with regs := t.chip.regs, basins := t.chip.basins } }))
    ∧ (∀ avg, avg = fp32 (s.chip.get (BSN_LOSS_AVG.AVG b)) → (fp32 loss.toNat).isFin = true → (s.chip.bs b).lossRestart = false →
      ((s.chip.get (BSN_LOSS_CTL.WARMUP b) < (s.chip.bs b).lossN + 1 →
          (avg.mul (.fin false (16 + s.chip.get (BSN_LOSS_CTL.RATIO_F b)) (-4))).lt (fp32 loss.toNat) = true →
          s.chip.word (BSN_LOSS_SPIKES b) < 2 ^ 48 - 1 → Gives (.lossIn ag b loss) s (fun t =>
            t.chip.word (BSN_LOSS_SPIKES b) = s.chip.word (BSN_LOSS_SPIKES b) + 1
            ∧ OtherThanEvents [(BSN_LOSS_SPIKES b).key] s t ∧ t.chip.mem = s.chip.mem ∧ QueueAndSec s t))
        ∧ ((s.chip.bs b).lossN + 1 ≤ s.chip.get (BSN_LOSS_CTL.WARMUP b)
            ∨ (avg.mul (.fin false (16 + s.chip.get (BSN_LOSS_CTL.RATIO_F b)) (-4))).lt (fp32 loss.toNat) = false → Gives (.lossIn ag b loss) s (fun t =>
            t.chip.get (BSN_LOSS_AVG.AVG b) = toFp32 (avg.add (fp32 (toFp32 ((fp32 (toFp32 ((fp32 loss.toNat).sub avg))).scale
              (-(s.chip.get (BSN_LOSS_CTL.ALPHA b) : Int)))))) % 2 ^ 32
            ∧ OtherRegs [(BSN_LOSS_AVG b).key] s t ∧ t = { s with chip := { s.chip with regs := t.chip.regs, basins := t.chip.basins } })))))
  ∧ (∀ (ag : Agent) (b : Fin 6) (s : State), s.chip.hears ag 0x20000 = true → s.chip.mayBsn ag b = true → Gives (.lossRestart ag b) s (fun t =>
      (t.chip.bs b) = { s.chip.bs b with lossRestart := true, lossN := 0 } ∧ t = { s with chip := { s.chip with basins := t.chip.basins } }))
  ∧ (∀ (ag : Agent) (b : Fin 6) (s : State), s.chip.hears ag 0x20000 = true → s.chip.mayBsn ag b = true → Gives (.nanTrapRearm ag b) s (fun t =>
      t.chip.get (BSN_NAN_TRAP_CTL.HELD b) = 0 ∧ t.chip.get (BSN_NAN_TRAP_CTL.MISSED b) = 0
      ∧ t.chip.get (BSN_NAN_TRAP_CTL.ARMED b) = s.chip.get (BSN_NAN_TRAP_CTL.ENABLE b) ∧ OnlyRegs s t ∧ OtherRegs [(BSN_NAN_TRAP_CTL b).key] s t))

/-- Every well-formed slot instruction of a bundle decodes from its encoding. For every well-formed S, V, M and X slot instruction, with every operand at every value its field admits, decoding the 64 bits that encode it gives the instruction itself. It says that no bit of an encoding is dropped and that no two instructions share a word. -/
def Obligations.BundleSlotsRoundTrip : Prop :=
  (∀ i : SInst, i.wf = true → decodeS (encodeS i) = some i ∧ encodeS i < 2 ^ 64)
  ∧ (∀ i : VInst, i.wf = true → decodeV (encodeV i) = some i ∧ encodeV i < 2 ^ 64)
  ∧ (∀ i : MInst, i.wf = true → decodeM (encodeM i) = some i ∧ encodeM i < 2 ^ 64)
  ∧ (∀ i : XInst, i.wf = true → decodeX (encodeX i) = some i ∧ encodeX i < 2 ^ 64)

/-- A bundle issues, waits or stops its kernel, and what holds a sequencer ends. A sequencer that may issue takes the bundle at its PC from the buffer or the cistern. One that runs leaves the state its slots give, and counts as issued; one that waits leaves only the buffer changed; one that faults, does not decode, or lies off a multiple of 32 or beyond the cistern's part below the latches stops the kernel with the cause. A bundle of one two-operand scalar operation, outside loops, with no load outstanding, writes its register and moves the PC on by 32. A load that returns writes its register, from a register, a cistern or HBM, and stops the kernel where the granule is poisoned. LWAIT whose latch has reached its threshold, FENCE whose accesses are performed and MSYNC whose events have occurred let the sequencer run again. -/
def Obligations.BundlesIssue : Prop :=
  (∀ (kc : Fin 104) (sq : Fin 2) (k : Kern) (i : Bundle) (d : Chip) (s : State), s.chip.pwr.on = true → s.chip.dbgHalt.contains (2 * kc + sq) = false →
    s.chip.mayIssue kc sq = some k → s.chip.get (seqPc kc sq) % 32 = 0 → s.chip.get (seqPc kc sq) + 32 ≤ latchOfs →
    decodeBundle (s.chip.fetch kc sq (s.chip.get (seqPc kc sq))).1 = some i →
    (s.chip.fetch kc sq (s.chip.get (seqPc kc sq))).2.runBundle kc sq k (s.chip.get (seqPc kc sq)) i = .done d none →
      exec (.bundleIssue kc sq) s = .next { s with chip := d.setSeqr kc sq { d.seqr kc sq with issues := (d.seqr kc sq).issues + 1 } })
  ∧ (∀ (kc : Fin 104) (sq : Fin 2) (k : Kern) (i : Bundle) (s : State), s.chip.pwr.on = true → s.chip.dbgHalt.contains (2 * kc + sq) = false →
    s.chip.mayIssue kc sq = some k → s.chip.get (seqPc kc sq) % 32 = 0 → s.chip.get (seqPc kc sq) + 32 ≤ latchOfs →
    decodeBundle (s.chip.fetch kc sq (s.chip.get (seqPc kc sq))).1 = some i →
    (s.chip.fetch kc sq (s.chip.get (seqPc kc sq))).2.runBundle kc sq k (s.chip.get (seqPc kc sq)) i = .wait →
      exec (.bundleIssue kc sq) s = .next { s with chip := (s.chip.fetch kc sq (s.chip.get (seqPc kc sq))).2 })
  ∧ (∀ (kc : Fin 104) (sq : Fin 2) (k : Kern) (i : Bundle) (cause code : Nat) (s : State), s.chip.pwr.on = true →
    s.chip.dbgHalt.contains (2 * kc + sq) = false →
    s.chip.mayIssue kc sq = some k → s.chip.get (seqPc kc sq) % 32 = 0 → s.chip.get (seqPc kc sq) + 32 ≤ latchOfs →
    decodeBundle (s.chip.fetch kc sq (s.chip.get (seqPc kc sq))).1 = some i →
    (s.chip.fetch kc sq (s.chip.get (seqPc kc sq))).2.runBundle kc sq k (s.chip.get (seqPc kc sq)) i = .fault cause code →
      exec (.bundleIssue kc sq) s = .next { s with chip := (s.chip.fetch kc sq (s.chip.get (seqPc kc sq))).2.kernelFault kc sq cause code })
  ∧ (∀ (kc : Fin 104) (sq : Fin 2) (k : Kern) (s : State), s.chip.pwr.on = true → s.chip.dbgHalt.contains (2 * kc + sq) = false →
    s.chip.mayIssue kc sq = some k → s.chip.get (seqPc kc sq) % 32 = 0 → s.chip.get (seqPc kc sq) + 32 ≤ latchOfs →
    decodeBundle (s.chip.fetch kc sq (s.chip.get (seqPc kc sq))).1 = none →
      exec (.bundleIssue kc sq) s = .next { s with chip := (s.chip.fetch kc sq (s.chip.get (seqPc kc sq))).2.kernelFault kc sq 1 0 })
  ∧ (∀ (kc : Fin 104) (sq : Fin 2) (k : Kern) (s : State), s.chip.pwr.on = true → s.chip.dbgHalt.contains (2 * kc + sq) = false →
    s.chip.mayIssue kc sq = some k → (s.chip.get (seqPc kc sq) % 32 ≠ 0 ∨ latchOfs < s.chip.get (seqPc kc sq) + 32) →
      exec (.bundleIssue kc sq) s = .next { s with chip := s.chip.kernelFault kc sq 6 0 })
  ∧ (∀ (kc : Fin 104) (sq : Fin 2) (k : Kern) (op : AluOp) (rd ra rb : Nat) (s : State), s.chip.pwr.on = true →
    s.chip.dbgHalt.contains (2 * kc + sq) = false → s.chip.mayIssue kc sq = some k → s.chip.get (seqPc kc sq) % 32 = 0 →
    s.chip.get (seqPc kc sq) + 32 ≤ latchOfs → (s.chip.seqr kc sq).loads = [] → (s.chip.seqr kc sq).loops = [] →
    decodeBundle (s.chip.fetch kc sq (s.chip.get (seqPc kc sq))).1 = some { s := .alu op rd ra rb, v := .empty, m := .empty, x := .empty } →
      Gives (.bundleIssue kc sq) s (fun t =>
        (t.chip.seqr kc sq).reg rd = op.run ((s.chip.seqr kc sq).reg ra) ((s.chip.seqr kc sq).reg rb) % 2 ^ 64
        ∧ (∀ r, r ≠ rd → (t.chip.seqr kc sq).reg r = (s.chip.seqr kc sq).reg r)
        ∧ t.chip.get (seqPc kc sq) = s.chip.get (seqPc kc sq) + 32 ∧ t.chip.get (seqState kc sq) = s.chip.get (seqState kc sq)
        ∧ OtherRegs [(seqPc kc sq).reg.key] s t ∧ t = { s with chip := { s.chip with regs := t.chip.regs, clusters := t.chip.clusters } }))
  ∧ (∀ (kc : Fin 104) (sq : Fin 2) (n : Nat) (l : PendLoad) (k : Kern) (p : Place) (s : State), s.chip.pwr.on = true →
    (s.chip.seqr kc sq).loads[n]? = some l → s.chip.kernOf kc = some k → inRegs l.addr = false →
    s.chip.reach k.basin l.addr l.size false = some p → s.chip.poisonAt p l.size = false →
      Gives (.loadDataReturn kc sq n) s (fun t =>
        (t.chip.seqr kc sq).reg l.rd = extend l.size l.signed (s.chip.rdn p l.size) % 2 ^ 64
        ∧ (t.chip.seqr kc sq).loads = (s.chip.seqr kc sq).loads.eraseIdx n
        ∧ (∀ r, r ≠ l.rd → (t.chip.seqr kc sq).reg r = (s.chip.seqr kc sq).reg r)
        ∧ t = { s with chip := { s.chip with clusters := t.chip.clusters } }))
  ∧ (∀ (kc : Fin 104) (sq : Fin 2) (n v : Nat) (l : PendLoad) (k : Kern) (d : Chip) (s : State), s.chip.pwr.on = true →
    (s.chip.seqr kc sq).loads[n]? = some l → s.chip.kernOf kc = some k → inRegs l.addr = true →
    (s.chip.setSeqr kc sq { s.chip.seqr kc sq with loads := (s.chip.seqr kc sq).loads.eraseIdx n }).regRead (l.addr - regWindow) = (v, d) →
      exec (.loadDataReturn kc sq n) s = .next { s with chip := d.setS kc sq l.rd v })
  ∧ (∀ (kc : Fin 104) (sq : Fin 2) (n : Nat) (l : PendLoad) (k : Kern) (p : Place) (s : State), s.chip.pwr.on = true →
    (s.chip.seqr kc sq).loads[n]? = some l → s.chip.kernOf kc = some k → inRegs l.addr = false →
    s.chip.reach k.basin l.addr l.size false = some p → s.chip.poisonAt p l.size = true →
      exec (.loadDataReturn kc sq n) s = .next { s with chip :=
        (s.chip.setSeqr kc sq { s.chip.seqr kc sq with loads := (s.chip.seqr kc sq).loads.eraseIdx n }).kernelFaultAt kc sq 6 l.pc })
  ∧ (∀ (kc : Fin 104) (sq : Fin 2) (l thr : Nat) (k : Kern) (s : State), s.chip.pwr.on = true → (s.chip.seqr kc sq).hold = .lwait l thr →
    s.chip.kernOf kc = some k → thr ≤ s.chip.latch k.basin l → Gives (.lwaitRelease kc sq) s (fun t =>
      (t.chip.seqr kc sq).hold = .none ∧ t.chip.get (seqState kc sq) = 1 ∧ OtherRegs [(seqState kc sq).reg.key] s t
      ∧ t = { s with chip := { s.chip with regs := t.chip.regs, clusters := t.chip.clusters } }))
  ∧ (∀ (kc : Fin 104) (sq : Fin 2) (cs : Bool) (m : Marks) (s : State), s.chip.pwr.on = true → (s.chip.seqr kc sq).hold = .fence cs m →
    s.chip.met kc m = true → Gives (.fenceComplete kc sq) s (fun t =>
      (t.chip.seqr kc sq).hold = .none ∧ (t.chip.seqr kc sq).fenced = ((s.chip.seqr kc sq).fenced || cs) ∧ t.chip.get (seqState kc sq) = 1
      ∧ OtherRegs [(seqState kc sq).reg.key] s t ∧ t = { s with chip := { s.chip with regs := t.chip.regs, clusters := t.chip.clusters } }))
  ∧ (∀ (kc : Fin 104) (sq : Fin 2) (mask : Nat) (m : Marks) (s : State), s.chip.pwr.on = true → (s.chip.seqr kc sq).hold = .msync mask m →
    s.chip.msyncMet kc mask m = true → Gives (.msyncRelease kc sq) s (fun t =>
      (t.chip.seqr kc sq).hold = .none ∧ t.chip.get (seqState kc sq) = 1 ∧ OtherRegs [(seqState kc sq).reg.key] s t
      ∧ t = { s with chip := { s.chip with regs := t.chip.regs, clusters := t.chip.clusters } }))

/-- Tiles load, passes enter and sum, drains start and complete. A load at the head of the array's queue starts with its stream's rows and completes into the shadow; the first after a wake, or where the array has been idle, begins a staged start, which ends. A pass enters its rows, makes its tile active and counts itself, its wait and its lost cycles; its sums reach its set, free where the tile is undefined, and a residue mismatch stops the array and freezes the basin. A drain takes its vectors and marks its set Draining; when it may complete, its rows are burnished and written, its tag's record is folded, and its set is Empty; an integer raw drain of one row stores its accumulators. STATE is 1 while the array works. Where a row reaches outside the cistern, the kernel stops. -/
def Obligations.ArraysLoadPassAndDrain : Prop :=
  (∀ (kc : Fin 104) (staged u : Bool) (confl : Nat) (k : Kern) (crows ncol d r bn : Nat) (f : OpFmt) (rest : List ACmd) (s : State),
    s.chip.pwr.on = true → s.chip.arrLive kc = some k → (s.chip.cl kc).arr.q = .load crows ncol f d r u bn :: rest →
    (s.chip.cl kc).arr.shadow = none → (s.chip.cl kc).arr.loading = none → dRowsOk d r crows false = true →
      Gives (.tileLoadStart ⟨kc, confl⟩ staged) s (fun t =>
      (t.chip.cl kc).arr.loading = some ({ row0 := r, crows := crows, ncol := ncol, fmt := f, rows := s.chip.tileRows kc d r crows, scale := [], undef := u }, d, r)
      ∧ (t.chip.cl kc).arr.q = rest ∧ t.chip.get (CLS_ARRAY_STS.STATE (kc / 4) (kc % 4)) = 1
      ∧ t.chip.get (CLS_ARRAY_STS.MODE (kc / 4) (kc % 4)) = b2n k.whole
      ∧ t.chip.get (CLS_ARRAY_STS.STAGING (kc / 4) (kc % 4)) = (if (s.chip.cl kc).arr.done.loads = 0 ∧ (staged = true ∨ (s.chip.cl kc).woken = true) then 1
          else s.chip.get (CLS_ARRAY_STS.STAGING (kc / 4) (kc % 4)))
      ∧ t.chip.word (CLS_STREAM_CONFLICT (kc / 4) (kc % 4)) = (recAdd (s.chip.word (CLS_STREAM_CONFLICT (kc / 4) (kc % 4)))
          (if (s.chip.cl kc).arr.arrStreams.any (fun e => e.1 != .weight && !neverConflict d e.2) then confl else 0)).1
      ∧ OtherThanEvents [ASY_CTR_EV.key, (CLS_ARRAY_STS (kc / 4) (kc % 4)).key, (CLS_STREAM_CONFLICT (kc / 4) (kc % 4)).key] s t
      ∧ t = { s with chip := { s.chip with regs := t.chip.regs, clusters := t.chip.clusters, out := t.chip.out, irqs := t.chip.irqs } }))
  ∧ (∀ (kc : Fin 104) (staged u : Bool) (confl : Nat) (k : Kern) (crows ncol d r bn : Nat) (f : OpFmt) (rest : List ACmd) (s : State),
    s.chip.pwr.on = true → s.chip.arrLive kc = some k → (s.chip.cl kc).arr.q = .load crows ncol f d r u bn :: rest →
    (s.chip.cl kc).arr.shadow = none → (s.chip.cl kc).arr.loading = none → dRowsOk d r crows false = false →
      exec (.tileLoadStart ⟨kc, confl⟩ staged) s = .next { s with chip := s.chip.arrFault kc k bn })
  ∧ (∀ (kc : Fin 104) (x : Tile) (d r : Nat) (s : State), s.chip.pwr.on = true → (s.chip.cl kc).arr.loading = some (x, d, r) →
    Gives (.tileLoadComplete kc) s (fun t => (t.chip.cl kc).arr.loading = none ∧ (t.chip.cl kc).arr.shadow = some x
      ∧ (t.chip.cl kc).arr.done.loads = (s.chip.cl kc).arr.done.loads + 1
      ∧ (s.chip.get (CLS_ARRAY_STS.STATE (kc / 4) (kc % 4)) < 2 → t.chip.get (CLS_ARRAY_STS.STATE (kc / 4) (kc % 4)) =
          b2n (!((s.chip.cl kc).arr.q.isEmpty && (s.chip.cl kc).arr.flights.isEmpty && (s.chip.cl kc).arr.drains.isEmpty)))
      ∧ OtherRegs [(CLS_ARRAY_STS (kc / 4) (kc % 4)).key] s t
      ∧ t = { s with chip := { s.chip with regs := t.chip.regs, clusters := t.chip.clusters } }))
  ∧ (∀ (kc : Fin 104) (s : State), s.chip.pwr.on = true → Gives (.stagedStartEnd kc) s (fun t =>
      t.chip.get (CLS_ARRAY_STS.STAGING (kc / 4) (kc % 4)) = 0 ∧ OnlyRegs s t ∧ OtherRegs [(CLS_ARRAY_STS (kc / 4) (kc % 4)).key] s t))
  ∧ (∀ (kc : Fin 104) (waited confl : Nat) (k : Kern) (n w : Nat) (f : OpFmt) (d r : Nat) (swap : Bool) (cls bn : Nat) (rest : List ACmd) (x : Tile)
      (sc dat osc : List (List Nat)) (s : State), s.chip.pwr.on = true → s.chip.arrLive kc = some k → w < 2 →
    (s.chip.cl kc).arr.q = .pass n w f d r swap cls bn :: rest → (if swap then (s.chip.cl kc).arr.shadow else (s.chip.cl kc).arr.active) = some x →
    ((s.chip.cl kc).arr.set w).st ≠ .draining → s.chip.on (CLS_ARRAY_STS.STAGING (kc / 4) (kc % 4)) = false → dRowsOk d r n false = true →
    s.chip.tileScales k.basin x.fmt cls x.row0 x.crows x.ncol = some sc → s.chip.passData k.basin kc f d r n = some (dat, osc) →
      Gives (.passStart ⟨kc, confl⟩ waited) s (fun t =>
      (t.chip.cl kc).arr.flights = (s.chip.cl kc).arr.flights ++
        [{ set := w, desc := d, tile := { x with scale := sc }, fmt := f, cls := cls, kvalid := dElems d, data := dat, scale := osc }]
      ∧ (t.chip.cl kc).arr.q = rest ∧ (t.chip.cl kc).arr.active = some { x with scale := sc }
      ∧ (t.chip.cl kc).arr.shadow = (if swap then none else (s.chip.cl kc).arr.shadow) ∧ (t.chip.cl kc).woken = false
      ∧ (((s.chip.cl kc).arr.set w).st = .empty → ((t.chip.cl kc).arr.set w).rows = List.replicate n (List.replicate x.ncol {}))
      ∧ (((s.chip.cl kc).arr.set w).st ≠ .empty → (t.chip.cl kc).arr.set w = (s.chip.cl kc).arr.set w)
      ∧ t.chip.get (CLS_ARRAY_STS.STATE (kc / 4) (kc % 4)) = 1 ∧ t.chip.get (CLS_ARRAY_STS.MODE (kc / 4) (kc % 4)) = b2n k.whole
      ∧ t.chip.get (CLS_ARRAY_STS.ACC_SET (kc / 4) (kc % 4)) = w
      ∧ t.chip.word (CLS_PASSES (kc / 4) (kc % 4)) = (recAdd (s.chip.word (CLS_PASSES (kc / 4) (kc % 4))) 1).1
      ∧ t.chip.word (CLS_PASS_WAIT (kc / 4) (kc % 4)) = (recAdd (s.chip.word (CLS_PASS_WAIT (kc / 4) (kc % 4))) waited).1
      ∧ t.chip.word (CLS_STREAM_CONFLICT (kc / 4) (kc % 4)) = (recAdd (s.chip.word (CLS_STREAM_CONFLICT (kc / 4) (kc % 4)))
          (if (s.chip.cl kc).arr.arrStreams.any (fun e => e.1 != .operand && !neverConflict d e.2) then confl else 0)).1
      ∧ OtherThanEvents [ASY_CTR_EV.key, (CLS_ARRAY_STS (kc / 4) (kc % 4)).key, (CLS_STREAM_CONFLICT (kc / 4) (kc % 4)).key,
          (CLS_PASSES (kc / 4) (kc % 4)).key, (CLS_PASS_WAIT (kc / 4) (kc % 4)).key] s t
      ∧ t = { s with chip := { s.chip with regs := t.chip.regs, clusters := t.chip.clusters, out := t.chip.out, irqs := t.chip.irqs } }))
  ∧ (∀ (kc : Fin 104) (waited confl : Nat) (k : Kern) (n w : Nat) (f : OpFmt) (d r : Nat) (swap : Bool) (cls bn : Nat) (rest : List ACmd) (x : Tile)
      (s : State), s.chip.pwr.on = true → s.chip.arrLive kc = some k →
    (s.chip.cl kc).arr.q = .pass n w f d r swap cls bn :: rest → (if swap then (s.chip.cl kc).arr.shadow else (s.chip.cl kc).arr.active) = some x →
    ((s.chip.cl kc).arr.set w).st ≠ .draining → s.chip.on (CLS_ARRAY_STS.STAGING (kc / 4) (kc % 4)) = false →
    (dRowsOk d r n false = false ∨ s.chip.tileScales k.basin x.fmt cls x.row0 x.crows x.ncol = none ∨ s.chip.passData k.basin kc f d r n = none) →
      exec (.passStart ⟨kc, confl⟩ waited) s = .next { s with chip := s.chip.arrFault kc k bn })
  ∧ (∀ (kc : Fin 104) (f : Flight) (rest : List Flight) (s : State), s.chip.pwr.on = true → (s.chip.cl kc).arr.flights = f :: rest → f.set < 2 →
    Gives (.passSumsComplete kc none) s (fun t => (t.chip.cl kc).arr.flights = rest ∧ (t.chip.cl kc).arr.sums = (s.chip.cl kc).arr.sums + 1
      ∧ (t.chip.cl kc).arr.set f.set = (if f.tile.undef then (s.chip.freeSums ((s.chip.cl kc).arr.set f.set)).1 else f.sum ((s.chip.cl kc).arr.set f.set))
      ∧ (t.chip.cl kc).arr.set (1 - f.set) = (s.chip.cl kc).arr.set (1 - f.set)
      ∧ OtherRegs [(CLS_ARRAY_STS (kc / 4) (kc % 4)).key] s t
      ∧ t = { s with chip := { s.chip with regs := t.chip.regs, clusters := t.chip.clusters, free := t.chip.free } }))
  ∧ (∀ (kc : Fin 104) (col : Nat) (f : Flight) (rest : List Flight) (s : State), s.chip.pwr.on = true → (s.chip.cl kc).arr.flights = f :: rest →
    f.set < 2 → col < 512 → Gives (.passSumsComplete kc (some col)) s (fun t => (t.chip.cl kc).arr.flights = rest
      ∧ ((t.chip.cl kc).arr.set f.set).stop = true ∧ (t.chip.bs (s.chip.clBasin kc)).frozen = true
      ∧ t.chip.get (CLS_ARRAY_STS.STATE (kc / 4) (kc % 4)) = 2 ∧ t.chip.get (CLS_ARRAY_STS.ARRAY_FAULT (kc / 4) (kc % 4)) = 1
      ∧ t.chip.get (CLS_ARRAY_STS.FAULT_COL (kc / 4) (kc % 4)) = (if s.chip.on (CLS_ARRAY_STS.ARRAY_FAULT (kc / 4) (kc % 4)) then
          s.chip.get (CLS_ARRAY_STS.FAULT_COL (kc / 4) (kc % 4)) else col)
      ∧ t.chip.word (CLS_ARRAY_FAULTS (kc / 4) (kc % 4)) = (recAdd (s.chip.word (CLS_ARRAY_FAULTS (kc / 4) (kc % 4))) 1).1
      ∧ t.chip.mem = s.chip.mem ∧ QueueAndSec s t))
  ∧ (∀ (kc : Fin 104) (confl : Nat) (k : Kern) (d : DrainCmd) (cs bs rs : List Nat) (rest : List ACmd) (s : State), s.chip.pwr.on = true →
    s.chip.arrLive kc = some k → d.set < 2 → (s.chip.cl kc).arr.q = .drain d :: rest →
    ((d.vec = none ∧ cs = [] ∧ bs = [] ∧ rs = [])
      ∨ (∃ d3 r3 r4 r5, d.vec = some (d3, r3) ∧ dRowsOk d3 r3 (vecRows (dRowBytes d3) d.rows d.ncol d.rsc d.csc d.bias) false = true
        ∧ (if d.csc ≠ 0 then s.chip.vec kc d3 r3 d.ncol (if d.csc = 1 then 1 else 4) else ([], r3)) = (cs, r4)
        ∧ (if d.bias then s.chip.vec kc d3 r4 d.ncol 4 else ([], r4)) = (bs, r5)
        ∧ (if d.rsc ≠ 0 then (s.chip.vec kc d3 r5 d.rows (if d.rsc = 1 then 1 else 4)).1 else []) = rs)) →
      Gives (.drainStart ⟨kc, confl⟩) s (fun t =>
      ((t.chip.cl kc).arr.set d.set).st = .draining ∧ ((t.chip.cl kc).arr.set d.set).rows = ((s.chip.cl kc).arr.set d.set).rows
      ∧ (t.chip.cl kc).arr.q = rest ∧ (t.chip.cl kc).arr.drains = (s.chip.cl kc).arr.drains ++ [{ cmd := d, cscv := cs, biasv := bs, rscv := rs }]
      ∧ t.chip.word (CLS_STREAM_CONFLICT (kc / 4) (kc % 4)) = (recAdd (s.chip.word (CLS_STREAM_CONFLICT (kc / 4) (kc % 4)))
          (if (s.chip.cl kc).arr.arrStreams.any (fun e => e.1 != .burnish && !neverConflict d.desc e.2) then confl else 0)).1
      ∧ OtherThanEvents [ASY_CTR_EV.key, (CLS_STREAM_CONFLICT (kc / 4) (kc % 4)).key] s t
      ∧ t = { s with chip := { s.chip with regs := t.chip.regs, clusters := t.chip.clusters, out := t.chip.out, irqs := t.chip.irqs } }))
  ∧ (∀ (kc : Fin 104) (confl : Nat) (k : Kern) (d : DrainCmd) (d3 r3 : Nat) (rest : List ACmd) (s : State), s.chip.pwr.on = true →
    s.chip.arrLive kc = some k → (s.chip.cl kc).arr.q = .drain d :: rest → d.vec = some (d3, r3) →
    dRowsOk d3 r3 (vecRows (dRowBytes d3) d.rows d.ncol d.rsc d.csc d.bias) false = false →
      exec (.drainStart ⟨kc, confl⟩) s = .next { s with chip := s.chip.arrFault kc k d.bundle })
  ∧ (∀ (kc : Fin 104) (k : Kern) (d : Drain) (rest : List Drain) (x : Tag) (c1 c2 : Chip) (a1 : Arr) (tl : Tally) (nans : Nat) (s : State),
    s.chip.pwr.on = true → s.chip.arrLive kc = some k → d.cmd.set < 2 → (s.chip.cl kc).arr.drains = d :: rest →
    (s.chip.cl kc).arr.flights.all (fun f => f.set != d.cmd.set) = true → ((s.chip.cl kc).arr.set d.cmd.set).stop = false →
    s.chip.tagAt kc k.basin (tagOff k d.cmd.tag) d.cmd.tag = some x → s.chip.drainOk kc k.basin x d.cmd = true →
    (s.chip.on (BSN_NAN_TRAP_CTL.ENABLE k.basin) = false ∨ s.chip.on (BSN_NAN_TRAP_CTL.ACTION k.basin) = true) →
    a1 = ({ (s.chip.cl kc).arr with
        drains := rest, done := if d.cmd.set = 0 then { (s.chip.cl kc).arr.done with drains0 := (s.chip.cl kc).arr.done.drains0 + 1 }
          else { (s.chip.cl kc).arr.done with drains1 := (s.chip.cl kc).arr.done.drains1 + 1 } } : Arr).setSet d.cmd.set {} →
    c1 = s.chip.setCl kc { s.chip.cl kc with arr := a1 } →
    c1.burnAll kc k.basin k.side x (c1.tagScale k x) d ((s.chip.cl kc).arr.set d.cmd.set) = (c2, tl, nans) →
      Gives (.drainComplete kc) s (fun t =>
      (t.chip.cl kc).arr.drains = rest ∧ (t.chip.cl kc).arr.set d.cmd.set = {}
      ∧ t.chip.mem = (c2.foldTag kc k.basin (tagOff k d.cmd.tag) { tl with clamps := tl.clamps +
          (if ((s.chip.cl kc).arr.set d.cmd.set).isInt then ((s.chip.cl kc).arr.set d.cmd.set).rows.foldl (fun n r => n + (r.filter (·.held)).length) 0 else 0) }
          (k.side || d.cmd.raw) k.stamp).mem ∧ QueueAndSec s t))
  ∧ (∀ (kc : Fin 104) (k : Kern) (d : Drain) (rest : List Drain) (x : Tag) (a : Int) (row : List Acc) (s : State), s.chip.pwr.on = true →
    s.chip.arrLive kc = some k → d.cmd.set < 2 → (s.chip.cl kc).arr.drains = d :: rest →
    (s.chip.cl kc).arr.flights.all (fun f => f.set != d.cmd.set) = true → ((s.chip.cl kc).arr.set d.cmd.set).stop = false →
    s.chip.tagAt kc k.basin (tagOff k d.cmd.tag) d.cmd.tag = some x → s.chip.drainOk kc k.basin x d.cmd = true → d.cmd.raw = true →
    ((s.chip.cl kc).arr.set d.cmd.set).isInt = true → ((s.chip.cl kc).arr.set d.cmd.set).rows = [row] → row.all (fun e => !e.held) = true →
    dRow d.cmd.desc d.cmd.row = (a, false) → (s.chip.cl kc).tags = [] → Gives (.drainComplete kc) s (fun t =>
      (t.chip.cl kc).arr.drains = rest ∧ (t.chip.cl kc).arr.set d.cmd.set = {}
      ∧ t.chip.mem.reads (cisKey kc a.toNat) (4 * row.length) = codeBytes 4 (row.map (fun e => e.v % 2 ^ 32))
      ∧ OtherBytes (cisKey kc a.toNat) (4 * row.length) s t ∧ QueueAndSec s t))
  ∧ (∀ (kc : Fin 104) (k : Kern) (d : Drain) (rest : List Drain) (s : State), s.chip.pwr.on = true →
    s.chip.arrLive kc = some k → (s.chip.cl kc).arr.drains = d :: rest →
    (s.chip.cl kc).arr.flights.all (fun f => f.set != d.cmd.set) = true → ((s.chip.cl kc).arr.set d.cmd.set).stop = false →
    (s.chip.tagAt kc k.basin (tagOff k d.cmd.tag) d.cmd.tag = none →
      exec (.drainComplete kc) s = .next { s with chip := s.chip.kernelFaultAt kc k.mown 7 (d.cmd.bundle % 2 ^ 25) })
    ∧ (∀ x, s.chip.tagAt kc k.basin (tagOff k d.cmd.tag) d.cmd.tag = some x → s.chip.drainOk kc k.basin x d.cmd = false →
      exec (.drainComplete kc) s = .next { s with chip := s.chip.arrFault kc k d.cmd.bundle }))

/-- Faulty array lines and cistern rows are replaced by spares, and cistern errors are counted. A line that a test isolates, on a cluster of no basin, or that is mapped ahead at a kernel boundary with the array idle: a line 0 to 255 takes the first spare that is neither in use nor unusable; a spare in use becomes unusable and the line it stood for takes the next free spare; a spare not in use becomes unusable; GEN advances and STATE is 0. In a basin the test's mapping is followed by a resume. A test that isolates no line, or finds no free spare, loses the die. A planned mapping that finds none leaves a normal line as it was. A visit of a good word changes nothing; of a word with one wrong bit counts it; of a word with two records it, freezes the basin and starts the test of the word's bank, and touches no register but CLS_CISTERN_STS where no kernel runs on the cluster. The bank test's end ends the test. With nothing found in a cluster whose die is in no basin it touches nothing else; with a faulty row in a bank that has spare rows left it maps one and shows the bank and the row; in a bank with none left, a die in no basin becomes Failed. -/
def Obligations.LinesAndRowsAreSpared : Prop :=
  ((∀ (kc : Fin 104) (col : Bool) (line j : Nat) (i : Instr) (s : State), s.chip.pwr.on = true → line < 256 → j < 4 →
    ((i = .plannedLineMapping kc col line ∧ s.chip.kernOf kc = none ∧ s.chip.get (CLS_ARRAY_STS.STATE (kc / 4) (kc % 4)) = 0)
      ∨ (i = .arrayLineTestDone kc (some (col, line)) ∧ 2 ≤ s.chip.get (CLS_ARRAY_STS.STATE (kc / 4) (kc % 4)) ∧ 6 ≤ s.chip.clBasin kc)) →
    (List.range 4).find? (fun n => !bit (s.chip.word (spareReg col (kc / 4) (kc % 4))) (32 + n) &&
      !bit (s.chip.word (spareReg col (kc / 4) (kc % 4))) (36 + n)) = some j → Gives i s (fun t =>
      t.chip.word (spareReg col (kc / 4) (kc % 4)) = setBits (setBits (setBits (s.chip.word (spareReg col (kc / 4) (kc % 4))) (8 * j) 8 line) (32 + j) 1 1)
        48 16 (bits (s.chip.word (spareReg col (kc / 4) (kc % 4))) 48 16 + 1)
      ∧ t.chip.get (CLS_ARRAY_STS.STATE (kc / 4) (kc % 4)) = 0 ∧ OnlyRegs s t
      ∧ OtherRegs [(CLS_ARRAY_STS (kc / 4) (kc % 4)).key, (spareReg col (kc / 4) (kc % 4)).key] s t))
  ∧ (∀ (kc : Fin 104) (col : Bool) (n j : Nat) (i : Instr) (s : State), s.chip.pwr.on = true → n < 4 → j < 4 →
    ((i = .plannedLineMapping kc col (256 + n) ∧ s.chip.kernOf kc = none ∧ s.chip.get (CLS_ARRAY_STS.STATE (kc / 4) (kc % 4)) = 0)
      ∨ (i = .arrayLineTestDone kc (some (col, 256 + n)) ∧ 2 ≤ s.chip.get (CLS_ARRAY_STS.STATE (kc / 4) (kc % 4)) ∧ 6 ≤ s.chip.clBasin kc)) →
    bit (s.chip.word (spareReg col (kc / 4) (kc % 4))) (32 + n) = true →
    (List.range 4).find? (fun m => m != n && !bit (s.chip.word (spareReg col (kc / 4) (kc % 4))) (32 + m) &&
      !bit (s.chip.word (spareReg col (kc / 4) (kc % 4))) (36 + m)) = some j → Gives i s (fun t =>
      t.chip.word (spareReg col (kc / 4) (kc % 4)) = setBits (setBits (setBits (setBits (setBits (s.chip.word (spareReg col (kc / 4) (kc % 4))) (36 + n) 1 1)
        (32 + n) 1 0) (8 * j) 8 (bits (s.chip.word (spareReg col (kc / 4) (kc % 4))) (8 * n) 8)) (32 + j) 1 1)
        48 16 (bits (s.chip.word (spareReg col (kc / 4) (kc % 4))) 48 16 + 1)
      ∧ t.chip.get (CLS_ARRAY_STS.STATE (kc / 4) (kc % 4)) = 0 ∧ OnlyRegs s t
      ∧ OtherRegs [(CLS_ARRAY_STS (kc / 4) (kc % 4)).key, (spareReg col (kc / 4) (kc % 4)).key] s t))
  ∧ (∀ (kc : Fin 104) (col : Bool) (n : Nat) (i : Instr) (s : State), s.chip.pwr.on = true → n < 4 →
    ((i = .plannedLineMapping kc col (256 + n) ∧ s.chip.kernOf kc = none ∧ s.chip.get (CLS_ARRAY_STS.STATE (kc / 4) (kc % 4)) = 0)
      ∨ (i = .arrayLineTestDone kc (some (col, 256 + n)) ∧ 2 ≤ s.chip.get (CLS_ARRAY_STS.STATE (kc / 4) (kc % 4)) ∧ 6 ≤ s.chip.clBasin kc)) →
    bit (s.chip.word (spareReg col (kc / 4) (kc % 4))) (32 + n) = false → Gives i s (fun t =>
      t.chip.word (spareReg col (kc / 4) (kc % 4)) = setBits (setBits (s.chip.word (spareReg col (kc / 4) (kc % 4))) (36 + n) 1 1)
        48 16 (bits (s.chip.word (spareReg col (kc / 4) (kc % 4))) 48 16 + 1)
      ∧ t.chip.get (CLS_ARRAY_STS.STATE (kc / 4) (kc % 4)) = 0 ∧ OnlyRegs s t
      ∧ OtherRegs [(CLS_ARRAY_STS (kc / 4) (kc % 4)).key, (spareReg col (kc / 4) (kc % 4)).key] s t))
  ∧ (∀ (kc : Fin 104) (col : Bool) (line : Nat) (c : Chip) (s : State), s.chip.pwr.on = true → 2 ≤ s.chip.get (CLS_ARRAY_STS.STATE (kc / 4) (kc % 4)) →
    (s.chip.put (CLS_ARRAY_STS.STATE (kc / 4) (kc % 4)) 0).mapLine kc col line = (c, true) → s.chip.clBasin kc < 6 →
      exec (.arrayLineTestDone kc (some (col, line))) s = .next { s with chip := c.resume (s.chip.clBasin kc) })
  ∧ (∀ (kc : Fin 104) (found : Option (Bool × Nat)) (c : Chip) (s : State), s.chip.pwr.on = true →
    2 ≤ s.chip.get (CLS_ARRAY_STS.STATE (kc / 4) (kc % 4)) →
    ((found = none ∧ c = s.chip.put (CLS_ARRAY_STS.STATE (kc / 4) (kc % 4)) 0)
      ∨ (∃ col line, found = some (col, line) ∧ (s.chip.put (CLS_ARRAY_STS.STATE (kc / 4) (kc % 4)) 0).mapLine kc col line = (c, false))) →
      exec (.arrayLineTestDone kc found) s = .next { s with chip := c.dieLost (kc / 4) })
  ∧ (∀ (kc : Fin 104) (col : Bool) (line : Nat) (s : State), s.chip.pwr.on = true → line < 256 → s.chip.kernOf kc = none →
    (∀ n < 4, bit (s.chip.word (spareReg col (kc / 4) (kc % 4))) (32 + n) = true ∨ bit (s.chip.word (spareReg col (kc / 4) (kc % 4))) (36 + n) = true) →
      exec (.plannedLineMapping kc col line) s = .next s))
  ∧ ((∀ (kc : Fin 104) (off : Nat) (s : State), exec (.cisternScrub kc off 0) s = .next s)
  ∧ (∀ (kc : Fin 104) (off : Nat) (s : State), s.chip.pwr.on = true → s.chip.word (CLS_CISTERN_CE (kc / 4) (kc % 4)) < 2 ^ 48 - 1 →
    Gives (.cisternScrub kc off 1) s (fun t =>
      t.chip.word (CLS_CISTERN_CE (kc / 4) (kc % 4)) = s.chip.word (CLS_CISTERN_CE (kc / 4) (kc % 4)) + 1 ∧ OnlyRegs s t
      ∧ OtherRegs [(CLS_CISTERN_CE (kc / 4) (kc % 4)).key] s t))
  ∧ (∀ (kc : Fin 104) (off : Nat) (s : State), s.chip.pwr.on = true → s.chip.clBasin kc < 6 →
    (∀ x, s.chip.kernOf kc = some x → ∀ j ∈ x.clusters, j < 104) → Gives (.cisternScrub kc off 2) s (fun t =>
      (t.chip.cl kc).testing = some (cisBank off) ∧ (t.chip.bs (s.chip.clBasin kc)).frozen = true
      ∧ t.chip.get (CLS_CISTERN_STS.UE (kc / 4) (kc % 4)) = 1 ∧ t.chip.mem = s.chip.mem ∧ QueueAndSec s t
      ∧ (s.chip.kernOf kc = none → OtherRegs [(CLS_CISTERN_STS (kc / 4) (kc % 4)).key] s t)))
  ∧ (∀ (kc : Fin 104) (bank : Fin 64) (s : State), s.chip.pwr.on = true → (s.chip.cl kc).testing = some (bank : Nat) →
    Gives (.cisternBankTestDone kc bank none) s (fun t => (t.chip.cl kc).testing = none ∧ QueueAndSec s t)
    ∧ (s.chip.clBasin kc = 7 →
      exec (.cisternBankTestDone kc bank none) s = .next { s with chip := s.chip.setCl kc { s.chip.cl kc with testing := none } }))
  ∧ (∀ (kc : Fin 104) (bank : Fin 64) (r : Nat) (s : State), s.chip.pwr.on = true → s.chip.clBasin kc = 7 →
    (s.chip.cl kc).testing = some (bank : Nat) → r < 6144 →
    (((Map.get [] s.chip.rowMaps kc).filter (fun e => e.1 == (bank : Nat))).length < 4 → Gives (.cisternBankTestDone kc bank (some r)) s (fun t =>
      Map.get [] t.chip.rowMaps kc = ((bank : Nat), r) :: Map.get [] s.chip.rowMaps kc ∧ (t.chip.cl kc).testing = none
      ∧ t.chip.get (CLS_CISTERN_STS.LAST_BANK (kc / 4) (kc % 4)) = bank ∧ t.chip.get (CLS_CISTERN_STS.LAST_ROW (kc / 4) (kc % 4)) = r
      ∧ OtherRegs [(CLS_CISTERN_STS (kc / 4) (kc % 4)).key] s t ∧ QueueAndSec s t))
    ∧ (4 ≤ ((Map.get [] s.chip.rowMaps kc).filter (fun e => e.1 == (bank : Nat))).length → s.chip.get (HUB_FORGE_STATUS.STATE (kc / 4)) = 1 →
      Gives (.cisternBankTestDone kc bank (some r)) s (fun t => t.chip.get (HUB_FORGE_STATUS.STATE (kc / 4)) = 4 ∧ QueueAndSec s t))))

/-- Temper commands start, wait, are refused or skipped, post chunks, complete, and move from a failed unit. A unit that has not failed and runs no command takes up first one that it resumes; else the head of the first FIFO, in turn, among its own and those it covers. Accepted, its step committed and its row indices distinct, it runs; its step open, it waits and shows WAITING; of a side-class kernel, or with a descriptor that is not accepted, it ends with status 2, skipped with 1, with a repeated index with 4. A chunk that meets neither fault, poison nor NaN is posted; one that meets a fault or poison ends the command with status 4; under SGD with no working copy every master is the program's result and every other byte stays. A command whose chunks are all posted ends with status 0, NFG_SEEN set if gradients were not finite, and its record in memory. A unit that fails hands its FIFO and commands to the next, if there is one. -/
def Obligations.TemperCommandsRun : Prop :=
  (∀ (n : Fin 26) (r : TRun) (rest : List TRun) (s : State), s.chip.pwr.on = true → s.chip.get (FGE_TEMPER_STS.STATE n) ≠ 2 → (s.chip.tu n).run = none →
    s.chip.dieBasin n < 6 → (s.chip.bs (s.chip.dieBasin n)).quenched = false → (s.chip.tu n).resume = r :: rest → Gives (.temperCmdStart n) s (fun t =>
      (t.chip.tu n).run = some r ∧ (t.chip.tu n).resume = rest ∧ (t.chip.tu n).q = (s.chip.tu n).q ∧ OtherRegs [(FGE_TEMPER_STS n).key] s t
      ∧ t = { s with chip := { s.chip with regs := t.chip.regs, temper := t.chip.temper } }))
  ∧ (∀ (n : Fin 26) (o : Nat) (e : ECmd) (rest : List ECmd) (pl : Place) (ws : List (Tag × Tally)) (t0 : Nat) (ex : Int) (idx : List Nat) (s : State),
    s.chip.pwr.on = true → s.chip.get (FGE_TEMPER_STS.STATE n) ≠ 2 → (s.chip.tu n).run = none → (s.chip.tu n).resume = [] →
    s.chip.dieBasin n < 6 → (s.chip.bs (s.chip.dieBasin n)).quenched = false →
    ((s.chip.tu n).order n).find? (fun m => !(s.chip.tu m).q.isEmpty) = some o → o < 26 → (s.chip.tu o).q = e :: rest → e.side = false →
    s.chip.reach (s.chip.dieBasin n) e.desc 64 true = some pl → s.chip.workTags (s.chip.dieBasin n) e (s.chip.rdn pl 64) = some ws →
    s.chip.temperOk n (s.chip.dieBasin n) (s.chip.rdn pl 64) ws = true → s.chip.stepRes (s.chip.dieBasin n) e = .run t0 ex →
    idx = (if tdForm (s.chip.rdn pl 64) then (List.range (tdCount (s.chip.rdn pl 64))).map (fun i =>
      ((s.chip.reach (s.chip.dieBasin n) (bits (s.chip.rdn pl 64) 448 48 + 8 * i) 8 true).map (fun p => s.chip.rdn p 8)).getD 0) else []) →
    idx.Nodup → Gives (.temperCmdStart n) s (fun t =>
      (∃ r, (t.chip.tu n).run = some r ∧ r.cmd = e ∧ r.own = o ∧ r.d = s.chip.rdn pl 64 ∧ r.e = ex ∧ r.idx = idx ∧ r.chunk = e.skipTo ∧ r.works = ws)
      ∧ (t.chip.tu o).q = rest ∧ OtherRegs [(FGE_TEMPER_STS n).key, (FGE_TEMPER_STS o).key] s t
      ∧ t = { s with chip := { s.chip with regs := t.chip.regs, temper := t.chip.temper } }))
  ∧ (∀ (n : Fin 26) (o : Nat) (e : ECmd) (rest : List ECmd) (pl : Place) (ws : List (Tag × Tally)) (s : State),
    s.chip.pwr.on = true → s.chip.get (FGE_TEMPER_STS.STATE n) ≠ 2 → (s.chip.tu n).run = none → (s.chip.tu n).resume = [] →
    s.chip.dieBasin n < 6 → (s.chip.bs (s.chip.dieBasin n)).quenched = false →
    ((s.chip.tu n).order n).find? (fun m => !(s.chip.tu m).q.isEmpty) = some o → o < 26 → (s.chip.tu o).q = e :: rest → e.side = false →
    s.chip.reach (s.chip.dieBasin n) e.desc 64 true = some pl → s.chip.workTags (s.chip.dieBasin n) e (s.chip.rdn pl 64) = some ws →
    s.chip.temperOk n (s.chip.dieBasin n) (s.chip.rdn pl 64) ws = true → s.chip.stepRes (s.chip.dieBasin n) e = .wait →
      Gives (.temperCmdStart n) s (fun t => t.chip.get (FGE_TEMPER_STS.WAITING o) = 1 ∧ OnlyRegs s t ∧ OtherRegs [(FGE_TEMPER_STS o).key] s t))
  ∧ (∀ (n : Fin 26) (o st : Nat) (e : ECmd) (rest : List ECmd) (s : State),
    s.chip.pwr.on = true → s.chip.get (FGE_TEMPER_STS.STATE n) ≠ 2 → (s.chip.tu n).run = none → (s.chip.tu n).resume = [] →
    s.chip.dieBasin n < 6 → (s.chip.bs (s.chip.dieBasin n)).quenched = false →
    ((s.chip.tu n).order n).find? (fun m => !(s.chip.tu m).q.isEmpty) = some o → o < 26 → (s.chip.tu o).q = e :: rest →
    ((st = 2 ∧ (e.side = true ∨ s.chip.reach (s.chip.dieBasin n) e.desc 64 true = none))
      ∨ (e.side = false ∧ ∃ pl, s.chip.reach (s.chip.dieBasin n) e.desc 64 true = some pl ∧
        ((st = 2 ∧ s.chip.workTags (s.chip.dieBasin n) e (s.chip.rdn pl 64) = none)
          ∨ ∃ ws, s.chip.workTags (s.chip.dieBasin n) e (s.chip.rdn pl 64) = some ws ∧
            ((st = 2 ∧ s.chip.temperOk n (s.chip.dieBasin n) (s.chip.rdn pl 64) ws = false)
              ∨ (s.chip.temperOk n (s.chip.dieBasin n) (s.chip.rdn pl 64) ws = true ∧
                ((st = 2 ∧ s.chip.stepRes (s.chip.dieBasin n) e = .refused) ∨ (st = 1 ∧ s.chip.stepRes (s.chip.dieBasin n) e = .skipped)
                  ∨ (st = 4 ∧ (∃ t0 ex, s.chip.stepRes (s.chip.dieBasin n) e = .run t0 ex) ∧ tdForm (s.chip.rdn pl 64) = true
                    ∧ ¬ ((List.range (tdCount (s.chip.rdn pl 64))).map (fun i => ((s.chip.reach (s.chip.dieBasin n)
                      (bits (s.chip.rdn pl 64) 448 48 + 8 * i) 8 true).map (fun p => s.chip.rdn p 8)).getD 0)).Nodup))))))) →
      Gives (.temperCmdStart n) s (fun t => t.chip.get (FGE_TEMPER_STS.LAST_STATUS n) = st ∧ (t.chip.tu n).run = none ∧ (t.chip.tu o).q = rest
        ∧ QueueAndSec s t))
  ∧ (∀ (n : Fin 26) (r r2 : TRun) (c : Chip) (s : State), s.chip.pwr.on = true → (s.chip.tu n).run = some r →
    s.chip.get (FGE_TEMPER_STS.STATE n) ≠ 2 → r.chunk < r.chunks → s.chip.dieBasin n < 6 →
    (r.pieces r.chunk).foldl (fun (x : Option (Chip × TRun)) p => x.bind (fun y => y.1.temperPiece (s.chip.dieBasin n) y.2 p.1 p.2.1 p.2.2))
      (some (s.chip, r)) = some (c, r2) → r2.works.all (fun w => w.2.trap.isNone) = true → Gives (.temperChunkPosted n) s (fun t =>
        (t.chip.tu n).run = some { r2 with chunk := r.chunk + 1 } ∧ t.chip.mem = c.mem ∧ OtherRegs [] s t ∧ QueueAndSec s t))
  ∧ (∀ (n : Fin 26) (r : TRun) (s : State), s.chip.pwr.on = true → (s.chip.tu n).run = some r →
    s.chip.get (FGE_TEMPER_STS.STATE n) ≠ 2 → r.chunk < r.chunks → s.chip.dieBasin n < 6 →
    (r.pieces r.chunk).foldl (fun (x : Option (Chip × TRun)) p => x.bind (fun y => y.1.temperPiece (s.chip.dieBasin n) y.2 p.1 p.2.1 p.2.2))
      (some (s.chip, r)) = none → Gives (.temperChunkPosted n) s (fun t =>
        (t.chip.tu n).run = none ∧ t.chip.get (FGE_TEMPER_STS.LAST_STATUS n) = 4 ∧ QueueAndSec s t))
  ∧ (∀ (n : Fin 26) (r : TRun) (pm pg : Place) (s : State), s.chip.pwr.on = true → (s.chip.tu n).run = some r →
    s.chip.get (FGE_TEMPER_STS.STATE n) ≠ 2 → r.chunk < r.chunks → s.chip.dieBasin n < 6 → tdForm r.d = false → tdProg r.d = 0 → r.works = [] →
    s.chip.arrPlace (s.chip.dieBasin n) (bits r.d 64 48 + 5 * (4096 * r.chunk)) (5 * min 4096 (tdCount r.d - 4096 * r.chunk)) false true = some pm →
    s.chip.arrPlace (s.chip.dieBasin n) (bits r.d 128 48 + (tdGrad r.d).bytes * (4096 * r.chunk))
      ((tdGrad r.d).bytes * min 4096 (tdCount r.d - 4096 * r.chunk)) false false = some pg →
    (∀ c off, pm = .cis c off → (s.chip.cl c).tags = []) → Gives (.temperChunkPosted n) s (fun t =>
      t.chip.mem.reads pm.key (5 * min 4096 (tdCount r.d - 4096 * r.chunk)) =
        codeBytes 5 (List.zipWith (fun w g => (r.elem (s.chip.get (FGE_TEMPER_STS.UCODE_VER n)) w g 0 0).1)
          (s.chip.codes pm 5 (min 4096 (tdCount r.d - 4096 * r.chunk))) (s.chip.codes pg (tdGrad r.d).bytes (min 4096 (tdCount r.d - 4096 * r.chunk))))
      ∧ OtherBytes pm.key (5 * min 4096 (tdCount r.d - 4096 * r.chunk)) s t
      ∧ (∃ r2, (t.chip.tu n).run = some r2 ∧ r2.chunk = r.chunk + 1 ∧ r2.done = r.done + min 4096 (tdCount r.d - 4096 * r.chunk) ∧ r2.cmd = r.cmd)
      ∧ OtherRegs [] s t ∧ QueueAndSec s t))
  ∧ (∀ (n : Fin 26) (r : TRun) (s : State), s.chip.pwr.on = true → (s.chip.tu n).run = some r →
    s.chip.get (FGE_TEMPER_STS.STATE n) ≠ 2 → r.chunks ≤ r.chunk → Gives (.temperCmdComplete n) s (fun t =>
      (t.chip.tu n).run = none ∧ t.chip.get (FGE_TEMPER_STS.LAST_STATUS n) = 0
      ∧ t.chip.get (FGE_TEMPER_STS.NFG_SEEN n) = (if 0 < r.nfg then 1 else s.chip.get (FGE_TEMPER_STS.NFG_SEEN n)) ∧ QueueAndSec s t))
  ∧ (∀ (n : Fin 26) (r : TRun) (kc j : Nat) (p : Place) (s : State), s.chip.pwr.on = true → (s.chip.tu n).run = some r →
    s.chip.get (FGE_TEMPER_STS.STATE n) ≠ 2 → r.chunks ≤ r.chunk → r.works = [] → r.cmd.src = .seq kc j → r.cmd.sig = none →
    s.chip.reach (s.chip.dieBasin n) r.cmd.comp 16 true = some p → inLatches p 16 = false → s.chip.partPoisonAt p 16 = false →
    (∀ c off, p = .cis c off → (s.chip.cl c).tags = []) → Gives (.temperCmdComplete n) s (fun t =>
      t.chip.mem.reads p.key 16 = leBytes 16 (2 ^ 8 * (r.done % 2 ^ 40)) ∧ OtherBytes p.key 16 s t
      ∧ OtherRegs [(FGE_TEMPER_STS n).key] s t ∧ QueueAndSec s t))
  ∧ (∀ (n : Fin 26) (m : Nat) (s : State), s.chip.pwr.on = true → s.chip.get (FGE_TEMPER_STS.STATE n) ≠ 2 → s.chip.dieBasin n < 6 →
    s.chip.nextTemper (s.chip.dieBasin n) (s.chip.dieSlot n) = some m → m ≠ n → Gives (.temperFault n) s (fun t =>
      t.chip.get (FGE_TEMPER_STS.STATE n) = 2 ∧ t.chip.get (FGE_TEMPER_STS.COVER_SLOT n) = 7 ∧ (t.chip.tu n).run = none
      ∧ t.chip.get (FGE_TEMPER_STS.STATE m) = 3
      ∧ t.chip.get (FGE_TEMPER_STS.COVER_SLOT m) = s.chip.dieSlot (((s.chip.tu m).covers ++ [(n : Nat)]).headD 0) % 8
      ∧ (t.chip.tu m).covers = (s.chip.tu m).covers ++ ((n : Nat) :: (s.chip.tu n).covers)
      ∧ (t.chip.tu m).resume = (s.chip.tu m).resume ++ ((s.chip.tu n).run.toList ++ (s.chip.tu n).resume)
      ∧ (t.chip.tu n).q = (s.chip.tu n).q
      ∧ OtherRegs [(FGE_TEMPER_STS n).key, (FGE_TEMPER_STS m).key] s t
      ∧ t = { s with chip := { s.chip with regs := t.chip.regs, temper := t.chip.temper } }))
  ∧ (∀ (n : Fin 26) (s : State), s.chip.pwr.on = true → s.chip.get (FGE_TEMPER_STS.STATE n) ≠ 2 → s.chip.dieBasin n < 6 →
    s.chip.nextTemper (s.chip.dieBasin n) (s.chip.dieSlot n) = none → Gives (.temperFault n) s (fun t =>
      t.chip.get (FGE_TEMPER_STS.STATE n) = 2 ∧ t.chip.get (FGE_TEMPER_STS.COVER_SLOT n) = 7 ∧ OnlyRegs s t
      ∧ OtherRegs [(FGE_TEMPER_STS n).key] s t))

/-- Ladle commands start, wait, are refused or skipped, lose rows, and complete. The head command of a FIFO, none of that kind running, in a basin that is not quenched: one that is accepted, its step committed where it updates, runs under the request limit of that moment, BUSY, and a gather leaves memory as it was; one that updates while its step is open waits and shows WAITING_U; one that is not accepted ends with status 2, and an update of a skipped step with 1. A remote row that does not return in time counts as failed and sets RFAIL_SEEN. A command whose rows are all known and acknowledged ends with status 0, or 3 where an index was bad or a row failed, its output written if it gathers; one that met a fault, or a bad or failed row under its stop bit, ends with 4. -/
def Obligations.LadleCommandsRun : Prop :=
  (∀ (n : Fin 26) (upd : Bool) (e : ECmd) (rest : List ECmd) (pl pt : Place) (ex : Int) (s : State), s.chip.pwr.on = true →
    (s.chip.lu n).run upd = none → (if upd then (s.chip.lu n).u else (s.chip.lu n).g) = e :: rest → s.chip.dieBasin n < 6 →
    (s.chip.bs (s.chip.dieBasin n)).quenched = false →
    s.chip.reach (s.chip.dieBasin n) e.desc 64 true = some pl → s.chip.reach (s.chip.dieBasin n) (bits (s.chip.rdn pl 64) 64 48) 64 true = some pt →
    ladleOk (s.chip.rdn pl 64) (s.chip.rdn pt 64) e.side = true →
    ((ldOp (s.chip.rdn pl 64) ≠ 2 ∧ ex = 0) ∨ (ldOp (s.chip.rdn pl 64) = 2 ∧ ∃ t0, s.chip.stepRes (s.chip.dieBasin n) e = .run t0 ex)) →
      Gives (.ladleCmdStart n upd) s (fun t =>
        (∃ r, (t.chip.lu n).run upd = some r ∧ r.cmd = e ∧ r.d = s.chip.rdn pl 64 ∧ r.tbl = s.chip.rdn pt 64 ∧ r.e = ex ∧ r.lim = s.chip.ladleMax n)
        ∧ (if upd then (t.chip.lu n).u else (t.chip.lu n).g) = rest ∧ (t.chip.lu n).run (!upd) = (s.chip.lu n).run (!upd)
        ∧ (if upd then (t.chip.lu n).g = (s.chip.lu n).g else (t.chip.lu n).u = (s.chip.lu n).u)
        ∧ t.chip.get (FGE_LADLE_STS.BUSY n) = 1
        ∧ t.chip.get (if upd then FGE_LADLE_STS.QDEPTH_U n else FGE_LADLE_STS.QDEPTH_G n) = rest.length % 64
        ∧ (ldOp (s.chip.rdn pl 64) = 0 → t.chip.mem = s.chip.mem) ∧ QueueAndSec s t))
  ∧ (∀ (n : Fin 26) (upd : Bool) (e : ECmd) (rest : List ECmd) (pl pt : Place) (s : State), s.chip.pwr.on = true →
    (s.chip.lu n).run upd = none → (if upd then (s.chip.lu n).u else (s.chip.lu n).g) = e :: rest → s.chip.dieBasin n < 6 →
    (s.chip.bs (s.chip.dieBasin n)).quenched = false →
    s.chip.reach (s.chip.dieBasin n) e.desc 64 true = some pl → s.chip.reach (s.chip.dieBasin n) (bits (s.chip.rdn pl 64) 64 48) 64 true = some pt →
    ladleOk (s.chip.rdn pl 64) (s.chip.rdn pt 64) e.side = true → ldOp (s.chip.rdn pl 64) = 2 → s.chip.stepRes (s.chip.dieBasin n) e = .wait →
      Gives (.ladleCmdStart n upd) s (fun t => t.chip.get (FGE_LADLE_STS.WAITING_U n) = 1 ∧ OnlyRegs s t ∧ OtherRegs [(FGE_LADLE_STS n).key] s t))
  ∧ (∀ (n : Fin 26) (upd : Bool) (st : Nat) (e : ECmd) (rest : List ECmd) (s : State), s.chip.pwr.on = true →
    (s.chip.lu n).run upd = none → (if upd then (s.chip.lu n).u else (s.chip.lu n).g) = e :: rest → s.chip.dieBasin n < 6 →
    (s.chip.bs (s.chip.dieBasin n)).quenched = false →
    ((st = 2 ∧ s.chip.reach (s.chip.dieBasin n) e.desc 64 true = none)
      ∨ ∃ pl, s.chip.reach (s.chip.dieBasin n) e.desc 64 true = some pl ∧
        ((st = 2 ∧ s.chip.reach (s.chip.dieBasin n) (bits (s.chip.rdn pl 64) 64 48) 64 true = none)
          ∨ ∃ pt, s.chip.reach (s.chip.dieBasin n) (bits (s.chip.rdn pl 64) 64 48) 64 true = some pt ∧
            ((st = 2 ∧ ladleOk (s.chip.rdn pl 64) (s.chip.rdn pt 64) e.side = false)
              ∨ (ladleOk (s.chip.rdn pl 64) (s.chip.rdn pt 64) e.side = true ∧ ldOp (s.chip.rdn pl 64) = 2 ∧
                ((st = 2 ∧ s.chip.stepRes (s.chip.dieBasin n) e = .refused) ∨ (st = 1 ∧ s.chip.stepRes (s.chip.dieBasin n) e = .skipped)))))) →
      Gives (.ladleCmdStart n upd) s (fun t => t.chip.get (FGE_LADLE_STS.LAST_STATUS n) = st ∧ (t.chip.lu n).run upd = none
        ∧ (if upd then (t.chip.lu n).u else (t.chip.lu n).g) = rest ∧ QueueAndSec s t))
  ∧ (∀ (op : Nat) (o : Op) (n id x : Nat) (upd : Bool) (r : LRun) (s : State), s.chip.pwr.on = true → s.chip.ops.find? (fun y => y.id = op) = some o →
    o.kind = .get → o.src = .ladle n id x → n < 26 → s.chip.ladleOf n id = some (upd, r) → Gives (.ladleRowTimeout op) s (fun t =>
      t.chip.get (FGE_LADLE_STS.RFAIL_SEEN n) = 1
      ∧ (∃ r2, (t.chip.lu n).run upd = some r2 ∧ r2.cmd = r.cmd ∧ Map.find r2.rows x = some .failed)
      ∧ t.chip.mem = s.chip.mem ∧ QueueAndSec s t))
  ∧ (∀ (n : Fin 26) (upd : Bool) (r : LRun) (idx wts : List Nat) (c : Chip) (empty clamp : Nat) (s : State), s.chip.pwr.on = true →
    (s.chip.lu n).run upd = some r → r.fault = false → idx = (s.chip.ldIdx (s.chip.dieBasin n) r.d).getD [] →
    wts = (s.chip.ldWts (s.chip.dieBasin n) r.d).getD [] →
    (bit r.d 6 = true → idx.all (fun x => Map.find r.rows x != some .bad && Map.find r.rows x != some .failed) = true) →
    idx.all (fun x => match Map.find r.rows x with
      | none => false
      | some (.wait _) => false
      | _ => true) = true →
    s.chip.ops.all (fun o => match o.src with
      | .ladle m id _ => !(m == (n : Nat) && id == r.cmd.id)
      | _ => true) = true →
    (if ldOp r.d = 0 then s.chip.gatherOut (s.chip.dieBasin n) r idx wts else some (s.chip, 0, 0)) = some (c, empty, clamp) →
      Gives (.ladleCmdComplete n upd) s (fun t =>
        (t.chip.lu n).run upd = none ∧ (t.chip.lu n).run (!upd) = (s.chip.lu n).run (!upd)
        ∧ t.chip.get (FGE_LADLE_STS.LAST_STATUS n) =
          (if idx.any (fun x => Map.find r.rows x == some .bad || Map.find r.rows x == some .failed) then 3 else 0)
        ∧ (r.cmd.sig = none → (∃ kc j, r.cmd.src = .seq kc j) → s.chip.reach (s.chip.dieBasin n) r.cmd.comp 16 true = none → t.chip.mem = c.mem)
        ∧ QueueAndSec s t))
  ∧ (∀ (n : Fin 26) (upd : Bool) (r : LRun) (s : State), s.chip.pwr.on = true → (s.chip.lu n).run upd = some r →
    (r.fault = true ∨ (bit r.d 6 = true ∧ ((s.chip.ldIdx (s.chip.dieBasin n) r.d).getD []).any (fun x =>
      Map.find r.rows x == some .bad || Map.find r.rows x == some .failed) = true)) → Gives (.ladleCmdComplete n upd) s (fun t =>
        (t.chip.lu n).run upd = none ∧ (t.chip.lu n).run (!upd) = (s.chip.lu n).run (!upd) ∧ t.chip.get (FGE_LADLE_STS.LAST_STATUS n) = 4
        ∧ QueueAndSec s t))
end

