-- ==== Sys2Proof/Laws/Mem.lean ====
section
/-! SUPPORT. Memory: what a read gives after a write, and that every operation of memory keeps the canonical form. -/
namespace Sys2Proof.Machine

/-! ### The list of listed bytes -/

theorem cellFind_set_same (l : List Host.Cell) (a : Nat) (v : Byte) : cellFind (cellSet l a v) a = some v := by
  induction l with
  | nil => simp [cellSet, cellFind]
  | cons e t ih =>
    obtain ⟨k, w⟩ := e
    simp only [cellSet]
    split
    · simp [cellFind]
    · split
      · simp [cellFind]
      · rename_i h1 h2
        simp [cellFind, Ne.symm h2, ih]

theorem cellFind_set_ne (l : List Host.Cell) {a x : Nat} (v : Byte) (h : x ≠ a) : cellFind (cellSet l a v) x = cellFind l x := by
  induction l with
  | nil => simp [cellSet, cellFind, Ne.symm h]
  | cons e t ih =>
    obtain ⟨k, w⟩ := e
    simp only [cellSet]
    split
    · simp [cellFind, Ne.symm h]
    · split
      · rename_i h1 h2
        subst h2
        simp [cellFind, Ne.symm h]
      · simp [cellFind, ih]

theorem cellFind_erase_same (l : List Host.Cell) (a : Nat) : cellFind (cellErase l a) a = none := by
  induction l with
  | nil => rfl
  | cons e t ih =>
    obtain ⟨k, w⟩ := e
    simp only [cellErase]
    split
    · exact ih
    · rename_i h
      simp [cellFind, h, ih]

theorem cellFind_erase_ne (l : List Host.Cell) {a x : Nat} (h : x ≠ a) : cellFind (cellErase l a) x = cellFind l x := by
  induction l with
  | nil => rfl
  | cons e t ih =>
    obtain ⟨k, w⟩ := e
    simp only [cellErase]
    split
    · rename_i h1
      subst h1
      simp [cellFind, Ne.symm h, ih]
    · simp [cellFind, ih]

/-! ### Reads after writes -/

@[simp] theorem Mem.write1_holes (m : Mem) (a : Nat) (v : Byte) : (m.write1 a v).holes = m.holes := rfl

/-- A byte reads as it was written. -/
theorem Mem.read_write1_same (m : Mem) (a : Nat) (v : Byte) : (m.write1 a v).read a = v := by
  unfold Mem.read Mem.write1
  simp only
  split
  · rename_i h
    simp [cellFind_erase_same, h]
  · simp [cellFind_set_same]

/-- Writing one byte leaves every other. -/
theorem Mem.read_write1_ne (m : Mem) {a x : Nat} (v : Byte) (h : x ≠ a) : (m.write1 a v).read x = m.read x := by
  unfold Mem.read Mem.write1
  simp only
  split
  · rw [cellFind_erase_ne _ h]
  · rw [cellFind_set_ne _ _ h]

/-- A write leaves every byte outside it. -/
theorem Mem.read_write_ne (m : Mem) (bs : List Byte) {a x : Nat} (h : x < a ∨ a + bs.length ≤ x) : (m.write a bs).read x = m.read x := by
  induction bs generalizing m a with
  | nil => rfl
  | cons b t ih =>
    simp only [List.length_cons] at h
    rw [Mem.write, ih _ (by omega), Mem.read_write1_ne _ _ (by omega)]

/-- Every byte of a write reads as it was written. -/
theorem Mem.read_write_same (m : Mem) (bs : List Byte) (a i : Nat) (h : i < bs.length) : (m.write a bs).read (a + i) = bs[i] := by
  induction bs generalizing m a i with
  | nil => simp at h
  | cons b t ih =>
    cases i with
    | zero =>
      rw [Mem.write, Mem.read_write_ne _ _ (by omega)]
      exact Mem.read_write1_same m a b
    | succ n =>
      simp only [List.length_cons] at h
      have e : a + (n + 1) = a + 1 + n := by omega
      rw [Mem.write, e, ih _ _ _ (by omega)]
      rfl

@[simp] theorem Mem.reads_length (m : Mem) (a n : Nat) : (m.reads a n).length = n := by
  induction n generalizing a with
  | zero => rfl
  | succ n ih => simp [Mem.reads, ih]

/-- What was written reads back whole. -/
theorem Mem.reads_write_same (m : Mem) (bs : List Byte) (a : Nat) : (m.write a bs).reads a bs.length = bs := by
  suffices h : ∀ (k : Nat) (l : List Byte), l.length + k = bs.length → bs.drop k = l → (m.write a bs).reads (a + k) l.length = l by
    simpa using h 0 bs (by omega) (by simp)
  intro k l
  induction l generalizing k with
  | nil => intros; rfl
  | cons b t ih =>
    intro hl hd
    simp only [List.length_cons] at hl
    have hk : k < bs.length := by omega
    rw [List.drop_eq_getElem_cons hk] at hd
    have hb : bs[k] = b := (List.cons.inj hd).1
    have ht : bs.drop (k + 1) = t := (List.cons.inj hd).2
    simp only [List.length_cons, Mem.reads]
    rw [Mem.read_write_same m bs a k hk, hb, Nat.add_assoc, ih (k + 1) (by omega) ht]

/-- A read that meets no written byte gives what it gave. -/
theorem Mem.reads_write_ne (m : Mem) (bs : List Byte) {a x n : Nat} (h : x + n ≤ a ∨ a + bs.length ≤ x) :
    (m.write a bs).reads x n = m.reads x n := by
  induction n generalizing x with
  | zero => rfl
  | succ n ih =>
    rw [Mem.reads, Mem.reads, ih (by omega), Mem.read_write_ne _ _ (by omega)]

/-! ### The canonical form -/

/-- Sorted by key, as a property of the list. -/
theorem cellsSorted_iff (l : List Host.Cell) : cellsSorted l = true ↔ l.Pairwise (fun p q => p.1 < q.1) := by
  induction l with
  | nil => simp [cellsSorted]
  | cons e t ih =>
    cases t with
    | nil => simp [cellsSorted]
    | cons f u =>
      obtain ⟨a, v⟩ := e
      obtain ⟨b, w⟩ := f
      simp only [cellsSorted, Bool.and_eq_true, decide_eq_true_eq, ih]
      constructor
      · rintro ⟨hab, hp⟩
        refine List.pairwise_cons.2 ⟨fun q hq => ?_, hp⟩
        rcases List.mem_cons.1 hq with rfl | hq
        · exact hab
        · exact Nat.lt_trans hab ((List.pairwise_cons.1 hp).1 q hq)
      · intro hp
        exact ⟨(List.pairwise_cons.1 hp).1 (b, w) (by simp), (List.pairwise_cons.1 hp).2⟩

theorem mem_cellErase {l : List Host.Cell} {a : Nat} {c : Host.Cell} (h : c ∈ cellErase l a) : c ∈ l := by
  induction l with
  | nil => simp [cellErase] at h
  | cons e t ih =>
    obtain ⟨k, w⟩ := e
    simp only [cellErase] at h
    split at h
    · exact List.mem_cons_of_mem _ (ih h)
    · rcases List.mem_cons.1 h with rfl | h
      · simp
      · exact List.mem_cons_of_mem _ (ih h)

theorem mem_cellSet {l : List Host.Cell} {a : Nat} {v : Byte} {c : Host.Cell} (h : c ∈ cellSet l a v) : c = (a, v) ∨ c ∈ l := by
  induction l with
  | nil => simp [cellSet] at h; exact .inl h
  | cons e t ih =>
    obtain ⟨k, w⟩ := e
    simp only [cellSet] at h
    split at h
    · rcases List.mem_cons.1 h with rfl | h
      · exact .inl rfl
      · exact .inr h
    · split at h
      · rcases List.mem_cons.1 h with rfl | h
        · exact .inl rfl
        · exact .inr (List.mem_cons_of_mem _ h)
      · rcases List.mem_cons.1 h with rfl | h
        · exact .inr (by simp)
        · rcases ih h with h | h
          · exact .inl h
          · exact .inr (List.mem_cons_of_mem _ h)

theorem pairwise_cellErase {l : List Host.Cell} (a : Nat) (h : l.Pairwise (fun p q => p.1 < q.1)) :
    (cellErase l a).Pairwise (fun p q => p.1 < q.1) := by
  induction l with
  | nil => exact h
  | cons e t ih =>
    obtain ⟨k, w⟩ := e
    have hp := List.pairwise_cons.1 h
    simp only [cellErase]
    split
    · exact ih hp.2
    · exact List.pairwise_cons.2 ⟨fun q hq => hp.1 q (mem_cellErase hq), ih hp.2⟩

theorem pairwise_cellSet {l : List Host.Cell} (a : Nat) (v : Byte) (h : l.Pairwise (fun p q => p.1 < q.1)) :
    (cellSet l a v).Pairwise (fun p q => p.1 < q.1) := by
  induction l with
  | nil => simp [cellSet]
  | cons e t ih =>
    obtain ⟨k, w⟩ := e
    have hp := List.pairwise_cons.1 h
    simp only [cellSet]
    split
    · rename_i hak
      refine List.pairwise_cons.2 ⟨fun q hq => ?_, h⟩
      rcases List.mem_cons.1 hq with rfl | hq
      · exact hak
      · exact Nat.lt_trans hak (hp.1 q hq)
    · split
      · rename_i hak
        subst hak
        exact List.pairwise_cons.2 ⟨hp.1, hp.2⟩
      · rename_i h1 h2
        refine List.pairwise_cons.2 ⟨fun q hq => ?_, ih hp.2⟩
        rcases mem_cellSet hq with rfl | hq
        · show k < a
          omega
        · exact hp.1 q hq

/-- The canonical form as two properties. -/
theorem Mem.wf_iff (m : Mem) :
    m.wf = true ↔ m.cells.Pairwise (fun p q => p.1 < q.1) ∧ ∀ c ∈ m.cells, c.2 ≠ holeDefault m.holes c.1 := by
  simp [Mem.wf, cellsSorted_iff, List.all_eq_true]

/-- Writing a byte keeps the canonical form. -/
theorem Mem.write1_wf {m : Mem} (a : Nat) (v : Byte) (h : m.wf = true) : (m.write1 a v).wf = true := by
  rw [Mem.wf_iff] at h ⊢
  unfold Mem.write1
  simp only
  split
  · exact ⟨pairwise_cellErase a h.1, fun c hc => h.2 c (mem_cellErase hc)⟩
  · rename_i hv
    refine ⟨pairwise_cellSet a v h.1, fun c hc => ?_⟩
    rcases mem_cellSet hc with rfl | hc
    · exact hv
    · exact h.2 c hc

/-- Writing bytes keeps the canonical form. -/
theorem Mem.write_wf {m : Mem} (a : Nat) (bs : List Byte) (h : m.wf = true) : (m.write a bs).wf = true := by
  induction bs generalizing m a with
  | nil => exact h
  | cons b t ih => exact ih _ (Mem.write1_wf a b h)

/-- The loss of a range keeps the canonical form. -/
theorem Mem.lose_wf {m : Mem} (base len epoch : Nat) (h : m.wf = true) : (m.lose base len epoch).wf = true := by
  rw [Mem.wf_iff] at h ⊢
  refine ⟨h.1.filter _, fun c hc => ?_⟩
  have hm := List.mem_filter.1 hc
  have ho : c.1 < base ∨ base + len ≤ c.1 := by simpa using hm.2
  have hn : ¬ (base ≤ c.1 ∧ c.1 < base + len) := by omega
  simpa [Mem.lose, holeDefault, hn] using h.2 c hm.1

/-- A copy of a range has the canonical form. -/
theorem Mem.slice_wf {m : Mem} (base len : Nat) (h : m.wf = true) : (m.slice base len).wf = true := by
  rw [Mem.wf_iff] at h ⊢
  exact ⟨h.1.filter _, fun c hc => h.2 c (List.mem_filter.1 hc).1⟩

/-- Memory and the non-volatile store have the canonical form at reset. -/
theorem State.reset_mem_wf : State.reset.chip.mem.wf = true ∧ State.reset.sec.nor.wf = true := ⟨rfl, rfl⟩

end Sys2Proof.Machine
end

