-- ==== Sys2Proof/Laws/Regs.lean ====
section
/-! SUPPORT. Sparse maps and registers: what a read gives after a write, of the same place and of any other. -/
namespace Sys2Proof.Machine

theorem Map.find_set_same {V : Type} (m : Map V) (k : Nat) (v : V) : (m.set k v).find k = some v := by
  induction m with
  | nil => simp [Map.set, Map.find]
  | cons e t ih =>
    obtain ⟨a, w⟩ := e
    simp only [Map.set]
    split
    · simp [Map.find]
    · split
      · simp [Map.find]
      · rename_i h1 h2
        simp [Map.find, Ne.symm h2, ih]

theorem Map.find_set_ne {V : Type} (m : Map V) {k j : Nat} (v : V) (h : j ≠ k) : (m.set k v).find j = m.find j := by
  induction m with
  | nil => simp [Map.set, Map.find, Ne.symm h]
  | cons e t ih =>
    obtain ⟨a, w⟩ := e
    simp only [Map.set]
    split
    · simp [Map.find, Ne.symm h]
    · split
      · rename_i h1 h2
        subst h2
        simp [Map.find, Ne.symm h]
      · simp [Map.find, ih]

theorem Map.find_erase_same {V : Type} (m : Map V) (k : Nat) : (m.erase k).find k = none := by
  induction m with
  | nil => rfl
  | cons e t ih =>
    obtain ⟨a, w⟩ := e
    simp only [Map.erase]
    split
    · exact ih
    · rename_i h
      simp [Map.find, h, ih]

theorem Map.find_erase_ne {V : Type} (m : Map V) {k j : Nat} (h : j ≠ k) : (m.erase k).find j = m.find j := by
  induction m with
  | nil => rfl
  | cons e t ih =>
    obtain ⟨a, w⟩ := e
    simp only [Map.erase]
    split
    · rename_i h1
      subst h1
      simp [Map.find, Ne.symm h, ih]
    · simp [Map.find, ih]

/-- A sparse map reads what was put. -/
theorem Map.get_put_same {V : Type} [DecidableEq V] (d v : V) (m : Map V) (k : Nat) : (Map.put d m k v).get d k = v := by
  unfold Map.put Map.get
  split
  · rename_i h
    simp [Map.find_erase_same, h]
  · simp [Map.find_set_same]

/-- Putting at one key leaves every other key. -/
theorem Map.get_put_ne {V : Type} [DecidableEq V] (d e v : V) (m : Map V) {k j : Nat} (h : j ≠ k) :
    (Map.put d m k v).get e j = m.get e j := by
  unfold Map.put Map.get
  split
  · rw [Map.find_erase_ne m h]
  · rw [Map.find_set_ne m v h]

theorem Chip.word_setWord_same (c : Chip) (r : Reg) (v : Nat) : (c.setWord r v).word r = v % 2 ^ 64 := by
  simp [Chip.word, Chip.setWord, Map.get_put_same, BitVec.toNat_ofNat]

theorem Chip.word_setWord_ne (c : Chip) {r q : Reg} (v : Nat) (h : q.key ≠ r.key) : (c.setWord r v).word q = c.word q := by
  simp [Chip.word, Chip.setWord, Map.get_put_ne _ _ _ _ h]

theorem Chip.word_lt (c : Chip) (r : Reg) : c.word r < 2 ^ 64 := by
  unfold Chip.word
  exact BitVec.isLt _

/-! ### Fields of words -/

theorem bits_lt (w lo len : Nat) : bits w lo len < 2 ^ len := Nat.mod_lt _ (Nat.two_pow_pos len)

theorem testBit_bits (w lo len i : Nat) : (bits w lo len).testBit i = (decide (i < len) && w.testBit (lo + i)) := by
  simp [bits, Nat.testBit_mod_two_pow, Nat.testBit_shiftRight]

theorem testBit_setBits (w lo len v i : Nat) :
    (setBits w lo len v).testBit i =
      if i < lo then w.testBit i else if i < lo + len then v.testBit (i - lo) else w.testBit i := by
  have h1 : setBits w lo len v =
      2 ^ lo * (2 ^ len * (w >>> (lo + len)) + v % 2 ^ len) + w % 2 ^ lo := by
    unfold setBits
    rw [Nat.pow_add, Nat.mul_add]
    generalize w >>> (lo + len) = z
    have e1 : z * (2 ^ lo * 2 ^ len) = 2 ^ lo * (2 ^ len * z) := by
      rw [Nat.mul_comm z, Nat.mul_assoc]
    rw [e1, Nat.mul_comm (v % 2 ^ len)]
    omega
  rw [h1, Nat.testBit_two_pow_mul_add _ (Nat.mod_lt _ (Nat.two_pow_pos lo))]
  by_cases hi : i < lo
  · simp [hi, Nat.testBit_mod_two_pow]
  · rw [if_neg hi, if_neg hi, Nat.testBit_two_pow_mul_add _ (Nat.mod_lt _ (Nat.two_pow_pos len))]
    by_cases hj : i < lo + len
    · have hl : i - lo < len := by omega
      simp [hj, hl, Nat.testBit_mod_two_pow]
    · have hl : ¬ i - lo < len := by omega
      have e : lo + len + (i - lo - len) = i := by omega
      simp [hj, hl, Nat.testBit_shiftRight, e]

theorem setBits_lt {w lo len v : Nat} (hw : w < 2 ^ 64) (h : lo + len ≤ 64) : setBits w lo len v < 2 ^ 64 := by
  refine Nat.lt_pow_two_of_testBit _ (fun i hi => ?_)
  have h1 : ¬ i < lo := by omega
  have h2 : ¬ i < lo + len := by omega
  rw [testBit_setBits, if_neg h1, if_neg h2]
  exact Nat.testBit_lt_two_pow (Nat.lt_of_lt_of_le hw (Nat.pow_le_pow_right (by omega) hi))

theorem bits_setBits_same (w lo len v : Nat) : bits (setBits w lo len v) lo len = v % 2 ^ len := by
  refine Nat.eq_of_testBit_eq (fun i => ?_)
  rw [testBit_bits, testBit_setBits, Nat.testBit_mod_two_pow]
  by_cases h : i < len
  · have h1 : ¬ lo + i < lo := by omega
    have h2 : lo + i < lo + len := by omega
    have h3 : lo + i - lo = i := by omega
    simp [h]
  · simp [h]

theorem bits_setBits_disj {w lo len v l n : Nat} (h : l + n ≤ lo ∨ lo + len ≤ l) : bits (setBits w lo len v) l n = bits w l n := by
  refine Nat.eq_of_testBit_eq (fun i => ?_)
  rw [testBit_bits, testBit_bits, testBit_setBits]
  by_cases hi : i < n
  · rcases h with h | h
    · have : l + i < lo := by omega
      simp [this]
    · have h1 : ¬ l + i < lo := by omega
      have h2 : ¬ l + i < lo + len := by omega
      simp [h1, h2]
  · simp [hi]

/-! ### Fields of registers -/

theorem Chip.word_put_same (c : Chip) (f : RF) (v : Nat) (h : f.lo + f.len ≤ 64) :
    (c.put f v).word f.reg = setBits (c.word f.reg) f.lo f.len v := by
  unfold Chip.put
  rw [Chip.word_setWord_same, Nat.mod_eq_of_lt (setBits_lt (c.word_lt _) h)]

theorem Chip.word_put_ne (c : Chip) (f : RF) (v : Nat) {r : Reg} (h : r.key ≠ f.reg.key) : (c.put f v).word r = c.word r :=
  Chip.word_setWord_ne c _ h

/-- A field reads what was put. -/
theorem Chip.get_put_same (c : Chip) (f : RF) (v : Nat) (h : f.lo + f.len ≤ 64) : (c.put f v).get f = v % 2 ^ f.len := by
  unfold Chip.get
  rw [Chip.word_put_same c f v h, bits_setBits_same]

/-- Putting a field leaves the fields of every other register. -/
theorem Chip.get_put_ne (c : Chip) (f g : RF) (v : Nat) (h : g.reg.key ≠ f.reg.key) : (c.put f v).get g = c.get g := by
  unfold Chip.get
  rw [Chip.word_put_ne c f v h]

/-- Putting a field leaves the other fields of its register. -/
theorem Chip.get_put_disj (c : Chip) (f g : RF) (v : Nat) (hr : g.reg = f.reg) (h : f.lo + f.len ≤ 64)
    (hd : g.lo + g.len ≤ f.lo ∨ f.lo + f.len ≤ g.lo) : (c.put f v).get g = c.get g := by
  unfold Chip.get
  rw [hr, Chip.word_put_same c f v h, bits_setBits_disj hd]

theorem Chip.get_lt (c : Chip) (f : RF) : c.get f < 2 ^ f.len := bits_lt _ _ _

end Sys2Proof.Machine
end

