-- ==== Sys2Proof/Laws/State.lean ====
section
/-! SUPPORT. What each update of the part leaves alone, field by field, each true by unfolding, and what each unit's record reads
after its own update. -/
namespace Sys2Proof.Machine

/-! ### setWord -/

@[simp] theorem Chip.setWord_mem (c : Chip) (r : Reg) (v : Nat) : (c.setWord r v).mem = c.mem := rfl
@[simp] theorem Chip.setWord_poison (c : Chip) (r : Reg) (v : Nat) : (c.setWord r v).poison = c.poison := rfl
@[simp] theorem Chip.setWord_free (c : Chip) (r : Reg) (v : Nat) : (c.setWord r v).free = c.free := rfl
@[simp] theorem Chip.setWord_out (c : Chip) (r : Reg) (v : Nat) : (c.setWord r v).out = c.out := rfl
@[simp] theorem Chip.setWord_modes (c : Chip) (r : Reg) (v : Nat) : (c.setWord r v).modes = c.modes := rfl
@[simp] theorem Chip.setWord_clusters (c : Chip) (r : Reg) (v : Nat) : (c.setWord r v).clusters = c.clusters := rfl
@[simp] theorem Chip.setWord_kerns (c : Chip) (r : Reg) (v : Nat) : (c.setWord r v).kerns = c.kerns := rfl
@[simp] theorem Chip.setWord_basins (c : Chip) (r : Reg) (v : Nat) : (c.setWord r v).basins = c.basins := rfl
@[simp] theorem Chip.setWord_dies (c : Chip) (r : Reg) (v : Nat) : (c.setWord r v).dies = c.dies := rfl
@[simp] theorem Chip.setWord_temper (c : Chip) (r : Reg) (v : Nat) : (c.setWord r v).temper = c.temper := rfl
@[simp] theorem Chip.setWord_ladle (c : Chip) (r : Reg) (v : Nat) : (c.setWord r v).ladle = c.ladle := rfl
@[simp] theorem Chip.setWord_ops (c : Chip) (r : Reg) (v : Nat) : (c.setWord r v).ops = c.ops := rfl
@[simp] theorem Chip.setWord_unacked (c : Chip) (r : Reg) (v : Nat) : (c.setWord r v).unacked = c.unacked := rfl
@[simp] theorem Chip.setWord_nextId (c : Chip) (r : Reg) (v : Nat) : (c.setWord r v).nextId = c.nextId := rfl
@[simp] theorem Chip.setWord_losses (c : Chip) (r : Reg) (v : Nat) : (c.setWord r v).losses = c.losses := rfl
@[simp] theorem Chip.setWord_images (c : Chip) (r : Reg) (v : Nat) : (c.setWord r v).images = c.images := rfl
@[simp] theorem Chip.setWord_msixMask (c : Chip) (r : Reg) (v : Nat) : (c.setWord r v).msixMask = c.msixMask := rfl
@[simp] theorem Chip.setWord_routers (c : Chip) (r : Reg) (v : Nat) : (c.setWord r v).routers = c.routers := rfl
@[simp] theorem Chip.setWord_deadStacks (c : Chip) (r : Reg) (v : Nat) : (c.setWord r v).deadStacks = c.deadStacks := rfl
@[simp] theorem Chip.setWord_spareCmd (c : Chip) (r : Reg) (v : Nat) : (c.setWord r v).spareCmd = c.spareCmd := rfl
@[simp] theorem Chip.setWord_spareDead (c : Chip) (r : Reg) (v : Nat) : (c.setWord r v).spareDead = c.spareDead := rfl
@[simp] theorem Chip.setWord_held (c : Chip) (r : Reg) (v : Nat) : (c.setWord r v).held = c.held := rfl
@[simp] theorem Chip.setWord_parityBad (c : Chip) (r : Reg) (v : Nat) : (c.setWord r v).parityBad = c.parityBad := rfl
@[simp] theorem Chip.setWord_postponed (c : Chip) (r : Reg) (v : Nat) : (c.setWord r v).postponed = c.postponed := rfl
@[simp] theorem Chip.setWord_ports (c : Chip) (r : Reg) (v : Nat) : (c.setWord r v).ports = c.ports := rfl
@[simp] theorem Chip.setWord_heldGets (c : Chip) (r : Reg) (v : Nat) : (c.setWord r v).heldGets = c.heldGets := rfl
@[simp] theorem Chip.setWord_sluiceNext (c : Chip) (r : Reg) (v : Nat) : (c.setWord r v).sluiceNext = c.sluiceNext := rfl
@[simp] theorem Chip.setWord_calSeq (c : Chip) (r : Reg) (v : Nat) : (c.setWord r v).calSeq = c.calSeq := rfl
@[simp] theorem Chip.setWord_risk (c : Chip) (r : Reg) (v : Nat) : (c.setWord r v).risk = c.risk := rfl
@[simp] theorem Chip.setWord_lastTrip (c : Chip) (r : Reg) (v : Nat) : (c.setWord r v).lastTrip = c.lastTrip := rfl
@[simp] theorem Chip.setWord_pwr (c : Chip) (r : Reg) (v : Nat) : (c.setWord r v).pwr = c.pwr := rfl
@[simp] theorem Chip.setWord_pcie (c : Chip) (r : Reg) (v : Nat) : (c.setWord r v).pcie = c.pcie := rfl
@[simp] theorem Chip.setWord_hubDead (c : Chip) (r : Reg) (v : Nat) : (c.setWord r v).hubDead = c.hubDead := rfl
@[simp] theorem Chip.setWord_irqHold (c : Chip) (r : Reg) (v : Nat) : (c.setWord r v).irqHold = c.irqHold := rfl
@[simp] theorem Chip.setWord_irqs (c : Chip) (r : Reg) (v : Nat) : (c.setWord r v).irqs = c.irqs := rfl
@[simp] theorem Chip.setWord_copying (c : Chip) (r : Reg) (v : Nat) : (c.setWord r v).copying = c.copying := rfl
@[simp] theorem Chip.setWord_atc (c : Chip) (r : Reg) (v : Nat) : (c.setWord r v).atc = c.atc := rfl
@[simp] theorem Chip.setWord_gasps (c : Chip) (r : Reg) (v : Nat) : (c.setWord r v).gasps = c.gasps := rfl
@[simp] theorem Chip.setWord_dbgHalt (c : Chip) (r : Reg) (v : Nat) : (c.setWord r v).dbgHalt = c.dbgHalt := rfl
@[simp] theorem Chip.setWord_rowMaps (c : Chip) (r : Reg) (v : Nat) : (c.setWord r v).rowMaps = c.rowMaps := rfl
@[simp] theorem Chip.setWord_part (c : Chip) (r : Reg) (v : Nat) : (c.setWord r v).part = c.part := rfl
@[simp] theorem Chip.setWord_partRows (c : Chip) (r : Reg) (v : Nat) : (c.setWord r v).partRows = c.partRows := rfl
@[simp] theorem Chip.setWord_mesh (c : Chip) (r : Reg) (v : Nat) : (c.setWord r v).mesh = c.mesh := rfl
@[simp] theorem Chip.setWord_picks (c : Chip) (r : Reg) (v : Nat) : (c.setWord r v).picks = c.picks := rfl
@[simp] theorem Chip.setWord_vacated (c : Chip) (r : Reg) (v : Nat) : (c.setWord r v).vacated = c.vacated := rfl
@[simp] theorem Chip.setWord_heldReqs (c : Chip) (r : Reg) (v : Nat) : (c.setWord r v).heldReqs = c.heldReqs := rfl
@[simp] theorem Chip.setWord_ueSeenAt (c : Chip) (r : Reg) (v : Nat) : (c.setWord r v).ueSeenAt = c.ueSeenAt := rfl

/-! ### put -/

@[simp] theorem Chip.put_mem (c : Chip) (f : RF) (v : Nat) : (c.put f v).mem = c.mem := rfl
@[simp] theorem Chip.put_poison (c : Chip) (f : RF) (v : Nat) : (c.put f v).poison = c.poison := rfl
@[simp] theorem Chip.put_free (c : Chip) (f : RF) (v : Nat) : (c.put f v).free = c.free := rfl
@[simp] theorem Chip.put_out (c : Chip) (f : RF) (v : Nat) : (c.put f v).out = c.out := rfl
@[simp] theorem Chip.put_modes (c : Chip) (f : RF) (v : Nat) : (c.put f v).modes = c.modes := rfl
@[simp] theorem Chip.put_clusters (c : Chip) (f : RF) (v : Nat) : (c.put f v).clusters = c.clusters := rfl
@[simp] theorem Chip.put_kerns (c : Chip) (f : RF) (v : Nat) : (c.put f v).kerns = c.kerns := rfl
@[simp] theorem Chip.put_basins (c : Chip) (f : RF) (v : Nat) : (c.put f v).basins = c.basins := rfl
@[simp] theorem Chip.put_dies (c : Chip) (f : RF) (v : Nat) : (c.put f v).dies = c.dies := rfl
@[simp] theorem Chip.put_temper (c : Chip) (f : RF) (v : Nat) : (c.put f v).temper = c.temper := rfl
@[simp] theorem Chip.put_ladle (c : Chip) (f : RF) (v : Nat) : (c.put f v).ladle = c.ladle := rfl
@[simp] theorem Chip.put_ops (c : Chip) (f : RF) (v : Nat) : (c.put f v).ops = c.ops := rfl
@[simp] theorem Chip.put_unacked (c : Chip) (f : RF) (v : Nat) : (c.put f v).unacked = c.unacked := rfl
@[simp] theorem Chip.put_nextId (c : Chip) (f : RF) (v : Nat) : (c.put f v).nextId = c.nextId := rfl
@[simp] theorem Chip.put_losses (c : Chip) (f : RF) (v : Nat) : (c.put f v).losses = c.losses := rfl
@[simp] theorem Chip.put_images (c : Chip) (f : RF) (v : Nat) : (c.put f v).images = c.images := rfl
@[simp] theorem Chip.put_msixMask (c : Chip) (f : RF) (v : Nat) : (c.put f v).msixMask = c.msixMask := rfl
@[simp] theorem Chip.put_routers (c : Chip) (f : RF) (v : Nat) : (c.put f v).routers = c.routers := rfl
@[simp] theorem Chip.put_deadStacks (c : Chip) (f : RF) (v : Nat) : (c.put f v).deadStacks = c.deadStacks := rfl
@[simp] theorem Chip.put_spareCmd (c : Chip) (f : RF) (v : Nat) : (c.put f v).spareCmd = c.spareCmd := rfl
@[simp] theorem Chip.put_spareDead (c : Chip) (f : RF) (v : Nat) : (c.put f v).spareDead = c.spareDead := rfl
@[simp] theorem Chip.put_held (c : Chip) (f : RF) (v : Nat) : (c.put f v).held = c.held := rfl
@[simp] theorem Chip.put_parityBad (c : Chip) (f : RF) (v : Nat) : (c.put f v).parityBad = c.parityBad := rfl
@[simp] theorem Chip.put_postponed (c : Chip) (f : RF) (v : Nat) : (c.put f v).postponed = c.postponed := rfl
@[simp] theorem Chip.put_ports (c : Chip) (f : RF) (v : Nat) : (c.put f v).ports = c.ports := rfl
@[simp] theorem Chip.put_heldGets (c : Chip) (f : RF) (v : Nat) : (c.put f v).heldGets = c.heldGets := rfl
@[simp] theorem Chip.put_sluiceNext (c : Chip) (f : RF) (v : Nat) : (c.put f v).sluiceNext = c.sluiceNext := rfl
@[simp] theorem Chip.put_calSeq (c : Chip) (f : RF) (v : Nat) : (c.put f v).calSeq = c.calSeq := rfl
@[simp] theorem Chip.put_risk (c : Chip) (f : RF) (v : Nat) : (c.put f v).risk = c.risk := rfl
@[simp] theorem Chip.put_lastTrip (c : Chip) (f : RF) (v : Nat) : (c.put f v).lastTrip = c.lastTrip := rfl
@[simp] theorem Chip.put_pwr (c : Chip) (f : RF) (v : Nat) : (c.put f v).pwr = c.pwr := rfl
@[simp] theorem Chip.put_pcie (c : Chip) (f : RF) (v : Nat) : (c.put f v).pcie = c.pcie := rfl
@[simp] theorem Chip.put_hubDead (c : Chip) (f : RF) (v : Nat) : (c.put f v).hubDead = c.hubDead := rfl
@[simp] theorem Chip.put_irqHold (c : Chip) (f : RF) (v : Nat) : (c.put f v).irqHold = c.irqHold := rfl
@[simp] theorem Chip.put_irqs (c : Chip) (f : RF) (v : Nat) : (c.put f v).irqs = c.irqs := rfl
@[simp] theorem Chip.put_copying (c : Chip) (f : RF) (v : Nat) : (c.put f v).copying = c.copying := rfl
@[simp] theorem Chip.put_atc (c : Chip) (f : RF) (v : Nat) : (c.put f v).atc = c.atc := rfl
@[simp] theorem Chip.put_gasps (c : Chip) (f : RF) (v : Nat) : (c.put f v).gasps = c.gasps := rfl
@[simp] theorem Chip.put_dbgHalt (c : Chip) (f : RF) (v : Nat) : (c.put f v).dbgHalt = c.dbgHalt := rfl
@[simp] theorem Chip.put_rowMaps (c : Chip) (f : RF) (v : Nat) : (c.put f v).rowMaps = c.rowMaps := rfl
@[simp] theorem Chip.put_part (c : Chip) (f : RF) (v : Nat) : (c.put f v).part = c.part := rfl
@[simp] theorem Chip.put_partRows (c : Chip) (f : RF) (v : Nat) : (c.put f v).partRows = c.partRows := rfl
@[simp] theorem Chip.put_mesh (c : Chip) (f : RF) (v : Nat) : (c.put f v).mesh = c.mesh := rfl
@[simp] theorem Chip.put_picks (c : Chip) (f : RF) (v : Nat) : (c.put f v).picks = c.picks := rfl
@[simp] theorem Chip.put_vacated (c : Chip) (f : RF) (v : Nat) : (c.put f v).vacated = c.vacated := rfl
@[simp] theorem Chip.put_heldReqs (c : Chip) (f : RF) (v : Nat) : (c.put f v).heldReqs = c.heldReqs := rfl
@[simp] theorem Chip.put_ueSeenAt (c : Chip) (f : RF) (v : Nat) : (c.put f v).ueSeenAt = c.ueSeenAt := rfl

/-! ### emit -/

@[simp] theorem Chip.emit_regs (c : Chip) (o : Out) : (c.emit o).regs = c.regs := rfl
@[simp] theorem Chip.emit_mem (c : Chip) (o : Out) : (c.emit o).mem = c.mem := rfl
@[simp] theorem Chip.emit_poison (c : Chip) (o : Out) : (c.emit o).poison = c.poison := rfl
@[simp] theorem Chip.emit_free (c : Chip) (o : Out) : (c.emit o).free = c.free := rfl
@[simp] theorem Chip.emit_modes (c : Chip) (o : Out) : (c.emit o).modes = c.modes := rfl
@[simp] theorem Chip.emit_clusters (c : Chip) (o : Out) : (c.emit o).clusters = c.clusters := rfl
@[simp] theorem Chip.emit_kerns (c : Chip) (o : Out) : (c.emit o).kerns = c.kerns := rfl
@[simp] theorem Chip.emit_basins (c : Chip) (o : Out) : (c.emit o).basins = c.basins := rfl
@[simp] theorem Chip.emit_dies (c : Chip) (o : Out) : (c.emit o).dies = c.dies := rfl
@[simp] theorem Chip.emit_temper (c : Chip) (o : Out) : (c.emit o).temper = c.temper := rfl
@[simp] theorem Chip.emit_ladle (c : Chip) (o : Out) : (c.emit o).ladle = c.ladle := rfl
@[simp] theorem Chip.emit_ops (c : Chip) (o : Out) : (c.emit o).ops = c.ops := rfl
@[simp] theorem Chip.emit_unacked (c : Chip) (o : Out) : (c.emit o).unacked = c.unacked := rfl
@[simp] theorem Chip.emit_nextId (c : Chip) (o : Out) : (c.emit o).nextId = c.nextId := rfl
@[simp] theorem Chip.emit_losses (c : Chip) (o : Out) : (c.emit o).losses = c.losses := rfl
@[simp] theorem Chip.emit_images (c : Chip) (o : Out) : (c.emit o).images = c.images := rfl
@[simp] theorem Chip.emit_msixMask (c : Chip) (o : Out) : (c.emit o).msixMask = c.msixMask := rfl
@[simp] theorem Chip.emit_routers (c : Chip) (o : Out) : (c.emit o).routers = c.routers := rfl
@[simp] theorem Chip.emit_deadStacks (c : Chip) (o : Out) : (c.emit o).deadStacks = c.deadStacks := rfl
@[simp] theorem Chip.emit_spareCmd (c : Chip) (o : Out) : (c.emit o).spareCmd = c.spareCmd := rfl
@[simp] theorem Chip.emit_spareDead (c : Chip) (o : Out) : (c.emit o).spareDead = c.spareDead := rfl
@[simp] theorem Chip.emit_held (c : Chip) (o : Out) : (c.emit o).held = c.held := rfl
@[simp] theorem Chip.emit_parityBad (c : Chip) (o : Out) : (c.emit o).parityBad = c.parityBad := rfl
@[simp] theorem Chip.emit_postponed (c : Chip) (o : Out) : (c.emit o).postponed = c.postponed := rfl
@[simp] theorem Chip.emit_ports (c : Chip) (o : Out) : (c.emit o).ports = c.ports := rfl
@[simp] theorem Chip.emit_heldGets (c : Chip) (o : Out) : (c.emit o).heldGets = c.heldGets := rfl
@[simp] theorem Chip.emit_sluiceNext (c : Chip) (o : Out) : (c.emit o).sluiceNext = c.sluiceNext := rfl
@[simp] theorem Chip.emit_calSeq (c : Chip) (o : Out) : (c.emit o).calSeq = c.calSeq := rfl
@[simp] theorem Chip.emit_risk (c : Chip) (o : Out) : (c.emit o).risk = c.risk := rfl
@[simp] theorem Chip.emit_lastTrip (c : Chip) (o : Out) : (c.emit o).lastTrip = c.lastTrip := rfl
@[simp] theorem Chip.emit_pwr (c : Chip) (o : Out) : (c.emit o).pwr = c.pwr := rfl
@[simp] theorem Chip.emit_pcie (c : Chip) (o : Out) : (c.emit o).pcie = c.pcie := rfl
@[simp] theorem Chip.emit_hubDead (c : Chip) (o : Out) : (c.emit o).hubDead = c.hubDead := rfl
@[simp] theorem Chip.emit_irqHold (c : Chip) (o : Out) : (c.emit o).irqHold = c.irqHold := rfl
@[simp] theorem Chip.emit_irqs (c : Chip) (o : Out) : (c.emit o).irqs = c.irqs := rfl
@[simp] theorem Chip.emit_copying (c : Chip) (o : Out) : (c.emit o).copying = c.copying := rfl
@[simp] theorem Chip.emit_atc (c : Chip) (o : Out) : (c.emit o).atc = c.atc := rfl
@[simp] theorem Chip.emit_gasps (c : Chip) (o : Out) : (c.emit o).gasps = c.gasps := rfl
@[simp] theorem Chip.emit_dbgHalt (c : Chip) (o : Out) : (c.emit o).dbgHalt = c.dbgHalt := rfl
@[simp] theorem Chip.emit_rowMaps (c : Chip) (o : Out) : (c.emit o).rowMaps = c.rowMaps := rfl
@[simp] theorem Chip.emit_part (c : Chip) (o : Out) : (c.emit o).part = c.part := rfl
@[simp] theorem Chip.emit_partRows (c : Chip) (o : Out) : (c.emit o).partRows = c.partRows := rfl
@[simp] theorem Chip.emit_mesh (c : Chip) (o : Out) : (c.emit o).mesh = c.mesh := rfl
@[simp] theorem Chip.emit_picks (c : Chip) (o : Out) : (c.emit o).picks = c.picks := rfl
@[simp] theorem Chip.emit_vacated (c : Chip) (o : Out) : (c.emit o).vacated = c.vacated := rfl
@[simp] theorem Chip.emit_heldReqs (c : Chip) (o : Out) : (c.emit o).heldReqs = c.heldReqs := rfl
@[simp] theorem Chip.emit_ueSeenAt (c : Chip) (o : Out) : (c.emit o).ueSeenAt = c.ueSeenAt := rfl

/-! ### setCl -/

@[simp] theorem Chip.setCl_regs (c : Chip) (kc : Nat) (x : Cluster) : (c.setCl kc x).regs = c.regs := rfl
@[simp] theorem Chip.setCl_mem (c : Chip) (kc : Nat) (x : Cluster) : (c.setCl kc x).mem = c.mem := rfl
@[simp] theorem Chip.setCl_poison (c : Chip) (kc : Nat) (x : Cluster) : (c.setCl kc x).poison = c.poison := rfl
@[simp] theorem Chip.setCl_free (c : Chip) (kc : Nat) (x : Cluster) : (c.setCl kc x).free = c.free := rfl
@[simp] theorem Chip.setCl_out (c : Chip) (kc : Nat) (x : Cluster) : (c.setCl kc x).out = c.out := rfl
@[simp] theorem Chip.setCl_modes (c : Chip) (kc : Nat) (x : Cluster) : (c.setCl kc x).modes = c.modes := rfl
@[simp] theorem Chip.setCl_kerns (c : Chip) (kc : Nat) (x : Cluster) : (c.setCl kc x).kerns = c.kerns := rfl
@[simp] theorem Chip.setCl_basins (c : Chip) (kc : Nat) (x : Cluster) : (c.setCl kc x).basins = c.basins := rfl
@[simp] theorem Chip.setCl_dies (c : Chip) (kc : Nat) (x : Cluster) : (c.setCl kc x).dies = c.dies := rfl
@[simp] theorem Chip.setCl_temper (c : Chip) (kc : Nat) (x : Cluster) : (c.setCl kc x).temper = c.temper := rfl
@[simp] theorem Chip.setCl_ladle (c : Chip) (kc : Nat) (x : Cluster) : (c.setCl kc x).ladle = c.ladle := rfl
@[simp] theorem Chip.setCl_ops (c : Chip) (kc : Nat) (x : Cluster) : (c.setCl kc x).ops = c.ops := rfl
@[simp] theorem Chip.setCl_unacked (c : Chip) (kc : Nat) (x : Cluster) : (c.setCl kc x).unacked = c.unacked := rfl
@[simp] theorem Chip.setCl_nextId (c : Chip) (kc : Nat) (x : Cluster) : (c.setCl kc x).nextId = c.nextId := rfl
@[simp] theorem Chip.setCl_losses (c : Chip) (kc : Nat) (x : Cluster) : (c.setCl kc x).losses = c.losses := rfl
@[simp] theorem Chip.setCl_images (c : Chip) (kc : Nat) (x : Cluster) : (c.setCl kc x).images = c.images := rfl
@[simp] theorem Chip.setCl_msixMask (c : Chip) (kc : Nat) (x : Cluster) : (c.setCl kc x).msixMask = c.msixMask := rfl
@[simp] theorem Chip.setCl_routers (c : Chip) (kc : Nat) (x : Cluster) : (c.setCl kc x).routers = c.routers := rfl
@[simp] theorem Chip.setCl_deadStacks (c : Chip) (kc : Nat) (x : Cluster) : (c.setCl kc x).deadStacks = c.deadStacks := rfl
@[simp] theorem Chip.setCl_spareCmd (c : Chip) (kc : Nat) (x : Cluster) : (c.setCl kc x).spareCmd = c.spareCmd := rfl
@[simp] theorem Chip.setCl_spareDead (c : Chip) (kc : Nat) (x : Cluster) : (c.setCl kc x).spareDead = c.spareDead := rfl
@[simp] theorem Chip.setCl_held (c : Chip) (kc : Nat) (x : Cluster) : (c.setCl kc x).held = c.held := rfl
@[simp] theorem Chip.setCl_parityBad (c : Chip) (kc : Nat) (x : Cluster) : (c.setCl kc x).parityBad = c.parityBad := rfl
@[simp] theorem Chip.setCl_postponed (c : Chip) (kc : Nat) (x : Cluster) : (c.setCl kc x).postponed = c.postponed := rfl
@[simp] theorem Chip.setCl_ports (c : Chip) (kc : Nat) (x : Cluster) : (c.setCl kc x).ports = c.ports := rfl
@[simp] theorem Chip.setCl_heldGets (c : Chip) (kc : Nat) (x : Cluster) : (c.setCl kc x).heldGets = c.heldGets := rfl
@[simp] theorem Chip.setCl_sluiceNext (c : Chip) (kc : Nat) (x : Cluster) : (c.setCl kc x).sluiceNext = c.sluiceNext := rfl
@[simp] theorem Chip.setCl_calSeq (c : Chip) (kc : Nat) (x : Cluster) : (c.setCl kc x).calSeq = c.calSeq := rfl
@[simp] theorem Chip.setCl_risk (c : Chip) (kc : Nat) (x : Cluster) : (c.setCl kc x).risk = c.risk := rfl
@[simp] theorem Chip.setCl_lastTrip (c : Chip) (kc : Nat) (x : Cluster) : (c.setCl kc x).lastTrip = c.lastTrip := rfl
@[simp] theorem Chip.setCl_pwr (c : Chip) (kc : Nat) (x : Cluster) : (c.setCl kc x).pwr = c.pwr := rfl
@[simp] theorem Chip.setCl_pcie (c : Chip) (kc : Nat) (x : Cluster) : (c.setCl kc x).pcie = c.pcie := rfl
@[simp] theorem Chip.setCl_hubDead (c : Chip) (kc : Nat) (x : Cluster) : (c.setCl kc x).hubDead = c.hubDead := rfl
@[simp] theorem Chip.setCl_irqHold (c : Chip) (kc : Nat) (x : Cluster) : (c.setCl kc x).irqHold = c.irqHold := rfl
@[simp] theorem Chip.setCl_irqs (c : Chip) (kc : Nat) (x : Cluster) : (c.setCl kc x).irqs = c.irqs := rfl
@[simp] theorem Chip.setCl_copying (c : Chip) (kc : Nat) (x : Cluster) : (c.setCl kc x).copying = c.copying := rfl
@[simp] theorem Chip.setCl_atc (c : Chip) (kc : Nat) (x : Cluster) : (c.setCl kc x).atc = c.atc := rfl
@[simp] theorem Chip.setCl_gasps (c : Chip) (kc : Nat) (x : Cluster) : (c.setCl kc x).gasps = c.gasps := rfl
@[simp] theorem Chip.setCl_dbgHalt (c : Chip) (kc : Nat) (x : Cluster) : (c.setCl kc x).dbgHalt = c.dbgHalt := rfl
@[simp] theorem Chip.setCl_rowMaps (c : Chip) (kc : Nat) (x : Cluster) : (c.setCl kc x).rowMaps = c.rowMaps := rfl
@[simp] theorem Chip.setCl_part (c : Chip) (kc : Nat) (x : Cluster) : (c.setCl kc x).part = c.part := rfl
@[simp] theorem Chip.setCl_partRows (c : Chip) (kc : Nat) (x : Cluster) : (c.setCl kc x).partRows = c.partRows := rfl
@[simp] theorem Chip.setCl_mesh (c : Chip) (kc : Nat) (x : Cluster) : (c.setCl kc x).mesh = c.mesh := rfl
@[simp] theorem Chip.setCl_picks (c : Chip) (kc : Nat) (x : Cluster) : (c.setCl kc x).picks = c.picks := rfl
@[simp] theorem Chip.setCl_vacated (c : Chip) (kc : Nat) (x : Cluster) : (c.setCl kc x).vacated = c.vacated := rfl
@[simp] theorem Chip.setCl_heldReqs (c : Chip) (kc : Nat) (x : Cluster) : (c.setCl kc x).heldReqs = c.heldReqs := rfl
@[simp] theorem Chip.setCl_ueSeenAt (c : Chip) (kc : Nat) (x : Cluster) : (c.setCl kc x).ueSeenAt = c.ueSeenAt := rfl

/-! ### setBs -/

@[simp] theorem Chip.setBs_regs (c : Chip) (b : Nat) (x : Basin) : (c.setBs b x).regs = c.regs := rfl
@[simp] theorem Chip.setBs_mem (c : Chip) (b : Nat) (x : Basin) : (c.setBs b x).mem = c.mem := rfl
@[simp] theorem Chip.setBs_poison (c : Chip) (b : Nat) (x : Basin) : (c.setBs b x).poison = c.poison := rfl
@[simp] theorem Chip.setBs_free (c : Chip) (b : Nat) (x : Basin) : (c.setBs b x).free = c.free := rfl
@[simp] theorem Chip.setBs_out (c : Chip) (b : Nat) (x : Basin) : (c.setBs b x).out = c.out := rfl
@[simp] theorem Chip.setBs_modes (c : Chip) (b : Nat) (x : Basin) : (c.setBs b x).modes = c.modes := rfl
@[simp] theorem Chip.setBs_clusters (c : Chip) (b : Nat) (x : Basin) : (c.setBs b x).clusters = c.clusters := rfl
@[simp] theorem Chip.setBs_kerns (c : Chip) (b : Nat) (x : Basin) : (c.setBs b x).kerns = c.kerns := rfl
@[simp] theorem Chip.setBs_dies (c : Chip) (b : Nat) (x : Basin) : (c.setBs b x).dies = c.dies := rfl
@[simp] theorem Chip.setBs_temper (c : Chip) (b : Nat) (x : Basin) : (c.setBs b x).temper = c.temper := rfl
@[simp] theorem Chip.setBs_ladle (c : Chip) (b : Nat) (x : Basin) : (c.setBs b x).ladle = c.ladle := rfl
@[simp] theorem Chip.setBs_ops (c : Chip) (b : Nat) (x : Basin) : (c.setBs b x).ops = c.ops := rfl
@[simp] theorem Chip.setBs_unacked (c : Chip) (b : Nat) (x : Basin) : (c.setBs b x).unacked = c.unacked := rfl
@[simp] theorem Chip.setBs_nextId (c : Chip) (b : Nat) (x : Basin) : (c.setBs b x).nextId = c.nextId := rfl
@[simp] theorem Chip.setBs_losses (c : Chip) (b : Nat) (x : Basin) : (c.setBs b x).losses = c.losses := rfl
@[simp] theorem Chip.setBs_images (c : Chip) (b : Nat) (x : Basin) : (c.setBs b x).images = c.images := rfl
@[simp] theorem Chip.setBs_msixMask (c : Chip) (b : Nat) (x : Basin) : (c.setBs b x).msixMask = c.msixMask := rfl
@[simp] theorem Chip.setBs_routers (c : Chip) (b : Nat) (x : Basin) : (c.setBs b x).routers = c.routers := rfl
@[simp] theorem Chip.setBs_deadStacks (c : Chip) (b : Nat) (x : Basin) : (c.setBs b x).deadStacks = c.deadStacks := rfl
@[simp] theorem Chip.setBs_spareCmd (c : Chip) (b : Nat) (x : Basin) : (c.setBs b x).spareCmd = c.spareCmd := rfl
@[simp] theorem Chip.setBs_spareDead (c : Chip) (b : Nat) (x : Basin) : (c.setBs b x).spareDead = c.spareDead := rfl
@[simp] theorem Chip.setBs_held (c : Chip) (b : Nat) (x : Basin) : (c.setBs b x).held = c.held := rfl
@[simp] theorem Chip.setBs_parityBad (c : Chip) (b : Nat) (x : Basin) : (c.setBs b x).parityBad = c.parityBad := rfl
@[simp] theorem Chip.setBs_postponed (c : Chip) (b : Nat) (x : Basin) : (c.setBs b x).postponed = c.postponed := rfl
@[simp] theorem Chip.setBs_ports (c : Chip) (b : Nat) (x : Basin) : (c.setBs b x).ports = c.ports := rfl
@[simp] theorem Chip.setBs_heldGets (c : Chip) (b : Nat) (x : Basin) : (c.setBs b x).heldGets = c.heldGets := rfl
@[simp] theorem Chip.setBs_sluiceNext (c : Chip) (b : Nat) (x : Basin) : (c.setBs b x).sluiceNext = c.sluiceNext := rfl
@[simp] theorem Chip.setBs_calSeq (c : Chip) (b : Nat) (x : Basin) : (c.setBs b x).calSeq = c.calSeq := rfl
@[simp] theorem Chip.setBs_risk (c : Chip) (b : Nat) (x : Basin) : (c.setBs b x).risk = c.risk := rfl
@[simp] theorem Chip.setBs_lastTrip (c : Chip) (b : Nat) (x : Basin) : (c.setBs b x).lastTrip = c.lastTrip := rfl
@[simp] theorem Chip.setBs_pwr (c : Chip) (b : Nat) (x : Basin) : (c.setBs b x).pwr = c.pwr := rfl
@[simp] theorem Chip.setBs_pcie (c : Chip) (b : Nat) (x : Basin) : (c.setBs b x).pcie = c.pcie := rfl
@[simp] theorem Chip.setBs_hubDead (c : Chip) (b : Nat) (x : Basin) : (c.setBs b x).hubDead = c.hubDead := rfl
@[simp] theorem Chip.setBs_irqHold (c : Chip) (b : Nat) (x : Basin) : (c.setBs b x).irqHold = c.irqHold := rfl
@[simp] theorem Chip.setBs_irqs (c : Chip) (b : Nat) (x : Basin) : (c.setBs b x).irqs = c.irqs := rfl
@[simp] theorem Chip.setBs_copying (c : Chip) (b : Nat) (x : Basin) : (c.setBs b x).copying = c.copying := rfl
@[simp] theorem Chip.setBs_atc (c : Chip) (b : Nat) (x : Basin) : (c.setBs b x).atc = c.atc := rfl
@[simp] theorem Chip.setBs_gasps (c : Chip) (b : Nat) (x : Basin) : (c.setBs b x).gasps = c.gasps := rfl
@[simp] theorem Chip.setBs_dbgHalt (c : Chip) (b : Nat) (x : Basin) : (c.setBs b x).dbgHalt = c.dbgHalt := rfl
@[simp] theorem Chip.setBs_rowMaps (c : Chip) (b : Nat) (x : Basin) : (c.setBs b x).rowMaps = c.rowMaps := rfl
@[simp] theorem Chip.setBs_part (c : Chip) (b : Nat) (x : Basin) : (c.setBs b x).part = c.part := rfl
@[simp] theorem Chip.setBs_partRows (c : Chip) (b : Nat) (x : Basin) : (c.setBs b x).partRows = c.partRows := rfl
@[simp] theorem Chip.setBs_mesh (c : Chip) (b : Nat) (x : Basin) : (c.setBs b x).mesh = c.mesh := rfl
@[simp] theorem Chip.setBs_picks (c : Chip) (b : Nat) (x : Basin) : (c.setBs b x).picks = c.picks := rfl
@[simp] theorem Chip.setBs_vacated (c : Chip) (b : Nat) (x : Basin) : (c.setBs b x).vacated = c.vacated := rfl
@[simp] theorem Chip.setBs_heldReqs (c : Chip) (b : Nat) (x : Basin) : (c.setBs b x).heldReqs = c.heldReqs := rfl
@[simp] theorem Chip.setBs_ueSeenAt (c : Chip) (b : Nat) (x : Basin) : (c.setBs b x).ueSeenAt = c.ueSeenAt := rfl

/-! ### setQu -/

@[simp] theorem Chip.setQu_regs (c : Chip) (b q : Nat) (x : Queue) : (c.setQu b q x).regs = c.regs := rfl
@[simp] theorem Chip.setQu_mem (c : Chip) (b q : Nat) (x : Queue) : (c.setQu b q x).mem = c.mem := rfl
@[simp] theorem Chip.setQu_poison (c : Chip) (b q : Nat) (x : Queue) : (c.setQu b q x).poison = c.poison := rfl
@[simp] theorem Chip.setQu_free (c : Chip) (b q : Nat) (x : Queue) : (c.setQu b q x).free = c.free := rfl
@[simp] theorem Chip.setQu_out (c : Chip) (b q : Nat) (x : Queue) : (c.setQu b q x).out = c.out := rfl
@[simp] theorem Chip.setQu_modes (c : Chip) (b q : Nat) (x : Queue) : (c.setQu b q x).modes = c.modes := rfl
@[simp] theorem Chip.setQu_clusters (c : Chip) (b q : Nat) (x : Queue) : (c.setQu b q x).clusters = c.clusters := rfl
@[simp] theorem Chip.setQu_kerns (c : Chip) (b q : Nat) (x : Queue) : (c.setQu b q x).kerns = c.kerns := rfl
@[simp] theorem Chip.setQu_dies (c : Chip) (b q : Nat) (x : Queue) : (c.setQu b q x).dies = c.dies := rfl
@[simp] theorem Chip.setQu_temper (c : Chip) (b q : Nat) (x : Queue) : (c.setQu b q x).temper = c.temper := rfl
@[simp] theorem Chip.setQu_ladle (c : Chip) (b q : Nat) (x : Queue) : (c.setQu b q x).ladle = c.ladle := rfl
@[simp] theorem Chip.setQu_ops (c : Chip) (b q : Nat) (x : Queue) : (c.setQu b q x).ops = c.ops := rfl
@[simp] theorem Chip.setQu_unacked (c : Chip) (b q : Nat) (x : Queue) : (c.setQu b q x).unacked = c.unacked := rfl
@[simp] theorem Chip.setQu_nextId (c : Chip) (b q : Nat) (x : Queue) : (c.setQu b q x).nextId = c.nextId := rfl
@[simp] theorem Chip.setQu_losses (c : Chip) (b q : Nat) (x : Queue) : (c.setQu b q x).losses = c.losses := rfl
@[simp] theorem Chip.setQu_images (c : Chip) (b q : Nat) (x : Queue) : (c.setQu b q x).images = c.images := rfl
@[simp] theorem Chip.setQu_msixMask (c : Chip) (b q : Nat) (x : Queue) : (c.setQu b q x).msixMask = c.msixMask := rfl
@[simp] theorem Chip.setQu_routers (c : Chip) (b q : Nat) (x : Queue) : (c.setQu b q x).routers = c.routers := rfl
@[simp] theorem Chip.setQu_deadStacks (c : Chip) (b q : Nat) (x : Queue) : (c.setQu b q x).deadStacks = c.deadStacks := rfl
@[simp] theorem Chip.setQu_spareCmd (c : Chip) (b q : Nat) (x : Queue) : (c.setQu b q x).spareCmd = c.spareCmd := rfl
@[simp] theorem Chip.setQu_spareDead (c : Chip) (b q : Nat) (x : Queue) : (c.setQu b q x).spareDead = c.spareDead := rfl
@[simp] theorem Chip.setQu_held (c : Chip) (b q : Nat) (x : Queue) : (c.setQu b q x).held = c.held := rfl
@[simp] theorem Chip.setQu_parityBad (c : Chip) (b q : Nat) (x : Queue) : (c.setQu b q x).parityBad = c.parityBad := rfl
@[simp] theorem Chip.setQu_postponed (c : Chip) (b q : Nat) (x : Queue) : (c.setQu b q x).postponed = c.postponed := rfl
@[simp] theorem Chip.setQu_ports (c : Chip) (b q : Nat) (x : Queue) : (c.setQu b q x).ports = c.ports := rfl
@[simp] theorem Chip.setQu_heldGets (c : Chip) (b q : Nat) (x : Queue) : (c.setQu b q x).heldGets = c.heldGets := rfl
@[simp] theorem Chip.setQu_sluiceNext (c : Chip) (b q : Nat) (x : Queue) : (c.setQu b q x).sluiceNext = c.sluiceNext := rfl
@[simp] theorem Chip.setQu_calSeq (c : Chip) (b q : Nat) (x : Queue) : (c.setQu b q x).calSeq = c.calSeq := rfl
@[simp] theorem Chip.setQu_risk (c : Chip) (b q : Nat) (x : Queue) : (c.setQu b q x).risk = c.risk := rfl
@[simp] theorem Chip.setQu_lastTrip (c : Chip) (b q : Nat) (x : Queue) : (c.setQu b q x).lastTrip = c.lastTrip := rfl
@[simp] theorem Chip.setQu_pwr (c : Chip) (b q : Nat) (x : Queue) : (c.setQu b q x).pwr = c.pwr := rfl
@[simp] theorem Chip.setQu_pcie (c : Chip) (b q : Nat) (x : Queue) : (c.setQu b q x).pcie = c.pcie := rfl
@[simp] theorem Chip.setQu_hubDead (c : Chip) (b q : Nat) (x : Queue) : (c.setQu b q x).hubDead = c.hubDead := rfl
@[simp] theorem Chip.setQu_irqHold (c : Chip) (b q : Nat) (x : Queue) : (c.setQu b q x).irqHold = c.irqHold := rfl
@[simp] theorem Chip.setQu_irqs (c : Chip) (b q : Nat) (x : Queue) : (c.setQu b q x).irqs = c.irqs := rfl
@[simp] theorem Chip.setQu_copying (c : Chip) (b q : Nat) (x : Queue) : (c.setQu b q x).copying = c.copying := rfl
@[simp] theorem Chip.setQu_atc (c : Chip) (b q : Nat) (x : Queue) : (c.setQu b q x).atc = c.atc := rfl
@[simp] theorem Chip.setQu_gasps (c : Chip) (b q : Nat) (x : Queue) : (c.setQu b q x).gasps = c.gasps := rfl
@[simp] theorem Chip.setQu_dbgHalt (c : Chip) (b q : Nat) (x : Queue) : (c.setQu b q x).dbgHalt = c.dbgHalt := rfl
@[simp] theorem Chip.setQu_rowMaps (c : Chip) (b q : Nat) (x : Queue) : (c.setQu b q x).rowMaps = c.rowMaps := rfl
@[simp] theorem Chip.setQu_part (c : Chip) (b q : Nat) (x : Queue) : (c.setQu b q x).part = c.part := rfl
@[simp] theorem Chip.setQu_partRows (c : Chip) (b q : Nat) (x : Queue) : (c.setQu b q x).partRows = c.partRows := rfl
@[simp] theorem Chip.setQu_mesh (c : Chip) (b q : Nat) (x : Queue) : (c.setQu b q x).mesh = c.mesh := rfl
@[simp] theorem Chip.setQu_picks (c : Chip) (b q : Nat) (x : Queue) : (c.setQu b q x).picks = c.picks := rfl
@[simp] theorem Chip.setQu_vacated (c : Chip) (b q : Nat) (x : Queue) : (c.setQu b q x).vacated = c.vacated := rfl
@[simp] theorem Chip.setQu_heldReqs (c : Chip) (b q : Nat) (x : Queue) : (c.setQu b q x).heldReqs = c.heldReqs := rfl
@[simp] theorem Chip.setQu_ueSeenAt (c : Chip) (b q : Nat) (x : Queue) : (c.setQu b q x).ueSeenAt = c.ueSeenAt := rfl

/-! ### setTu -/

@[simp] theorem Chip.setTu_regs (c : Chip) (n : Nat) (x : TemperU) : (c.setTu n x).regs = c.regs := rfl
@[simp] theorem Chip.setTu_mem (c : Chip) (n : Nat) (x : TemperU) : (c.setTu n x).mem = c.mem := rfl
@[simp] theorem Chip.setTu_poison (c : Chip) (n : Nat) (x : TemperU) : (c.setTu n x).poison = c.poison := rfl
@[simp] theorem Chip.setTu_free (c : Chip) (n : Nat) (x : TemperU) : (c.setTu n x).free = c.free := rfl
@[simp] theorem Chip.setTu_out (c : Chip) (n : Nat) (x : TemperU) : (c.setTu n x).out = c.out := rfl
@[simp] theorem Chip.setTu_modes (c : Chip) (n : Nat) (x : TemperU) : (c.setTu n x).modes = c.modes := rfl
@[simp] theorem Chip.setTu_clusters (c : Chip) (n : Nat) (x : TemperU) : (c.setTu n x).clusters = c.clusters := rfl
@[simp] theorem Chip.setTu_kerns (c : Chip) (n : Nat) (x : TemperU) : (c.setTu n x).kerns = c.kerns := rfl
@[simp] theorem Chip.setTu_basins (c : Chip) (n : Nat) (x : TemperU) : (c.setTu n x).basins = c.basins := rfl
@[simp] theorem Chip.setTu_dies (c : Chip) (n : Nat) (x : TemperU) : (c.setTu n x).dies = c.dies := rfl
@[simp] theorem Chip.setTu_ladle (c : Chip) (n : Nat) (x : TemperU) : (c.setTu n x).ladle = c.ladle := rfl
@[simp] theorem Chip.setTu_ops (c : Chip) (n : Nat) (x : TemperU) : (c.setTu n x).ops = c.ops := rfl
@[simp] theorem Chip.setTu_unacked (c : Chip) (n : Nat) (x : TemperU) : (c.setTu n x).unacked = c.unacked := rfl
@[simp] theorem Chip.setTu_nextId (c : Chip) (n : Nat) (x : TemperU) : (c.setTu n x).nextId = c.nextId := rfl
@[simp] theorem Chip.setTu_losses (c : Chip) (n : Nat) (x : TemperU) : (c.setTu n x).losses = c.losses := rfl
@[simp] theorem Chip.setTu_images (c : Chip) (n : Nat) (x : TemperU) : (c.setTu n x).images = c.images := rfl
@[simp] theorem Chip.setTu_msixMask (c : Chip) (n : Nat) (x : TemperU) : (c.setTu n x).msixMask = c.msixMask := rfl
@[simp] theorem Chip.setTu_routers (c : Chip) (n : Nat) (x : TemperU) : (c.setTu n x).routers = c.routers := rfl
@[simp] theorem Chip.setTu_deadStacks (c : Chip) (n : Nat) (x : TemperU) : (c.setTu n x).deadStacks = c.deadStacks := rfl
@[simp] theorem Chip.setTu_spareCmd (c : Chip) (n : Nat) (x : TemperU) : (c.setTu n x).spareCmd = c.spareCmd := rfl
@[simp] theorem Chip.setTu_spareDead (c : Chip) (n : Nat) (x : TemperU) : (c.setTu n x).spareDead = c.spareDead := rfl
@[simp] theorem Chip.setTu_held (c : Chip) (n : Nat) (x : TemperU) : (c.setTu n x).held = c.held := rfl
@[simp] theorem Chip.setTu_parityBad (c : Chip) (n : Nat) (x : TemperU) : (c.setTu n x).parityBad = c.parityBad := rfl
@[simp] theorem Chip.setTu_postponed (c : Chip) (n : Nat) (x : TemperU) : (c.setTu n x).postponed = c.postponed := rfl
@[simp] theorem Chip.setTu_ports (c : Chip) (n : Nat) (x : TemperU) : (c.setTu n x).ports = c.ports := rfl
@[simp] theorem Chip.setTu_heldGets (c : Chip) (n : Nat) (x : TemperU) : (c.setTu n x).heldGets = c.heldGets := rfl
@[simp] theorem Chip.setTu_sluiceNext (c : Chip) (n : Nat) (x : TemperU) : (c.setTu n x).sluiceNext = c.sluiceNext := rfl
@[simp] theorem Chip.setTu_calSeq (c : Chip) (n : Nat) (x : TemperU) : (c.setTu n x).calSeq = c.calSeq := rfl
@[simp] theorem Chip.setTu_risk (c : Chip) (n : Nat) (x : TemperU) : (c.setTu n x).risk = c.risk := rfl
@[simp] theorem Chip.setTu_lastTrip (c : Chip) (n : Nat) (x : TemperU) : (c.setTu n x).lastTrip = c.lastTrip := rfl
@[simp] theorem Chip.setTu_pwr (c : Chip) (n : Nat) (x : TemperU) : (c.setTu n x).pwr = c.pwr := rfl
@[simp] theorem Chip.setTu_pcie (c : Chip) (n : Nat) (x : TemperU) : (c.setTu n x).pcie = c.pcie := rfl
@[simp] theorem Chip.setTu_hubDead (c : Chip) (n : Nat) (x : TemperU) : (c.setTu n x).hubDead = c.hubDead := rfl
@[simp] theorem Chip.setTu_irqHold (c : Chip) (n : Nat) (x : TemperU) : (c.setTu n x).irqHold = c.irqHold := rfl
@[simp] theorem Chip.setTu_irqs (c : Chip) (n : Nat) (x : TemperU) : (c.setTu n x).irqs = c.irqs := rfl
@[simp] theorem Chip.setTu_copying (c : Chip) (n : Nat) (x : TemperU) : (c.setTu n x).copying = c.copying := rfl
@[simp] theorem Chip.setTu_atc (c : Chip) (n : Nat) (x : TemperU) : (c.setTu n x).atc = c.atc := rfl
@[simp] theorem Chip.setTu_gasps (c : Chip) (n : Nat) (x : TemperU) : (c.setTu n x).gasps = c.gasps := rfl
@[simp] theorem Chip.setTu_dbgHalt (c : Chip) (n : Nat) (x : TemperU) : (c.setTu n x).dbgHalt = c.dbgHalt := rfl
@[simp] theorem Chip.setTu_rowMaps (c : Chip) (n : Nat) (x : TemperU) : (c.setTu n x).rowMaps = c.rowMaps := rfl
@[simp] theorem Chip.setTu_part (c : Chip) (n : Nat) (x : TemperU) : (c.setTu n x).part = c.part := rfl
@[simp] theorem Chip.setTu_partRows (c : Chip) (n : Nat) (x : TemperU) : (c.setTu n x).partRows = c.partRows := rfl
@[simp] theorem Chip.setTu_mesh (c : Chip) (n : Nat) (x : TemperU) : (c.setTu n x).mesh = c.mesh := rfl
@[simp] theorem Chip.setTu_picks (c : Chip) (n : Nat) (x : TemperU) : (c.setTu n x).picks = c.picks := rfl
@[simp] theorem Chip.setTu_vacated (c : Chip) (n : Nat) (x : TemperU) : (c.setTu n x).vacated = c.vacated := rfl
@[simp] theorem Chip.setTu_heldReqs (c : Chip) (n : Nat) (x : TemperU) : (c.setTu n x).heldReqs = c.heldReqs := rfl
@[simp] theorem Chip.setTu_ueSeenAt (c : Chip) (n : Nat) (x : TemperU) : (c.setTu n x).ueSeenAt = c.ueSeenAt := rfl

/-! ### setLu -/

@[simp] theorem Chip.setLu_regs (c : Chip) (n : Nat) (x : LadleU) : (c.setLu n x).regs = c.regs := rfl
@[simp] theorem Chip.setLu_mem (c : Chip) (n : Nat) (x : LadleU) : (c.setLu n x).mem = c.mem := rfl
@[simp] theorem Chip.setLu_poison (c : Chip) (n : Nat) (x : LadleU) : (c.setLu n x).poison = c.poison := rfl
@[simp] theorem Chip.setLu_free (c : Chip) (n : Nat) (x : LadleU) : (c.setLu n x).free = c.free := rfl
@[simp] theorem Chip.setLu_out (c : Chip) (n : Nat) (x : LadleU) : (c.setLu n x).out = c.out := rfl
@[simp] theorem Chip.setLu_modes (c : Chip) (n : Nat) (x : LadleU) : (c.setLu n x).modes = c.modes := rfl
@[simp] theorem Chip.setLu_clusters (c : Chip) (n : Nat) (x : LadleU) : (c.setLu n x).clusters = c.clusters := rfl
@[simp] theorem Chip.setLu_kerns (c : Chip) (n : Nat) (x : LadleU) : (c.setLu n x).kerns = c.kerns := rfl
@[simp] theorem Chip.setLu_basins (c : Chip) (n : Nat) (x : LadleU) : (c.setLu n x).basins = c.basins := rfl
@[simp] theorem Chip.setLu_dies (c : Chip) (n : Nat) (x : LadleU) : (c.setLu n x).dies = c.dies := rfl
@[simp] theorem Chip.setLu_temper (c : Chip) (n : Nat) (x : LadleU) : (c.setLu n x).temper = c.temper := rfl
@[simp] theorem Chip.setLu_ops (c : Chip) (n : Nat) (x : LadleU) : (c.setLu n x).ops = c.ops := rfl
@[simp] theorem Chip.setLu_unacked (c : Chip) (n : Nat) (x : LadleU) : (c.setLu n x).unacked = c.unacked := rfl
@[simp] theorem Chip.setLu_nextId (c : Chip) (n : Nat) (x : LadleU) : (c.setLu n x).nextId = c.nextId := rfl
@[simp] theorem Chip.setLu_losses (c : Chip) (n : Nat) (x : LadleU) : (c.setLu n x).losses = c.losses := rfl
@[simp] theorem Chip.setLu_images (c : Chip) (n : Nat) (x : LadleU) : (c.setLu n x).images = c.images := rfl
@[simp] theorem Chip.setLu_msixMask (c : Chip) (n : Nat) (x : LadleU) : (c.setLu n x).msixMask = c.msixMask := rfl
@[simp] theorem Chip.setLu_routers (c : Chip) (n : Nat) (x : LadleU) : (c.setLu n x).routers = c.routers := rfl
@[simp] theorem Chip.setLu_deadStacks (c : Chip) (n : Nat) (x : LadleU) : (c.setLu n x).deadStacks = c.deadStacks := rfl
@[simp] theorem Chip.setLu_spareCmd (c : Chip) (n : Nat) (x : LadleU) : (c.setLu n x).spareCmd = c.spareCmd := rfl
@[simp] theorem Chip.setLu_spareDead (c : Chip) (n : Nat) (x : LadleU) : (c.setLu n x).spareDead = c.spareDead := rfl
@[simp] theorem Chip.setLu_held (c : Chip) (n : Nat) (x : LadleU) : (c.setLu n x).held = c.held := rfl
@[simp] theorem Chip.setLu_parityBad (c : Chip) (n : Nat) (x : LadleU) : (c.setLu n x).parityBad = c.parityBad := rfl
@[simp] theorem Chip.setLu_postponed (c : Chip) (n : Nat) (x : LadleU) : (c.setLu n x).postponed = c.postponed := rfl
@[simp] theorem Chip.setLu_ports (c : Chip) (n : Nat) (x : LadleU) : (c.setLu n x).ports = c.ports := rfl
@[simp] theorem Chip.setLu_heldGets (c : Chip) (n : Nat) (x : LadleU) : (c.setLu n x).heldGets = c.heldGets := rfl
@[simp] theorem Chip.setLu_sluiceNext (c : Chip) (n : Nat) (x : LadleU) : (c.setLu n x).sluiceNext = c.sluiceNext := rfl
@[simp] theorem Chip.setLu_calSeq (c : Chip) (n : Nat) (x : LadleU) : (c.setLu n x).calSeq = c.calSeq := rfl
@[simp] theorem Chip.setLu_risk (c : Chip) (n : Nat) (x : LadleU) : (c.setLu n x).risk = c.risk := rfl
@[simp] theorem Chip.setLu_lastTrip (c : Chip) (n : Nat) (x : LadleU) : (c.setLu n x).lastTrip = c.lastTrip := rfl
@[simp] theorem Chip.setLu_pwr (c : Chip) (n : Nat) (x : LadleU) : (c.setLu n x).pwr = c.pwr := rfl
@[simp] theorem Chip.setLu_pcie (c : Chip) (n : Nat) (x : LadleU) : (c.setLu n x).pcie = c.pcie := rfl
@[simp] theorem Chip.setLu_hubDead (c : Chip) (n : Nat) (x : LadleU) : (c.setLu n x).hubDead = c.hubDead := rfl
@[simp] theorem Chip.setLu_irqHold (c : Chip) (n : Nat) (x : LadleU) : (c.setLu n x).irqHold = c.irqHold := rfl
@[simp] theorem Chip.setLu_irqs (c : Chip) (n : Nat) (x : LadleU) : (c.setLu n x).irqs = c.irqs := rfl
@[simp] theorem Chip.setLu_copying (c : Chip) (n : Nat) (x : LadleU) : (c.setLu n x).copying = c.copying := rfl
@[simp] theorem Chip.setLu_atc (c : Chip) (n : Nat) (x : LadleU) : (c.setLu n x).atc = c.atc := rfl
@[simp] theorem Chip.setLu_gasps (c : Chip) (n : Nat) (x : LadleU) : (c.setLu n x).gasps = c.gasps := rfl
@[simp] theorem Chip.setLu_dbgHalt (c : Chip) (n : Nat) (x : LadleU) : (c.setLu n x).dbgHalt = c.dbgHalt := rfl
@[simp] theorem Chip.setLu_rowMaps (c : Chip) (n : Nat) (x : LadleU) : (c.setLu n x).rowMaps = c.rowMaps := rfl
@[simp] theorem Chip.setLu_part (c : Chip) (n : Nat) (x : LadleU) : (c.setLu n x).part = c.part := rfl
@[simp] theorem Chip.setLu_partRows (c : Chip) (n : Nat) (x : LadleU) : (c.setLu n x).partRows = c.partRows := rfl
@[simp] theorem Chip.setLu_mesh (c : Chip) (n : Nat) (x : LadleU) : (c.setLu n x).mesh = c.mesh := rfl
@[simp] theorem Chip.setLu_picks (c : Chip) (n : Nat) (x : LadleU) : (c.setLu n x).picks = c.picks := rfl
@[simp] theorem Chip.setLu_vacated (c : Chip) (n : Nat) (x : LadleU) : (c.setLu n x).vacated = c.vacated := rfl
@[simp] theorem Chip.setLu_heldReqs (c : Chip) (n : Nat) (x : LadleU) : (c.setLu n x).heldReqs = c.heldReqs := rfl
@[simp] theorem Chip.setLu_ueSeenAt (c : Chip) (n : Nat) (x : LadleU) : (c.setLu n x).ueSeenAt = c.ueSeenAt := rfl

/-! ### setPort -/

@[simp] theorem Chip.setPort_regs (c : Chip) (p : Nat) (x : PortX) : (c.setPort p x).regs = c.regs := rfl
@[simp] theorem Chip.setPort_mem (c : Chip) (p : Nat) (x : PortX) : (c.setPort p x).mem = c.mem := rfl
@[simp] theorem Chip.setPort_poison (c : Chip) (p : Nat) (x : PortX) : (c.setPort p x).poison = c.poison := rfl
@[simp] theorem Chip.setPort_free (c : Chip) (p : Nat) (x : PortX) : (c.setPort p x).free = c.free := rfl
@[simp] theorem Chip.setPort_out (c : Chip) (p : Nat) (x : PortX) : (c.setPort p x).out = c.out := rfl
@[simp] theorem Chip.setPort_modes (c : Chip) (p : Nat) (x : PortX) : (c.setPort p x).modes = c.modes := rfl
@[simp] theorem Chip.setPort_clusters (c : Chip) (p : Nat) (x : PortX) : (c.setPort p x).clusters = c.clusters := rfl
@[simp] theorem Chip.setPort_kerns (c : Chip) (p : Nat) (x : PortX) : (c.setPort p x).kerns = c.kerns := rfl
@[simp] theorem Chip.setPort_basins (c : Chip) (p : Nat) (x : PortX) : (c.setPort p x).basins = c.basins := rfl
@[simp] theorem Chip.setPort_dies (c : Chip) (p : Nat) (x : PortX) : (c.setPort p x).dies = c.dies := rfl
@[simp] theorem Chip.setPort_temper (c : Chip) (p : Nat) (x : PortX) : (c.setPort p x).temper = c.temper := rfl
@[simp] theorem Chip.setPort_ladle (c : Chip) (p : Nat) (x : PortX) : (c.setPort p x).ladle = c.ladle := rfl
@[simp] theorem Chip.setPort_ops (c : Chip) (p : Nat) (x : PortX) : (c.setPort p x).ops = c.ops := rfl
@[simp] theorem Chip.setPort_unacked (c : Chip) (p : Nat) (x : PortX) : (c.setPort p x).unacked = c.unacked := rfl
@[simp] theorem Chip.setPort_nextId (c : Chip) (p : Nat) (x : PortX) : (c.setPort p x).nextId = c.nextId := rfl
@[simp] theorem Chip.setPort_losses (c : Chip) (p : Nat) (x : PortX) : (c.setPort p x).losses = c.losses := rfl
@[simp] theorem Chip.setPort_images (c : Chip) (p : Nat) (x : PortX) : (c.setPort p x).images = c.images := rfl
@[simp] theorem Chip.setPort_msixMask (c : Chip) (p : Nat) (x : PortX) : (c.setPort p x).msixMask = c.msixMask := rfl
@[simp] theorem Chip.setPort_routers (c : Chip) (p : Nat) (x : PortX) : (c.setPort p x).routers = c.routers := rfl
@[simp] theorem Chip.setPort_deadStacks (c : Chip) (p : Nat) (x : PortX) : (c.setPort p x).deadStacks = c.deadStacks := rfl
@[simp] theorem Chip.setPort_spareCmd (c : Chip) (p : Nat) (x : PortX) : (c.setPort p x).spareCmd = c.spareCmd := rfl
@[simp] theorem Chip.setPort_spareDead (c : Chip) (p : Nat) (x : PortX) : (c.setPort p x).spareDead = c.spareDead := rfl
@[simp] theorem Chip.setPort_held (c : Chip) (p : Nat) (x : PortX) : (c.setPort p x).held = c.held := rfl
@[simp] theorem Chip.setPort_parityBad (c : Chip) (p : Nat) (x : PortX) : (c.setPort p x).parityBad = c.parityBad := rfl
@[simp] theorem Chip.setPort_postponed (c : Chip) (p : Nat) (x : PortX) : (c.setPort p x).postponed = c.postponed := rfl
@[simp] theorem Chip.setPort_heldGets (c : Chip) (p : Nat) (x : PortX) : (c.setPort p x).heldGets = c.heldGets := rfl
@[simp] theorem Chip.setPort_sluiceNext (c : Chip) (p : Nat) (x : PortX) : (c.setPort p x).sluiceNext = c.sluiceNext := rfl
@[simp] theorem Chip.setPort_calSeq (c : Chip) (p : Nat) (x : PortX) : (c.setPort p x).calSeq = c.calSeq := rfl
@[simp] theorem Chip.setPort_risk (c : Chip) (p : Nat) (x : PortX) : (c.setPort p x).risk = c.risk := rfl
@[simp] theorem Chip.setPort_lastTrip (c : Chip) (p : Nat) (x : PortX) : (c.setPort p x).lastTrip = c.lastTrip := rfl
@[simp] theorem Chip.setPort_pwr (c : Chip) (p : Nat) (x : PortX) : (c.setPort p x).pwr = c.pwr := rfl
@[simp] theorem Chip.setPort_pcie (c : Chip) (p : Nat) (x : PortX) : (c.setPort p x).pcie = c.pcie := rfl
@[simp] theorem Chip.setPort_hubDead (c : Chip) (p : Nat) (x : PortX) : (c.setPort p x).hubDead = c.hubDead := rfl
@[simp] theorem Chip.setPort_irqHold (c : Chip) (p : Nat) (x : PortX) : (c.setPort p x).irqHold = c.irqHold := rfl
@[simp] theorem Chip.setPort_irqs (c : Chip) (p : Nat) (x : PortX) : (c.setPort p x).irqs = c.irqs := rfl
@[simp] theorem Chip.setPort_copying (c : Chip) (p : Nat) (x : PortX) : (c.setPort p x).copying = c.copying := rfl
@[simp] theorem Chip.setPort_atc (c : Chip) (p : Nat) (x : PortX) : (c.setPort p x).atc = c.atc := rfl
@[simp] theorem Chip.setPort_gasps (c : Chip) (p : Nat) (x : PortX) : (c.setPort p x).gasps = c.gasps := rfl
@[simp] theorem Chip.setPort_dbgHalt (c : Chip) (p : Nat) (x : PortX) : (c.setPort p x).dbgHalt = c.dbgHalt := rfl
@[simp] theorem Chip.setPort_rowMaps (c : Chip) (p : Nat) (x : PortX) : (c.setPort p x).rowMaps = c.rowMaps := rfl
@[simp] theorem Chip.setPort_part (c : Chip) (p : Nat) (x : PortX) : (c.setPort p x).part = c.part := rfl
@[simp] theorem Chip.setPort_partRows (c : Chip) (p : Nat) (x : PortX) : (c.setPort p x).partRows = c.partRows := rfl
@[simp] theorem Chip.setPort_mesh (c : Chip) (p : Nat) (x : PortX) : (c.setPort p x).mesh = c.mesh := rfl
@[simp] theorem Chip.setPort_picks (c : Chip) (p : Nat) (x : PortX) : (c.setPort p x).picks = c.picks := rfl
@[simp] theorem Chip.setPort_vacated (c : Chip) (p : Nat) (x : PortX) : (c.setPort p x).vacated = c.vacated := rfl
@[simp] theorem Chip.setPort_heldReqs (c : Chip) (p : Nat) (x : PortX) : (c.setPort p x).heldReqs = c.heldReqs := rfl
@[simp] theorem Chip.setPort_ueSeenAt (c : Chip) (p : Nat) (x : PortX) : (c.setPort p x).ueSeenAt = c.ueSeenAt := rfl

/-! ### setDieP -/

@[simp] theorem Chip.setDieP_regs (c : Chip) (n : Nat) (d : DieP) : (c.setDieP n d).regs = c.regs := rfl
@[simp] theorem Chip.setDieP_mem (c : Chip) (n : Nat) (d : DieP) : (c.setDieP n d).mem = c.mem := rfl
@[simp] theorem Chip.setDieP_poison (c : Chip) (n : Nat) (d : DieP) : (c.setDieP n d).poison = c.poison := rfl
@[simp] theorem Chip.setDieP_free (c : Chip) (n : Nat) (d : DieP) : (c.setDieP n d).free = c.free := rfl
@[simp] theorem Chip.setDieP_out (c : Chip) (n : Nat) (d : DieP) : (c.setDieP n d).out = c.out := rfl
@[simp] theorem Chip.setDieP_modes (c : Chip) (n : Nat) (d : DieP) : (c.setDieP n d).modes = c.modes := rfl
@[simp] theorem Chip.setDieP_clusters (c : Chip) (n : Nat) (d : DieP) : (c.setDieP n d).clusters = c.clusters := rfl
@[simp] theorem Chip.setDieP_kerns (c : Chip) (n : Nat) (d : DieP) : (c.setDieP n d).kerns = c.kerns := rfl
@[simp] theorem Chip.setDieP_basins (c : Chip) (n : Nat) (d : DieP) : (c.setDieP n d).basins = c.basins := rfl
@[simp] theorem Chip.setDieP_temper (c : Chip) (n : Nat) (d : DieP) : (c.setDieP n d).temper = c.temper := rfl
@[simp] theorem Chip.setDieP_ladle (c : Chip) (n : Nat) (d : DieP) : (c.setDieP n d).ladle = c.ladle := rfl
@[simp] theorem Chip.setDieP_ops (c : Chip) (n : Nat) (d : DieP) : (c.setDieP n d).ops = c.ops := rfl
@[simp] theorem Chip.setDieP_unacked (c : Chip) (n : Nat) (d : DieP) : (c.setDieP n d).unacked = c.unacked := rfl
@[simp] theorem Chip.setDieP_nextId (c : Chip) (n : Nat) (d : DieP) : (c.setDieP n d).nextId = c.nextId := rfl
@[simp] theorem Chip.setDieP_losses (c : Chip) (n : Nat) (d : DieP) : (c.setDieP n d).losses = c.losses := rfl
@[simp] theorem Chip.setDieP_images (c : Chip) (n : Nat) (d : DieP) : (c.setDieP n d).images = c.images := rfl
@[simp] theorem Chip.setDieP_msixMask (c : Chip) (n : Nat) (d : DieP) : (c.setDieP n d).msixMask = c.msixMask := rfl
@[simp] theorem Chip.setDieP_routers (c : Chip) (n : Nat) (d : DieP) : (c.setDieP n d).routers = c.routers := rfl
@[simp] theorem Chip.setDieP_deadStacks (c : Chip) (n : Nat) (d : DieP) : (c.setDieP n d).deadStacks = c.deadStacks := rfl
@[simp] theorem Chip.setDieP_spareCmd (c : Chip) (n : Nat) (d : DieP) : (c.setDieP n d).spareCmd = c.spareCmd := rfl
@[simp] theorem Chip.setDieP_spareDead (c : Chip) (n : Nat) (d : DieP) : (c.setDieP n d).spareDead = c.spareDead := rfl
@[simp] theorem Chip.setDieP_held (c : Chip) (n : Nat) (d : DieP) : (c.setDieP n d).held = c.held := rfl
@[simp] theorem Chip.setDieP_parityBad (c : Chip) (n : Nat) (d : DieP) : (c.setDieP n d).parityBad = c.parityBad := rfl
@[simp] theorem Chip.setDieP_postponed (c : Chip) (n : Nat) (d : DieP) : (c.setDieP n d).postponed = c.postponed := rfl
@[simp] theorem Chip.setDieP_ports (c : Chip) (n : Nat) (d : DieP) : (c.setDieP n d).ports = c.ports := rfl
@[simp] theorem Chip.setDieP_heldGets (c : Chip) (n : Nat) (d : DieP) : (c.setDieP n d).heldGets = c.heldGets := rfl
@[simp] theorem Chip.setDieP_sluiceNext (c : Chip) (n : Nat) (d : DieP) : (c.setDieP n d).sluiceNext = c.sluiceNext := rfl
@[simp] theorem Chip.setDieP_calSeq (c : Chip) (n : Nat) (d : DieP) : (c.setDieP n d).calSeq = c.calSeq := rfl
@[simp] theorem Chip.setDieP_risk (c : Chip) (n : Nat) (d : DieP) : (c.setDieP n d).risk = c.risk := rfl
@[simp] theorem Chip.setDieP_lastTrip (c : Chip) (n : Nat) (d : DieP) : (c.setDieP n d).lastTrip = c.lastTrip := rfl
@[simp] theorem Chip.setDieP_pwr (c : Chip) (n : Nat) (d : DieP) : (c.setDieP n d).pwr = c.pwr := rfl
@[simp] theorem Chip.setDieP_pcie (c : Chip) (n : Nat) (d : DieP) : (c.setDieP n d).pcie = c.pcie := rfl
@[simp] theorem Chip.setDieP_hubDead (c : Chip) (n : Nat) (d : DieP) : (c.setDieP n d).hubDead = c.hubDead := rfl
@[simp] theorem Chip.setDieP_irqHold (c : Chip) (n : Nat) (d : DieP) : (c.setDieP n d).irqHold = c.irqHold := rfl
@[simp] theorem Chip.setDieP_irqs (c : Chip) (n : Nat) (d : DieP) : (c.setDieP n d).irqs = c.irqs := rfl
@[simp] theorem Chip.setDieP_copying (c : Chip) (n : Nat) (d : DieP) : (c.setDieP n d).copying = c.copying := rfl
@[simp] theorem Chip.setDieP_atc (c : Chip) (n : Nat) (d : DieP) : (c.setDieP n d).atc = c.atc := rfl
@[simp] theorem Chip.setDieP_gasps (c : Chip) (n : Nat) (d : DieP) : (c.setDieP n d).gasps = c.gasps := rfl
@[simp] theorem Chip.setDieP_dbgHalt (c : Chip) (n : Nat) (d : DieP) : (c.setDieP n d).dbgHalt = c.dbgHalt := rfl
@[simp] theorem Chip.setDieP_rowMaps (c : Chip) (n : Nat) (d : DieP) : (c.setDieP n d).rowMaps = c.rowMaps := rfl
@[simp] theorem Chip.setDieP_part (c : Chip) (n : Nat) (d : DieP) : (c.setDieP n d).part = c.part := rfl
@[simp] theorem Chip.setDieP_partRows (c : Chip) (n : Nat) (d : DieP) : (c.setDieP n d).partRows = c.partRows := rfl
@[simp] theorem Chip.setDieP_mesh (c : Chip) (n : Nat) (d : DieP) : (c.setDieP n d).mesh = c.mesh := rfl
@[simp] theorem Chip.setDieP_picks (c : Chip) (n : Nat) (d : DieP) : (c.setDieP n d).picks = c.picks := rfl
@[simp] theorem Chip.setDieP_vacated (c : Chip) (n : Nat) (d : DieP) : (c.setDieP n d).vacated = c.vacated := rfl
@[simp] theorem Chip.setDieP_heldReqs (c : Chip) (n : Nat) (d : DieP) : (c.setDieP n d).heldReqs = c.heldReqs := rfl
@[simp] theorem Chip.setDieP_ueSeenAt (c : Chip) (n : Nat) (d : DieP) : (c.setDieP n d).ueSeenAt = c.ueSeenAt := rfl

/-! ### The counters of free values and identities -/

@[simp] theorem Chip.fresh_free (c : Chip) : c.fresh.2.free = c.free + 1 := rfl
@[simp] theorem Chip.fresh_val (c : Chip) : c.fresh.1 = Config.freeNat c.free := rfl
@[simp] theorem Chip.fresh_regs (c : Chip) : c.fresh.2.regs = c.regs := rfl
@[simp] theorem Chip.fresh_mem (c : Chip) : c.fresh.2.mem = c.mem := rfl
@[simp] theorem Chip.newId_nextId (c : Chip) : c.newId.2.nextId = c.nextId + 1 := rfl
@[simp] theorem Chip.newId_val (c : Chip) : c.newId.1 = c.nextId := rfl
@[simp] theorem Chip.newId_regs (c : Chip) : c.newId.2.regs = c.regs := rfl
@[simp] theorem Chip.newId_mem (c : Chip) : c.newId.2.mem = c.mem := rfl

/-! ### Records of units -/

@[simp] theorem Chip.cl_setCl_same (c : Chip) (kc : Nat) (x : Cluster) : (c.setCl kc x).cl kc = x := Map.get_put_same _ _ _ _
theorem Chip.cl_setCl_ne (c : Chip) {kc k : Nat} (x : Cluster) (h : k ≠ kc) : (c.setCl kc x).cl k = c.cl k := Map.get_put_ne _ _ _ _ h
@[simp] theorem Chip.bs_setBs_same (c : Chip) (b : Nat) (x : Basin) : (c.setBs b x).bs b = x := Map.get_put_same _ _ _ _
theorem Chip.bs_setBs_ne (c : Chip) {b k : Nat} (x : Basin) (h : k ≠ b) : (c.setBs b x).bs k = c.bs k := Map.get_put_ne _ _ _ _ h
@[simp] theorem Chip.tu_setTu_same (c : Chip) (n : Nat) (x : TemperU) : (c.setTu n x).tu n = x := Map.get_put_same _ _ _ _
theorem Chip.tu_setTu_ne (c : Chip) {n k : Nat} (x : TemperU) (h : k ≠ n) : (c.setTu n x).tu k = c.tu k := Map.get_put_ne _ _ _ _ h
@[simp] theorem Chip.lu_setLu_same (c : Chip) (n : Nat) (x : LadleU) : (c.setLu n x).lu n = x := Map.get_put_same _ _ _ _
theorem Chip.lu_setLu_ne (c : Chip) {n k : Nat} (x : LadleU) (h : k ≠ n) : (c.setLu n x).lu k = c.lu k := Map.get_put_ne _ _ _ _ h
@[simp] theorem Chip.qu_setQu_same (c : Chip) (b q : Nat) (x : Queue) : (c.setQu b q x).qu b q = x := by
  simp [Chip.qu, Chip.setQu, Map.get_put_same]
@[simp] theorem Cluster.seq_setSeq_same (x : Cluster) (k : Nat) (q : Seqr) : (x.setSeq k q).seq k = q := by
  by_cases h : k = 0 <;> simp [Cluster.seq, Cluster.setSeq, h]
@[simp] theorem Chip.seqr_setSeqr_same (c : Chip) (kc k : Nat) (q : Seqr) : (c.setSeqr kc k q).seqr kc k = q := by
  simp [Chip.seqr, Chip.setSeqr]
@[simp] theorem Chip.setSeqr_regs (c : Chip) (kc k : Nat) (q : Seqr) : (c.setSeqr kc k q).regs = c.regs := rfl
@[simp] theorem Chip.setSeqr_mem (c : Chip) (kc k : Nat) (q : Seqr) : (c.setSeqr kc k q).mem = c.mem := rfl

/-! ### Registers through the other updates -/

theorem Chip.word_congr {c d : Chip} (h : d.regs = c.regs) (r : Reg) : d.word r = c.word r := by
  simp only [Chip.word, h]
theorem Chip.get_congr {c d : Chip} (h : d.regs = c.regs) (f : RF) : d.get f = c.get f := by
  simp only [Chip.get, Chip.word, h]

@[simp] theorem Chip.word_emit (c : Chip) (o : Out) (w : Reg) : (c.emit o).word w = c.word w := rfl
@[simp] theorem Chip.get_emit (c : Chip) (o : Out) (g : RF) : (c.emit o).get g = c.get g := rfl
@[simp] theorem Chip.word_setCl (c : Chip) (kc : Nat) (x : Cluster) (w : Reg) : (c.setCl kc x).word w = c.word w := rfl
@[simp] theorem Chip.get_setCl (c : Chip) (kc : Nat) (x : Cluster) (g : RF) : (c.setCl kc x).get g = c.get g := rfl
@[simp] theorem Chip.word_setBs (c : Chip) (b : Nat) (x : Basin) (w : Reg) : (c.setBs b x).word w = c.word w := rfl
@[simp] theorem Chip.get_setBs (c : Chip) (b : Nat) (x : Basin) (g : RF) : (c.setBs b x).get g = c.get g := rfl
@[simp] theorem Chip.word_setQu (c : Chip) (b q : Nat) (x : Queue) (w : Reg) : (c.setQu b q x).word w = c.word w := rfl
@[simp] theorem Chip.get_setQu (c : Chip) (b q : Nat) (x : Queue) (g : RF) : (c.setQu b q x).get g = c.get g := rfl
@[simp] theorem Chip.word_setTu (c : Chip) (n : Nat) (x : TemperU) (w : Reg) : (c.setTu n x).word w = c.word w := rfl
@[simp] theorem Chip.get_setTu (c : Chip) (n : Nat) (x : TemperU) (g : RF) : (c.setTu n x).get g = c.get g := rfl
@[simp] theorem Chip.word_setLu (c : Chip) (n : Nat) (x : LadleU) (w : Reg) : (c.setLu n x).word w = c.word w := rfl
@[simp] theorem Chip.get_setLu (c : Chip) (n : Nat) (x : LadleU) (g : RF) : (c.setLu n x).get g = c.get g := rfl
@[simp] theorem Chip.word_setPort (c : Chip) (p : Nat) (x : PortX) (w : Reg) : (c.setPort p x).word w = c.word w := rfl
@[simp] theorem Chip.get_setPort (c : Chip) (p : Nat) (x : PortX) (g : RF) : (c.setPort p x).get g = c.get g := rfl
@[simp] theorem Chip.word_setDieP (c : Chip) (n : Nat) (d : DieP) (w : Reg) : (c.setDieP n d).word w = c.word w := rfl
@[simp] theorem Chip.get_setDieP (c : Chip) (n : Nat) (d : DieP) (g : RF) : (c.setDieP n d).get g = c.get g := rfl

end Sys2Proof.Machine
end

