-- ==== Sys2Proof/Laws/Ops.lean ====
section
/-! SUPPORT. The shared operations on registers, events, counters and memory: everything each can change, and what it gives. -/
namespace Sys2Proof.Machine

/-! ### Registers -/

/-- A field that wraps reads one more, within its width. -/
theorem Chip.get_inc_same (c : Chip) (f : RF) (h : f.lo + f.len ≤ 64) : (c.inc f).get f = (c.get f + 1) % 2 ^ f.len :=
  Chip.get_put_same c f _ h

theorem Chip.word_inc_ne (c : Chip) (f : RF) {r : Reg} (h : r.key ≠ f.reg.key) : (c.inc f).word r = c.word r :=
  Chip.word_put_ne c f _ h

theorem Chip.word_incSat_ne (c : Chip) (f : RF) (n : Nat) {r : Reg} (h : r.key ≠ f.reg.key) : (c.incSat f n).word r = c.word r :=
  Chip.word_put_ne c f _ h

/-- A register put back at its reset value reads it. -/
theorem Chip.word_resetReg_same (c : Chip) (r : Reg) : (c.resetReg r).word r = r.rst % 2 ^ 64 := Chip.word_setWord_same c r r.rst

/-! ### What can change -/

/-- `d` differs from `c` in registers only. -/
def Chip.RegsOnly (c d : Chip) : Prop := ∃ r, d = { c with regs := r }

/-- `d` differs from `c` in registers, what has left the part and held interrupts only: what firing events may touch. -/
def Chip.EventsOnly (c d : Chip) : Prop := ∃ r o q, d = { c with regs := r, out := o, irqs := q }

theorem Chip.EventsOnly.refl (c : Chip) : c.EventsOnly c := ⟨_, _, _, rfl⟩

theorem Chip.RegsOnly.events {c d : Chip} (h : c.RegsOnly d) : c.EventsOnly d := by
  obtain ⟨r, rfl⟩ := h
  exact ⟨r, _, _, rfl⟩

theorem Chip.EventsOnly.trans {c d e : Chip} (h : c.EventsOnly d) (k : d.EventsOnly e) : c.EventsOnly e := by
  obtain ⟨r, o, q, rfl⟩ := h
  obtain ⟨r', o', q', rfl⟩ := k
  exact ⟨r', o', q', rfl⟩

theorem Chip.EventsOnly.mem {c d : Chip} (h : c.EventsOnly d) : d.mem = c.mem := by
  obtain ⟨r, o, q, rfl⟩ := h
  rfl

theorem Chip.EventsOnly.basins {c d : Chip} (h : c.EventsOnly d) : d.basins = c.basins := by
  obtain ⟨r, o, q, rfl⟩ := h
  rfl

theorem Chip.EventsOnly.clusters {c d : Chip} (h : c.EventsOnly d) : d.clusters = c.clusters := by
  obtain ⟨r, o, q, rfl⟩ := h
  rfl

theorem Chip.EventsOnly.kerns {c d : Chip} (h : c.EventsOnly d) : d.kerns = c.kerns := by
  obtain ⟨r, o, q, rfl⟩ := h
  rfl

theorem Chip.setWord_regsOnly (c : Chip) (r : Reg) (v : Nat) : c.RegsOnly (c.setWord r v) := ⟨_, rfl⟩
theorem Chip.put_regsOnly (c : Chip) (f : RF) (v : Nat) : c.RegsOnly (c.put f v) := ⟨_, rfl⟩
theorem Chip.put_eventsOnly (c : Chip) (f : RF) (v : Nat) : c.EventsOnly (c.put f v) := (c.put_regsOnly f v).events
theorem Chip.setWord_eventsOnly (c : Chip) (r : Reg) (v : Nat) : c.EventsOnly (c.setWord r v) := (c.setWord_regsOnly r v).events
theorem Chip.inc_eventsOnly (c : Chip) (f : RF) : c.EventsOnly (c.inc f) := c.put_eventsOnly f _
theorem Chip.incSat_eventsOnly (c : Chip) (f : RF) (n : Nat) : c.EventsOnly (c.incSat f n) := c.put_eventsOnly f _
theorem Chip.emit_eventsOnly (c : Chip) (o : Out) : c.EventsOnly (c.emit o) := ⟨_, _, _, rfl⟩

/-! ### Events (R428, R429) -/

theorem Chip.sendMsix_eventsOnly (c : Chip) (f v : Nat) : c.EventsOnly (c.sendMsix f v) := by
  unfold Chip.sendMsix
  split
  · split
    · exact .refl c
    · exact ⟨_, _, _, rfl⟩
  · exact c.emit_eventsOnly _

theorem Chip.sendMsix_regs (c : Chip) (f v : Nat) : (c.sendMsix f v).regs = c.regs := by
  unfold Chip.sendMsix
  split
  · split <;> rfl
  · rfl

/-- An event whose route is not enabled does nothing. -/
theorem Chip.fire_disabled (c : Chip) (e : Nat) (h : c.on (HUB_EVT_ROUTE.ENABLE e) = false) : c.fire e = c := by
  simp [Chip.fire, h]

/-- An event touches registers, what leaves the part, and held interrupts. -/
theorem Chip.fire_eventsOnly (c : Chip) (e : Nat) : c.EventsOnly (c.fire e) := by
  unfold Chip.fire
  split
  · split
    · exact c.incSat_eventsOnly _ _
    · dsimp only
      split
      · exact (c.put_eventsOnly _ _).trans (Chip.emit_eventsOnly _ _)
      · split
        · exact (c.put_eventsOnly _ _).trans (Chip.sendMsix_eventsOnly _ _ _)
        · exact c.put_eventsOnly _ _
  · exact .refl c

/-- Of the registers, an event touches its own route only. -/
theorem Chip.fire_word (c : Chip) (e : Nat) {r : Reg} (h : r.key ≠ (HUB_EVT_ROUTE e).key) : (c.fire e).word r = c.word r := by
  have h1 : ∀ v, (c.put (HUB_EVT_ROUTE.PENDING e) v).word r = c.word r := fun v => Chip.word_put_ne c _ v h
  have h2 : (c.incSat (HUB_EVT_ROUTE.MERGED e) 1).word r = c.word r := Chip.word_incSat_ne c _ 1 h
  unfold Chip.fire
  split
  · split
    · exact h2
    · dsimp only
      split
      · rw [Chip.word_emit]
        exact h1 1
      · split
        · rw [Chip.word_congr (Chip.sendMsix_regs _ _ _)]
          exact h1 1
        · exact h1 1
  · rfl

/-- An enabled event that is not pending becomes pending. -/
theorem Chip.fire_pending (c : Chip) (e : Nat) (h : c.on (HUB_EVT_ROUTE.ENABLE e) = true)
    (hp : c.on (HUB_EVT_ROUTE.PENDING e) = false) : (c.fire e).get (HUB_EVT_ROUTE.PENDING e) = 1 := by
  have h1 : (c.put (HUB_EVT_ROUTE.PENDING e) 1).get (HUB_EVT_ROUTE.PENDING e) = 1 :=
    Chip.get_put_same c (HUB_EVT_ROUTE.PENDING e) 1 (show 19 + 1 ≤ 64 by decide)
  unfold Chip.fire
  simp only [h, hp, if_true, Bool.false_eq_true, if_false]
  split
  · rw [Chip.get_emit]
    exact h1
  · split
    · rw [Chip.get_congr (Chip.sendMsix_regs _ _ _)]
      exact h1
    · exact h1

theorem Chip.fireB_eventsOnly (c : Chip) (b i : Nat) : c.EventsOnly (c.fireB b i) := c.fire_eventsOnly _

/-! ### Counters (R458-R460) -/

/-- Event 12 and its record touch registers, what leaves the part, and held interrupts. -/
theorem Chip.ctrEv_eventsOnly (c : Chip) (off kind : Nat) : c.EventsOnly (c.ctrEv off kind) := by
  unfold Chip.ctrEv
  dsimp only
  split
  · exact c.fire_eventsOnly 12
  · exact (((c.put_eventsOnly _ _).trans (Chip.put_eventsOnly _ _ _)).trans (Chip.put_eventsOnly _ _ _)).trans
      (Chip.fire_eventsOnly _ 12)

theorem Chip.count_eventsOnly (c : Chip) (r : Reg) (n : Nat) : c.EventsOnly (c.count r n) := by
  unfold Chip.count
  dsimp only
  split
  · exact .refl c
  · split
    · exact c.setWord_eventsOnly _ _
    · exact (c.setWord_eventsOnly _ _).trans (Chip.ctrEv_eventsOnly _ _ _)

theorem Chip.volume_eventsOnly (c : Chip) (r : Reg) (ep : RF) (n : Nat) : c.EventsOnly (c.volume r ep n) := by
  unfold Chip.volume
  dsimp only
  split
  · exact c.setWord_eventsOnly _ _
  · exact ((c.setWord_eventsOnly _ _).trans (Chip.inc_eventsOnly _ _)).trans (Chip.ctrEv_eventsOnly _ _ _)

/-- No occurrence changes nothing. -/
theorem Chip.count_zero (c : Chip) (r : Reg) : c.count r 0 = c := by
  simp [Chip.count]

/-- Below its maximum an event counter that has not saturated goes up by the number of occurrences. -/
theorem Chip.count_below (c : Chip) (r : Reg) (n : Nat) (h : bit (c.word r) 63 = false) (hn : bits (c.word r) 0 48 + n ≤ 2 ^ 48 - 1) :
    bits ((c.count r n).word r) 0 48 = bits (c.word r) 0 48 + n := by
  unfold Chip.count
  simp only [if_pos hn]
  split
  · rename_i h1
    rcases h1 with h1 | h1
    · rw [h] at h1
      cases h1
    · simp [h1]
  · rw [Chip.word_setWord_same, Nat.mod_eq_of_lt (setBits_lt (c.word_lt r) (by decide)), bits_setBits_same,
      Nat.mod_eq_of_lt (by omega)]

/-! ### How a command acts -/

/-- An event of the part changes the queue of commands and the security unit never. -/
theorem live_next (f : Chip → Chip) (s : State) : live f s = .next (if s.chip.pwr.on then { s with chip := f s.chip } else s) := rfl

theorem live_on {f : Chip → Chip} {s : State} (h : s.chip.pwr.on = true) : live f s = .next { s with chip := f s.chip } := by
  simp [live, h]

theorem live_frame {f : Chip → Chip} {s t : State} (h : live f s = .next t) : t.pending = s.pending ∧ t.sec = s.sec := by
  unfold live at h
  cases h
  split <;> exact ⟨rfl, rfl⟩

theorem onChip_frame {f : Chip → Chip} {s t : State} (h : onChip f s = .next t) : t.pending = s.pending ∧ t.sec = s.sec := by
  cases h
  exact ⟨rfl, rfl⟩

theorem byReg_heard {ag : Agent} {off : Nat} {f : Chip → Chip} {s : State} (h : s.chip.hears ag off = true) :
    byReg ag off f s = .next { s with chip := f s.chip } := by
  simp [byReg, h]

theorem byReg_unheard {ag : Agent} {off : Nat} {f : Chip → Chip} {s : State} (h : s.chip.hears ag off = false) :
    byReg ag off f s = .next s := by
  simp [byReg, h]

theorem byReg_frame {ag : Agent} {off : Nat} {f : Chip → Chip} {s t : State} (h : byReg ag off f s = .next t) :
    t.pending = s.pending ∧ t.sec = s.sec := by
  unfold byReg at h
  cases h
  split <;> exact ⟨rfl, rfl⟩

theorem byRead_frame {ag : Agent} {off : Nat} {f : Chip → Chip} {s t : State} (h : byRead ag off f s = .next t) :
    t.pending = s.pending ∧ t.sec = s.sec := by
  unfold byRead at h
  cases h
  split <;> exact ⟨rfl, rfl⟩

/-! ### Memory through places -/

/-- Bytes written to HBM where nothing is poisoned read back. -/
theorem Chip.rd_wrHbm_same (c : Chip) (k : Nat) (bs : List Byte) (h : c.poison = []) : (c.wrHbm k bs).mem.reads k bs.length = bs := by
  simp [Chip.wrHbm, h, Mem.reads_write_same]

/-- A write to HBM where nothing is poisoned leaves every byte outside it. -/
theorem Chip.read_wrHbm_ne (c : Chip) (k x : Nat) (bs : List Byte) (h : c.poison = []) (hx : x < k ∨ k + bs.length ≤ x) :
    (c.wrHbm k bs).mem.read x = c.mem.read x := by
  simp [Chip.wrHbm, h, Mem.read_write_ne _ _ hx]

theorem foldl_write1_wf {α : Type} (l : List α) (f : Mem → α → Mem) (h : ∀ m a, m.wf = true → (f m a).wf = true) {m : Mem} (hm : m.wf = true) :
    (l.foldl f m).wf = true := by
  induction l generalizing m with
  | nil => exact hm
  | cons a t ih => exact ih (h m a hm)

/-- A write to HBM keeps memory's canonical form, poisoned granules or not. -/
theorem Chip.wrHbm_wf {c : Chip} (k : Nat) (bs : List Byte) (h : c.mem.wf = true) : (c.wrHbm k bs).mem.wf = true := by
  unfold Chip.wrHbm
  dsimp only
  split
  · exact Mem.write_wf k bs h
  · refine foldl_write1_wf _ _ (fun m e hm => ?_) h
    split
    · exact hm
    · exact Mem.write1_wf _ _ hm

/-- The loss of a range keeps memory's canonical form. -/
theorem Chip.lose_wf {c : Chip} (key len : Nat) (h : c.mem.wf = true) : (c.lose key len).mem.wf = true := Mem.lose_wf key len _ h

end Sys2Proof.Machine
end

