-- ==== Sys2Proof/Laws/PerInstr.lean ====
section
/-! SUPPORT. What holds of every command as syntax, one lemma per constructor. Family F: a well-formed command that reaches the part
through its register window names an agent that exists and a register inside the window. -/
namespace Sys2Proof.Laws.F
open Sys2Proof.Machine
set_option Elab.async false

/-- A well-formed command whose path is the register window has a well-formed agent and an 8-byte register inside the 64 MiB window
(R10, R35, R434). -/
def Statement (i : Instr) : Prop :=
  i.wf = true → ∀ (ag : Agent) (off : Nat), (pathOfCommand i = .regWrite ag off ∨ pathOfCommand i = .regRead ag off) →
    wfAgent ag = true ∧ off < 0x4000000 ∧ off % 8 = 0

/-- A command of another path meets the statement. -/
theorem of_other {i : Instr} (h : ∀ ag off, pathOfCommand i ≠ .regWrite ag off ∧ pathOfCommand i ≠ .regRead ag off) : Statement i :=
  fun _ ag off hp => absurd hp (by have := h ag off; tauto)

/-- A command at a fixed place of the window meets it. -/
theorem of_path {i : Instr} {a : Agent} {o : Nat} (hp : pathOfCommand i = .regWrite a o ∨ pathOfCommand i = .regRead a o)
    (ha : i.wf = true → wfAgent a = true) (ho : i.wf = true → o < 0x4000000 ∧ o % 8 = 0) : Statement i := by
  intro hw ag off h
  have e : a = ag ∧ o = off := by
    rcases hp with hp | hp <;> rcases h with h | h <;> rw [hp] at h <;> cases h <;> exact ⟨rfl, rfl⟩
  exact ⟨e.1 ▸ ha hw, e.2 ▸ ho hw⟩

theorem standbyPowerOn (feed : BitVec 8) (inst : BitVec 4) : Statement (.standbyPowerOn feed inst) :=
  of_other (fun _ _ => ⟨nofun, nofun⟩)
theorem standbyPowerLoss : Statement .standbyPowerLoss :=
  of_other (fun _ _ => ⟨nofun, nofun⟩)
theorem powerGood (feed : BitVec 8) (inst : BitVec 4) : Statement (.powerGood feed inst) :=
  of_other (fun _ _ => ⟨nofun, nofun⟩)
theorem bootReady (ms : Nat) (bad : List Nat) : Statement (.bootReady ms bad) :=
  of_other (fun _ _ => ⟨nofun, nofun⟩)
theorem powerFail (kind : Fin 3) : Statement (.powerFail kind) :=
  of_other (fun _ _ => ⟨nofun, nofun⟩)
theorem lastGaspReceive (g : Gasp) : Statement (.lastGaspReceive g) :=
  of_other (fun _ _ => ⟨nofun, nofun⟩)
theorem perstAssert : Statement .perstAssert :=
  of_other (fun _ _ => ⟨nofun, nofun⟩)
theorem pfFlr : Statement .pfFlr :=
  of_other (fun _ _ => ⟨nofun, nofun⟩)
theorem vfFlr (n : Fin 64) : Statement (.vfFlr n) :=
  of_other (fun _ _ => ⟨nofun, nofun⟩)
theorem pcieLinkUp (rate : Fin 8) (width : Fin 9) (flit : Bool) : Statement (.pcieLinkUp rate width flit) :=
  of_other (fun _ _ => ⟨nofun, nofun⟩)
theorem pcieLinkDown : Statement .pcieLinkDown :=
  of_other (fun _ _ => ⟨nofun, nofun⟩)
theorem referenceLoss : Statement .referenceLoss :=
  of_other (fun _ _ => ⟨nofun, nofun⟩)
theorem referenceLossTimeout : Statement .referenceLossTimeout :=
  of_other (fun _ _ => ⟨nofun, nofun⟩)
theorem referenceReturn : Statement .referenceReturn :=
  of_other (fun _ _ => ⟨nofun, nofun⟩)
theorem hostBarAccess (ag : Agent) (bar : Nat) (off : Nat) (len : Nat) (data : Option (List Byte)) : Statement (.hostBarAccess ag bar off len data) :=
  of_other (fun _ _ => ⟨nofun, nofun⟩)
theorem registerWrite (ag : Agent) (off : Nat) (v : Word) : Statement (.registerWrite ag off v) :=
  of_other (fun _ _ => ⟨nofun, nofun⟩)
theorem doorbell (ag : Agent) (b : Fin 6) (q : Fin 64) (tail : BitVec 16) : Statement (.doorbell ag b q tail) :=
  of_other (fun _ _ => ⟨nofun, nofun⟩)
theorem copyDoorbell (ag : Agent) (ch : Fin 16) (tail : BitVec 16) : Statement (.copyDoorbell ag ch tail) :=
  of_other (fun _ _ => ⟨nofun, nofun⟩)
theorem copyDescriptorStart (ch : Fin 16) (pages : List (Nat × Option Nat)) : Statement (.copyDescriptorStart ch pages) :=
  of_other (fun _ _ => ⟨nofun, nofun⟩)
theorem copyDescriptorComplete (ch : Fin 16) (data : List Byte) (bad : Bool) : Statement (.copyDescriptorComplete ch data bad) :=
  of_other (fun _ _ => ⟨nofun, nofun⟩)
theorem copyResume (ag : Agent) (ch : Fin 16) : Statement (.copyResume ag ch) :=
  of_path (.inl rfl) (by simp +contextual [Instr.wf]) (by intro; decide)
theorem vfBind (ag : Agent) (n : Fin 64) (isMask : Bool) (v : Word) : Statement (.vfBind ag n isMask v) :=
  of_path (.inl rfl) (by simp +contextual [Instr.wf]) (by intro; decide)
theorem notifyArm (ag : Agent) (j : Fin 256) (v : Word) : Statement (.notifyArm ag j v) :=
  of_path (.inl rfl) (by simp +contextual [Instr.wf]) (by intro; decide)
theorem mctpMessage (m : Mctp) : Statement (.mctpMessage m) :=
  of_other (fun _ _ => ⟨nofun, nofun⟩)
theorem statusCmd (ag : Agent) : Statement (.statusCmd ag) :=
  of_other (fun _ _ => ⟨nofun, nofun⟩)
theorem logRead (ag : Agent) (off : Nat) (len : Nat) : Statement (.logRead ag off len) :=
  of_other (fun _ _ => ⟨nofun, nofun⟩)
theorem certs (ag : Agent) : Statement (.certs ag) :=
  of_other (fun _ _ => ⟨nofun, nofun⟩)
theorem hallmark (ag : Agent) (nonce : List Byte) : Statement (.hallmark ag nonce) :=
  of_other (fun _ _ => ⟨nofun, nofun⟩)
theorem imageStage (ag : Agent) (kind : Nat) (off : Nat) (data : List Byte) : Statement (.imageStage ag kind off data) :=
  of_other (fun _ _ => ⟨nofun, nofun⟩)
theorem imageCommit (ag : Agent) (kind : Nat) : Statement (.imageCommit ag kind) :=
  of_other (fun _ _ => ⟨nofun, nofun⟩)
theorem liveUpdate (ag : Agent) (starts : Bool) : Statement (.liveUpdate ag starts) :=
  of_other (fun _ _ => ⟨nofun, nofun⟩)
theorem cfgStage (ag : Agent) (off : Nat) (data : List Byte) : Statement (.cfgStage ag off data) :=
  of_other (fun _ _ => ⟨nofun, nofun⟩)
theorem cfgCommit (ag : Agent) : Statement (.cfgCommit ag) :=
  of_other (fun _ _ => ⟨nofun, nofun⟩)
theorem cfgRevert (ag : Agent) : Statement (.cfgRevert ag) :=
  of_other (fun _ _ => ⟨nofun, nofun⟩)
theorem cfgRestore (ag : Agent) (k : Nat) : Statement (.cfgRestore ag k) :=
  of_other (fun _ _ => ⟨nofun, nofun⟩)
theorem ownerSet (ag : Agent) (record : List Byte) : Statement (.ownerSet ag record) :=
  of_other (fun _ _ => ⟨nofun, nofun⟩)
theorem resetCmd (ag : Agent) : Statement (.resetCmd ag) :=
  of_other (fun _ _ => ⟨nofun, nofun⟩)
theorem debugChallenge (ag : Agent) : Statement (.debugChallenge ag) :=
  of_other (fun _ _ => ⟨nofun, nofun⟩)
theorem debugUnlock (ag : Agent) (level : Nat) (token : List Byte) : Statement (.debugUnlock ag level token) :=
  of_other (fun _ _ => ⟨nofun, nofun⟩)
theorem debugLock (ag : Agent) : Statement (.debugLock ag) :=
  of_other (fun _ _ => ⟨nofun, nofun⟩)
theorem debugAccess (ag : Agent) (d : DbgOp) : Statement (.debugAccess ag d) :=
  of_other (fun _ _ => ⟨nofun, nofun⟩)
theorem knownGoodTimer : Statement .knownGoodTimer :=
  of_other (fun _ _ => ⟨nofun, nofun⟩)
theorem partRecordCommit : Statement .partRecordCommit :=
  of_other (fun _ _ => ⟨nofun, nofun⟩)
theorem primaryHeartbeatLoss (reported : Bool) : Statement (.primaryHeartbeatLoss reported) :=
  of_other (fun _ _ => ⟨nofun, nofun⟩)
theorem switchHub (ag : Agent) : Statement (.switchHub ag) :=
  of_path (.inl rfl) (by simp +contextual [Instr.wf]) (by intro; decide)
theorem forgeHeartbeatLoss (n : Fin 26) : Statement (.forgeHeartbeatLoss n) :=
  of_other (fun _ _ => ⟨nofun, nofun⟩)
theorem forgeDieError (n : Fin 26) : Statement (.forgeDieError n) :=
  of_other (fun _ _ => ⟨nofun, nofun⟩)
theorem substitutionComplete (b : Fin 6) : Statement (.substitutionComplete b) :=
  of_other (fun _ _ => ⟨nofun, nofun⟩)
theorem assayRetest (n : Fin 26) (good : Bool) : Statement (.assayRetest n good) :=
  of_other (fun _ _ => ⟨nofun, nofun⟩)
theorem spareBackgroundTest (n : Fin 26) (good : Bool) : Statement (.spareBackgroundTest n good) :=
  of_other (fun _ _ => ⟨nofun, nofun⟩)
theorem routerFailure (n : Fin 32) : Statement (.routerFailure n) :=
  of_other (fun _ _ => ⟨nofun, nofun⟩)
theorem spareSubstitute (ag : Agent) (target : Fin 32) (spare : Fin 32) : Statement (.spareSubstitute ag target spare) :=
  of_path (.inl rfl) (by simp +contextual [Instr.wf]) (by intro; decide)
theorem spareReturn (ag : Agent) (target : Fin 32) : Statement (.spareReturn ag target) :=
  of_path (.inl rfl) (by simp +contextual [Instr.wf]) (by intro; decide)
theorem spareRetire (ag : Agent) (target : Fin 32) : Statement (.spareRetire ag target) :=
  of_path (.inl rfl) (by simp +contextual [Instr.wf]) (by intro; decide)
theorem spareCmdComplete : Statement .spareCmdComplete :=
  of_other (fun _ _ => ⟨nofun, nofun⟩)
theorem bundleIssue (kc : Fin 104) (sq : Fin 2) : Statement (.bundleIssue kc sq) :=
  of_other (fun _ _ => ⟨nofun, nofun⟩)
theorem loadDataReturn (kc : Fin 104) (sq : Fin 2) (ld : Nat) : Statement (.loadDataReturn kc sq ld) :=
  of_other (fun _ _ => ⟨nofun, nofun⟩)
theorem tileLoadStart (e : ArrayEvent) (staged : Bool) : Statement (.tileLoadStart e staged) :=
  of_other (fun _ _ => ⟨nofun, nofun⟩)
theorem tileLoadComplete (kc : Fin 104) : Statement (.tileLoadComplete kc) :=
  of_other (fun _ _ => ⟨nofun, nofun⟩)
theorem stagedStartEnd (kc : Fin 104) : Statement (.stagedStartEnd kc) :=
  of_other (fun _ _ => ⟨nofun, nofun⟩)
theorem passStart (e : ArrayEvent) (waited : Nat) : Statement (.passStart e waited) :=
  of_other (fun _ _ => ⟨nofun, nofun⟩)
theorem passSumsComplete (kc : Fin 104) (bad : Option Nat) : Statement (.passSumsComplete kc bad) :=
  of_other (fun _ _ => ⟨nofun, nofun⟩)
theorem arrayLineTestDone (kc : Fin 104) (found : Option (Bool × Nat)) : Statement (.arrayLineTestDone kc found) :=
  of_other (fun _ _ => ⟨nofun, nofun⟩)
theorem plannedLineMapping (kc : Fin 104) (col : Bool) (line : Nat) : Statement (.plannedLineMapping kc col line) :=
  of_other (fun _ _ => ⟨nofun, nofun⟩)
theorem drainStart (e : ArrayEvent) : Statement (.drainStart e) :=
  of_other (fun _ _ => ⟨nofun, nofun⟩)
theorem drainComplete (kc : Fin 104) : Statement (.drainComplete kc) :=
  of_other (fun _ _ => ⟨nofun, nofun⟩)
theorem lwaitRelease (kc : Fin 104) (sq : Fin 2) : Statement (.lwaitRelease kc sq) :=
  of_other (fun _ _ => ⟨nofun, nofun⟩)
theorem latchOpApply (b : Fin 6) (id : Nat) : Statement (.latchOpApply b id) :=
  of_other (fun _ _ => ⟨nofun, nofun⟩)
theorem fenceComplete (kc : Fin 104) (sq : Fin 2) : Statement (.fenceComplete kc sq) :=
  of_other (fun _ _ => ⟨nofun, nofun⟩)
theorem msyncRelease (kc : Fin 104) (sq : Fin 2) : Statement (.msyncRelease kc sq) :=
  of_other (fun _ _ => ⟨nofun, nofun⟩)
theorem spoutCopyComplete (id : Nat) : Statement (.spoutCopyComplete id) :=
  of_other (fun _ _ => ⟨nofun, nofun⟩)
theorem nop (b : Fin 6) (q : Fin 64) : Statement (.nop b q) :=
  of_other (fun _ _ => ⟨nofun, nofun⟩)
theorem launch (b : Fin 6) (q : Fin 64) : Statement (.launch b q) :=
  of_other (fun _ _ => ⟨nofun, nofun⟩)
theorem spoutPacket (b : Fin 6) (q : Fin 64) : Statement (.spoutPacket b q) :=
  of_other (fun _ _ => ⟨nofun, nofun⟩)
theorem temper (b : Fin 6) (q : Fin 64) (slot : Fin 5) : Statement (.temper b q slot) :=
  of_other (fun _ _ => ⟨nofun, nofun⟩)
theorem ladle (b : Fin 6) (q : Fin 64) (slot : Fin 5) : Statement (.ladle b q slot) :=
  of_other (fun _ _ => ⟨nofun, nofun⟩)
theorem batchBind (b : Fin 6) (q : Fin 64) : Statement (.batchBind b q) :=
  of_other (fun _ _ => ⟨nofun, nofun⟩)
theorem batchAppend (b : Fin 6) (q : Fin 64) : Statement (.batchAppend b q) :=
  of_other (fun _ _ => ⟨nofun, nofun⟩)
theorem batchFlush (b : Fin 6) (q : Fin 64) : Statement (.batchFlush b q) :=
  of_other (fun _ _ => ⟨nofun, nofun⟩)
theorem sealStep (b : Fin 6) (q : Fin 64) : Statement (.sealStep b q) :=
  of_other (fun _ _ => ⟨nofun, nofun⟩)
theorem agree (b : Fin 6) (q : Fin 64) : Statement (.agree b q) :=
  of_other (fun _ _ => ⟨nofun, nofun⟩)
theorem barrier (b : Fin 6) (q : Fin 64) : Statement (.barrier b q) :=
  of_other (fun _ _ => ⟨nofun, nofun⟩)
theorem pour (b : Fin 6) (q : Fin 64) : Statement (.pour b q) :=
  of_other (fun _ _ => ⟨nofun, nofun⟩)
theorem pourTake (b : Fin 6) : Statement (.pourTake b) :=
  of_other (fun _ _ => ⟨nofun, nofun⟩)
theorem kernelComplete (kc : Fin 104) : Statement (.kernelComplete kc) :=
  of_other (fun _ _ => ⟨nofun, nofun⟩)
theorem sideBudgetExpiry (kc : Fin 104) : Statement (.sideBudgetExpiry kc) :=
  of_other (fun _ _ => ⟨nofun, nofun⟩)
theorem queueRelease (ag : Agent) (b : Fin 6) (q : Fin 64) : Statement (.queueRelease ag b q) :=
  of_path (.inl rfl) (by simp +contextual [Instr.wf]) (by intro; decide)
theorem queueDiscard (ag : Agent) (b : Fin 6) (q : Fin 64) : Statement (.queueDiscard ag b q) :=
  of_path (.inl rfl) (by simp +contextual [Instr.wf]) (by intro; decide)
theorem ctrlPacket (w : BitVec 256) (via : Option (Fin 8)) : Statement (.ctrlPacket w via) :=
  of_other (fun _ _ => ⟨nofun, nofun⟩)
theorem barrierTimeout (b : Fin 6) (x : Fin 16) : Statement (.barrierTimeout b x) :=
  of_other (fun _ _ => ⟨nofun, nofun⟩)
theorem cancel (ag : Agent) (b : Fin 6) (x : Fin 16) : Statement (.cancel ag b x) :=
  of_path (.inl rfl) (by simp +contextual [Instr.wf]) (by intro; decide)
theorem agreeTimeout (b : Fin 6) : Statement (.agreeTimeout b) :=
  of_other (fun _ _ => ⟨nofun, nofun⟩)
theorem agreeCtlRelease (ag : Agent) (b : Fin 6) (n : BitVec 32) : Statement (.agreeCtlRelease ag b n) :=
  of_path (.inl rfl) (by simp +contextual [Instr.wf]) (by intro; decide)
theorem agreeCtlAbandon (ag : Agent) (b : Fin 6) (n : BitVec 32) : Statement (.agreeCtlAbandon ag b n) :=
  of_path (.inl rfl) (by simp +contextual [Instr.wf]) (by intro; decide)
theorem agreeCtlTaint (ag : Agent) (b : Fin 6) : Statement (.agreeCtlTaint ag b) :=
  of_path (.inl rfl) (by simp +contextual [Instr.wf]) (by intro; decide)
theorem lossIn (ag : Agent) (b : Fin 6) (loss : BitVec 32) : Statement (.lossIn ag b loss) :=
  of_path (.inl rfl) (by simp +contextual [Instr.wf]) (by intro; decide)
theorem lossRestart (ag : Agent) (b : Fin 6) : Statement (.lossRestart ag b) :=
  of_path (.inl rfl) (by simp +contextual [Instr.wf]) (by intro; decide)
theorem nanTrapRearm (ag : Agent) (b : Fin 6) : Statement (.nanTrapRearm ag b) :=
  of_path (.inl rfl) (by simp +contextual [Instr.wf]) (by intro; decide)
theorem batchDeadline (b : Fin 6) (x : Fin 8) : Statement (.batchDeadline b x) :=
  of_other (fun _ _ => ⟨nofun, nofun⟩)
theorem batchRelease (b : Fin 6) (x : Fin 8) : Statement (.batchRelease b x) :=
  of_other (fun _ _ => ⟨nofun, nofun⟩)
theorem batchCfgFlush (ag : Agent) (b : Fin 6) (x : Fin 8) : Statement (.batchCfgFlush ag b x) :=
  of_path (.inl rfl) (by simp +contextual [Instr.wf]) (by intro; decide)
theorem batchDisable (ag : Agent) (b : Fin 6) (x : Fin 8) : Statement (.batchDisable ag b x) :=
  of_path (.inl rfl) (by simp +contextual [Instr.wf]) (by intro; decide)
theorem temperCmdStart (n : Fin 26) : Statement (.temperCmdStart n) :=
  of_other (fun _ _ => ⟨nofun, nofun⟩)
theorem temperChunkPosted (n : Fin 26) : Statement (.temperChunkPosted n) :=
  of_other (fun _ _ => ⟨nofun, nofun⟩)
theorem temperCmdComplete (n : Fin 26) : Statement (.temperCmdComplete n) :=
  of_other (fun _ _ => ⟨nofun, nofun⟩)
theorem temperFault (n : Fin 26) : Statement (.temperFault n) :=
  of_other (fun _ _ => ⟨nofun, nofun⟩)
theorem ladleCmdStart (n : Fin 26) (upd : Bool) : Statement (.ladleCmdStart n upd) :=
  of_other (fun _ _ => ⟨nofun, nofun⟩)
theorem ladleRowTimeout (op : Nat) : Statement (.ladleRowTimeout op) :=
  of_other (fun _ _ => ⟨nofun, nofun⟩)
theorem ladleCmdComplete (n : Fin 26) (upd : Bool) : Statement (.ladleCmdComplete n upd) :=
  of_other (fun _ _ => ⟨nofun, nofun⟩)
theorem hbmReadRequest (a : Nat) (n : Nat) (syms : Nat) (mates : RowMates) (ns : Nat) (who : Reader) : Statement (.hbmReadRequest a n syms mates ns who) :=
  of_other (fun _ _ => ⟨nofun, nofun⟩)
theorem hbmWriteRequest (a : Nat) (data : List Byte) (syms : Nat) (mates : RowMates) (who : Reader) : Statement (.hbmWriteRequest a data syms mates who) :=
  of_other (fun _ _ => ⟨nofun, nofun⟩)
theorem bankRefresh (k : Fin 12) (p : Fin 65) (bank : Fin 256) (waiting : Bool) : Statement (.bankRefresh k p bank waiting) :=
  of_other (fun _ _ => ⟨nofun, nofun⟩)
theorem scrubRead (at' : ScrubRef) (syms : Nat) (mates : RowMates) (last : Bool) : Statement (.scrubRead at' syms mates last) :=
  of_other (fun _ _ => ⟨nofun, nofun⟩)
theorem pseudoChannelLoss (k : Fin 12) (p : Fin 65) (channel : Bool) : Statement (.pseudoChannelLoss k p channel) :=
  of_other (fun _ _ => ⟨nofun, nofun⟩)
theorem requestHoldRelease (k : Fin 12) : Statement (.requestHoldRelease k) :=
  of_other (fun _ _ => ⟨nofun, nofun⟩)
theorem rebuildComplete (k : Fin 12) : Statement (.rebuildComplete k) :=
  of_other (fun _ _ => ⟨nofun, nofun⟩)
theorem hbmSpareCopy (ag : Agent) (k : Fin 12) (p : Fin 64) : Statement (.hbmSpareCopy ag k p) :=
  of_path (.inl rfl) (by simp +contextual [Instr.wf]) (by intro; decide)
theorem plannedCopyComplete (k : Fin 12) : Statement (.plannedCopyComplete k) :=
  of_other (fun _ _ => ⟨nofun, nofun⟩)
theorem cisternScrub (kc : Fin 104) (off : Nat) (errs : Nat) : Statement (.cisternScrub kc off errs) :=
  of_other (fun _ _ => ⟨nofun, nofun⟩)
theorem cisternBankTestDone (kc : Fin 104) (bank : Fin 64) (row : Option Nat) : Statement (.cisternBankTestDone kc bank row) :=
  of_other (fun _ _ => ⟨nofun, nofun⟩)
theorem urgentMaxRead (ag : Agent) (k : Fin 12) : Statement (.urgentMaxRead ag k) :=
  of_path (.inr rfl) (by simp +contextual [Instr.wf]) (fun _ => (by decide : ∀ x : Fin 12, (HBM_URGENT_MAX x).key < 0x4000000 ∧ (HBM_URGENT_MAX x).key % 8 = 0) k)
theorem frameTransmit (p : Fin 8) : Statement (.frameTransmit p) :=
  of_other (fun _ _ => ⟨nofun, nofun⟩)
theorem frameReceive (p : Fin 8) (frame : BitVec 16) (ctl : BitVec 48) (link : BitVec 64) (ber : BitVec 16) (crc : BitVec 16) (errs : List (Nat × Nat)) (unlocked : List Nat) (ends : List RxEnd) (tail : Option Nat) : Statement (.frameReceive p frame ctl link ber crc errs unlocked ends tail) :=
  of_other (fun _ _ => ⟨nofun, nofun⟩)
theorem remap (p : Fin 8) (lane : Fin 16) (w : Fin 18) (f : BitVec 16) (kind : Fin 2) (same : Bool) : Statement (.remap p lane w f kind same) :=
  of_other (fun _ _ => ⟨nofun, nofun⟩)
theorem remapAck (p : Fin 8) (lane : Fin 16) (w : Fin 18) (f : BitVec 16) (refuse : Bool) : Statement (.remapAck p lane w f refuse) :=
  of_other (fun _ _ => ⟨nofun, nofun⟩)
theorem laneDown (p : Fin 8) (lane : Fin 16) : Statement (.laneDown p lane) :=
  of_other (fun _ _ => ⟨nofun, nofun⟩)
theorem dark (p : Fin 8) (cause : Fin 16) (lead : BitVec 8) : Statement (.dark p cause lead) :=
  of_other (fun _ _ => ⟨nofun, nofun⟩)
theorem idCtl (p : Fin 8) (coord : BitVec 18) (port : Fin 8) (fec : Bool) (spares : Fin 4) (ver : BitVec 16) (startup : Bool) : Statement (.idCtl p coord port fec spares ver startup) :=
  of_other (fun _ _ => ⟨nofun, nofun⟩)
theorem cal (p : Fin 8) (w : Fin 32) (action : Fin 8) : Statement (.cal p w action) :=
  of_other (fun _ _ => ⟨nofun, nofun⟩)
theorem lossOfLight (p : Fin 8) : Statement (.lossOfLight p) :=
  of_other (fun _ _ => ⟨nofun, nofun⟩)
theorem laserLightDrop (p : Fin 8) (w : Fin 18) : Statement (.laserLightDrop p w) :=
  of_other (fun _ _ => ⟨nofun, nofun⟩)
theorem lightDetected (p : Fin 8) : Statement (.lightDetected p) :=
  of_other (fun _ _ => ⟨nofun, nofun⟩)
theorem acquisitionComplete (p : Fin 8) (rtt : Nat) (bers : List (Nat × Nat)) (losses : List Nat) (waves : FarWaves) (peer : FarEnd) : Statement (.acquisitionComplete p rtt bers losses waves peer) :=
  of_other (fun _ _ => ⟨nofun, nofun⟩)
theorem retrain (ag : Agent) (p : Fin 8) : Statement (.retrain ag p) :=
  of_path (.inl rfl) (by simp +contextual [Instr.wf]) (by intro; decide)
theorem laserEvaluation (p : Fin 8) (w : Fin 18) (fade : Nat) (fadePred : Nat) (berPred : Nat) (power : Nat) (bias : Nat) (headroom : Nat) (rx : List (Nat × Nat)) : Statement (.laserEvaluation p w fade fadePred berPred power bias headroom rx) :=
  of_other (fun _ _ => ⟨nofun, nofun⟩)
theorem remapGo (ag : Agent) (p : Fin 8) (lane : Fin 16) : Statement (.remapGo ag p lane) :=
  of_path (.inl rfl) (by simp +contextual [Instr.wf]) (by intro; decide)
theorem remapSwitch (p : Fin 8) : Statement (.remapSwitch p) :=
  of_other (fun _ _ => ⟨nofun, nofun⟩)
theorem remapRetry (p : Fin 8) : Statement (.remapRetry p) :=
  of_other (fun _ _ => ⟨nofun, nofun⟩)
theorem returnGo (ag : Agent) (p : Fin 8) (w : Fin 32) : Statement (.returnGo ag p w) :=
  of_path (.inl rfl) (by simp +contextual [Instr.wf]) (by intro; decide)
theorem laserReturnDone (p : Fin 8) (w : Fin 18) (fade : Nat) (ber : Nat) : Statement (.laserReturnDone p w fade ber) :=
  of_other (fun _ _ => ⟨nofun, nofun⟩)
theorem weirMeasure (ag : Agent) (p : Fin 8) (kind : Fin 8) (w : Fin 32) (v : Fin 32) (integ : Fin 8) : Statement (.weirMeasure ag p kind w v integ) :=
  of_path (.inl rfl) (by simp +contextual [Instr.wf]) (by intro; decide)
theorem weirMeasureDone (p : Fin 8) (value : Nat) (enob : Nat) : Statement (.weirMeasureDone p value enob) :=
  of_other (fun _ _ => ⟨nofun, nofun⟩)
theorem applyMap (ag : Agent) : Statement (.applyMap ag) :=
  of_path (.inl rfl) (by simp +contextual [Instr.wf]) (by intro; decide)
theorem barMap (ag : Agent) : Statement (.barMap ag) :=
  of_path (.inl rfl) (by simp +contextual [Instr.wf]) (by intro; decide)
theorem sluiceSwitch : Statement .sluiceSwitch :=
  of_other (fun _ _ => ⟨nofun, nofun⟩)
theorem fountainDieLoss (d : Fin 4) : Statement (.fountainDieLoss d) :=
  of_other (fun _ _ => ⟨nofun, nofun⟩)
theorem linkPacketStart (p : Fin 8) (uOver : Bool) : Statement (.linkPacketStart p uOver) :=
  of_other (fun _ _ => ⟨nofun, nofun⟩)
theorem routerForward (w : BitVec 256) (payload : List Byte) (via : Option (Fin 8)) (rev : Bool) (hop : HopIn) : Statement (.routerForward w payload via rev hop) :=
  of_other (fun _ _ => ⟨nofun, nofun⟩)
theorem putPacket (w : BitVec 256) (payload : List Byte) (via : Option (Fin 8)) : Statement (.putPacket w payload via) :=
  of_other (fun _ _ => ⟨nofun, nofun⟩)
theorem getPacket (w : BitVec 256) (via : Option (Fin 8)) : Statement (.getPacket w via) :=
  of_other (fun _ _ => ⟨nofun, nofun⟩)
theorem getOrdRelease (nth : Nat) : Statement (.getOrdRelease nth) :=
  of_other (fun _ _ => ⟨nofun, nofun⟩)
theorem getRespPacket (w : BitVec 256) (payload : List Byte) (via : Option (Fin 8)) : Statement (.getRespPacket w payload via) :=
  of_other (fun _ _ => ⟨nofun, nofun⟩)
theorem aaddIPacket (w : BitVec 256) (payload : List Byte) (via : Option (Fin 8)) : Statement (.aaddIPacket w payload via) :=
  of_other (fun _ _ => ⟨nofun, nofun⟩)
theorem aaddFPacket (w : BitVec 256) (payload : List Byte) (via : Option (Fin 8)) : Statement (.aaddFPacket w payload via) :=
  of_other (fun _ _ => ⟨nofun, nofun⟩)
theorem reducePutPacket (w : BitVec 256) (payload : List Byte) (via : Option (Fin 8)) : Statement (.reducePutPacket w payload via) :=
  of_other (fun _ _ => ⟨nofun, nofun⟩)
theorem mcastPutPacket (w : BitVec 256) (payload : List Byte) (via : Option (Fin 8)) : Statement (.mcastPutPacket w payload via) :=
  of_other (fun _ _ => ⟨nofun, nofun⟩)
theorem ackPacket (w : BitVec 256) (via : Option (Fin 8)) : Statement (.ackPacket w via) :=
  of_other (fun _ _ => ⟨nofun, nofun⟩)
theorem ackTimeout (b : Fin 6) (coord : BitVec 18) (dbasin : Fin 8) (run : Fin 4) : Statement (.ackTimeout b coord dbasin run) :=
  of_other (fun _ _ => ⟨nofun, nofun⟩)
theorem detourSet (d : Fin 6) : Statement (.detourSet d) :=
  of_other (fun _ _ => ⟨nofun, nofun⟩)
theorem holeWrite (ag : Agent) (j : Fin 4) (v : Word) : Statement (.holeWrite ag j v) :=
  of_path (.inl rfl) (by simp +contextual [Instr.wf]) (by intro; decide)
theorem relocWrite (ag : Agent) (j : Fin 8) (v : Word) : Statement (.relocWrite ag j v) :=
  of_path (.inl rfl) (by simp +contextual [Instr.wf]) (by intro; decide)
theorem watchdogExpiry (b : Fin 6) : Statement (.watchdogExpiry b) :=
  of_other (fun _ _ => ⟨nofun, nofun⟩)
theorem quench (ag : Agent) (b : Fin 6) : Statement (.quench ag b) :=
  of_path (.inl rfl) (by simp +contextual [Instr.wf]) (by intro; decide)
theorem quenchComplete (b : Fin 6) (good : Bool) : Statement (.quenchComplete b good) :=
  of_other (fun _ _ => ⟨nofun, nofun⟩)
theorem basinReturn (ag : Agent) (b : Fin 6) : Statement (.basinReturn ag b) :=
  of_path (.inl rfl) (by simp +contextual [Instr.wf]) (by intro; decide)
theorem riskUpdate (ce : Nat) (ue : Nat) (cw : Nat) (droop : Nat) : Statement (.riskUpdate ce ue cw droop) :=
  of_other (fun _ _ => ⟨nofun, nofun⟩)
theorem wearSample (j : Fin 6) (days : Nat) (low : Nat) (unit : BitVec 16) (samples : Nat) (k : Fin 12) (p : Fin 64) : Statement (.wearSample j days low unit samples k p) :=
  of_other (fun _ _ => ⟨nofun, nofun⟩)
theorem replicaEnable (ag : Agent) (v : Word) : Statement (.replicaEnable ag v) :=
  of_path (.inl rfl) (by simp +contextual [Instr.wf]) (by intro; decide)
theorem secureGo (ag : Agent) (b : Fin 6) (step : BitVec 32) : Statement (.secureGo ag b step) :=
  of_path (.inl rfl) (by simp +contextual [Instr.wf]) (by intro; decide)
theorem secureAbort (ag : Agent) (b : Fin 6) : Statement (.secureAbort ag b) :=
  of_path (.inl rfl) (by simp +contextual [Instr.wf]) (by intro; decide)
theorem copyOutStart (b : Fin 6) : Statement (.copyOutStart b) :=
  of_other (fun _ _ => ⟨nofun, nofun⟩)
theorem copyOutCommit (b : Fin 6) : Statement (.copyOutCommit b) :=
  of_other (fun _ _ => ⟨nofun, nofun⟩)
theorem streamCommit (b : Fin 6) (good : Bool) : Statement (.streamCommit b good) :=
  of_other (fun _ _ => ⟨nofun, nofun⟩)
theorem stop (ag : Agent) (b : Fin 6) : Statement (.stop ag b) :=
  of_path (.inl rfl) (by simp +contextual [Instr.wf]) (by intro; decide)
theorem rewind (ag : Agent) (b : Fin 6) (step : BitVec 32) : Statement (.rewind ag b step) :=
  of_path (.inl rfl) (by simp +contextual [Instr.wf]) (by intro; decide)
theorem send (ag : Agent) (b : Fin 6) (step : BitVec 32) (target : BitVec 18) : Statement (.send ag b step target) :=
  of_path (.inl rfl) (by simp +contextual [Instr.wf]) (by intro; decide)
theorem adopt (ag : Agent) (b : Fin 6) (step : BitVec 32) : Statement (.adopt ag b step) :=
  of_path (.inl rfl) (by simp +contextual [Instr.wf]) (by intro; decide)
theorem recoverComplete (b : Fin 6) (twice : Bool) (lost : Bool) : Statement (.recoverComplete b twice lost) :=
  of_other (fun _ _ => ⟨nofun, nofun⟩)
theorem clusterIdle (kc : Fin 104) : Statement (.clusterIdle kc) :=
  of_other (fun _ _ => ⟨nofun, nofun⟩)
theorem clusterWake (kc : Fin 104) (q : Fin 64) : Statement (.clusterWake kc q) :=
  of_other (fun _ _ => ⟨nofun, nofun⟩)
theorem wake (ag : Agent) (b : Fin 6) : Statement (.wake ag b) :=
  of_path (.inl rfl) (by simp +contextual [Instr.wf]) (by intro; decide)
theorem pllLocked (kc : Fin 104) : Statement (.pllLocked kc) :=
  of_other (fun _ _ => ⟨nofun, nofun⟩)
theorem boostStep (n : Fin 26) (less : Bool) : Statement (.boostStep n less) :=
  of_other (fun _ _ => ⟨nofun, nofun⟩)
theorem governorUpdate (terms : List (Nat × Nat)) (energy : List Nat) (hbm : List Bool) (avg : Nat) (last : Nat) : Statement (.governorUpdate terms energy hbm avg last) :=
  of_other (fun _ _ => ⟨nofun, nofun⟩)
theorem thermalSample (n : Fin 44) (rs : List (Nat × Int)) : Statement (.thermalSample n rs) :=
  of_other (fun _ _ => ⟨nofun, nofun⟩)
theorem droopEvent (n : Fin 26) : Statement (.droopEvent n) :=
  of_other (fun _ _ => ⟨nofun, nofun⟩)
theorem droopRecover (n : Fin 26) : Statement (.droopRecover n) :=
  of_other (fun _ _ => ⟨nofun, nofun⟩)
theorem grantRedistribute (gs : List Nat) (shared : Nat) : Statement (.grantRedistribute gs shared) :=
  of_other (fun _ _ => ⟨nofun, nofun⟩)
theorem peakRead (ag : Agent) : Statement (.peakRead ag) :=
  of_path (.inr rfl) (by simp +contextual [Instr.wf]) (by intro; decide)
theorem slackRead (ag : Agent) : Statement (.slackRead ag) :=
  of_path (.inr rfl) (by simp +contextual [Instr.wf]) (by intro; decide)
theorem nfSumRead (ag : Agent) (b : Fin 6) : Statement (.nfSumRead ag b) :=
  of_path (.inr rfl) (by simp +contextual [Instr.wf]) (fun _ => (by decide : ∀ x : Fin 6, (ASY_NF_SUM x).key < 0x4000000 ∧ (ASY_NF_SUM x).key % 8 = 0) b)
theorem eventCounterWrite (ag : Agent) (off : Nat) (sat : Bool) : Statement (.eventCounterWrite ag off sat) :=
  of_path (.inl rfl) (by simp +contextual [Instr.wf]) (by simp +contextual [Instr.wf, wfOffset])
theorem volumeClear (ag : Agent) (off : Nat) : Statement (.volumeClear ag off) :=
  of_path (.inl rfl) (by simp +contextual [Instr.wf]) (by simp +contextual [Instr.wf, wfOffset])
theorem snapTake (ag : Agent) (off : Nat) : Statement (.snapTake ag off) :=
  of_path (.inl rfl) (by simp +contextual [Instr.wf]) (by simp +contextual [Instr.wf, wfOffset])
theorem snapRelease (ag : Agent) (off : Nat) : Statement (.snapRelease ag off) :=
  of_path (.inl rfl) (by simp +contextual [Instr.wf]) (by simp +contextual [Instr.wf, wfOffset])
theorem snapAllTake (ag : Agent) : Statement (.snapAllTake ag) :=
  of_path (.inl rfl) (by simp +contextual [Instr.wf]) (by intro; decide)
theorem snapAllRelease (ag : Agent) : Statement (.snapAllRelease ag) :=
  of_path (.inl rfl) (by simp +contextual [Instr.wf]) (by intro; decide)
theorem primaryRailsInRange : Statement .primaryRailsInRange :=
  of_other (fun _ _ => ⟨nofun, nofun⟩)
theorem configurationSpaceWrite (w : CfgWr) : Statement (.configurationSpaceWrite w) :=
  of_other (fun _ _ => ⟨nofun, nofun⟩)
theorem atsInvalidateRequest (func : Fin 65) (pasid : Option Nat) (page : Nat) (count : Nat) : Statement (.atsInvalidateRequest func pasid page count) :=
  of_other (fun _ _ => ⟨nofun, nofun⟩)
theorem mailboxCommandDone (ag : Agent) : Statement (.mailboxCommandDone ag) :=
  of_other (fun _ _ => ⟨nofun, nofun⟩)
theorem calibrationCommit (p : Fin 8) (losses : List Nat) : Statement (.calibrationCommit p losses) :=
  of_other (fun _ _ => ⟨nofun, nofun⟩)
theorem testAccessPort (op : TapOp) : Statement (.testAccessPort op) :=
  of_other (fun _ _ => ⟨nofun, nofun⟩)

end Sys2Proof.Laws.F
end

