-- ==== Sys2Proof/Tests/Slice0.lean ====
section
/-! SUPPORT. The model's own tests. An ill-formed command for each check of WellFormed; the spec's worked examples; and, for every
clause of an obligation that has hypotheses, a state and operands that meet them together, named after the obligation and the
clause's number from 0. -/
namespace Sys2Proof.Tests
open Sys2Proof Sys2Proof.Machine
set_option Elab.async false

/-! ### Ill-formed commands, and well-formed ones beside them -/

theorem test_wf_agent : (Instr.statusCmd (.vf 64)).wf = false ∧ (Instr.statusCmd (.vf 63)).wf = true := by decide
theorem test_wf_program : (Instr.wake (.prog 6 false) 0).wf = false ∧ (Instr.wake (.prog 5 false) 0).wf = true := by decide
theorem test_wf_bar : (Instr.hostBarAccess .pf 1 0 8 none).wf = false ∧ (Instr.hostBarAccess .pf 2 0 8 none).wf = true := by decide
theorem test_wf_bar_length : (Instr.hostBarAccess .pf 2 0 65 none).wf = false ∧ (Instr.hostBarAccess .pf 2 0 8 (some [])).wf = false := by
  decide
theorem test_wf_offset : (Instr.registerWrite .pf 4 0).wf = false ∧ (Instr.registerWrite .pf 0x4000000 0).wf = false := by decide
theorem test_wf_payload : (Instr.putPacket 0 (List.replicate 4097 0) none).wf = false ∧
    (Instr.putPacket 0 (List.replicate 4096 0) none).wf = true := by decide +kernel
theorem test_wf_nonce : (Instr.hallmark .pf (List.replicate 31 0)).wf = false ∧ (Instr.hallmark .pf (List.replicate 32 0)).wf = true := by
  decide
theorem test_wf_granule : (Instr.hbmWriteRequest 60 [0, 0, 0, 0, 0] 0 ⟨false, false⟩ .record).wf = false ∧
    (Instr.hbmWriteRequest 60 [0, 0, 0, 0] 0 ⟨false, false⟩ .record).wf = true := by decide
theorem test_wf_read_granule : (Instr.hbmReadRequest 64 65 0 ⟨true, true⟩ 0 .record).wf = false ∧
    (Instr.hbmReadRequest 64 64 0 ⟨true, true⟩ 0 .record).wf = true := by decide
theorem test_wf_bar4 : (Instr.configurationSpaceWrite (.bar4Size 43)).wf = false := by decide
theorem test_wf_function : (Instr.configurationSpaceWrite (.memEnable 65 true)).wf = false := by decide
theorem test_wf_vector : (Instr.configurationSpaceWrite (.msixMask 1 32 true)).wf = false ∧
    (Instr.configurationSpaceWrite (.msixMask 0 32 true)).wf = true := by decide

theorem test_wf_ids : (Instr.configurationSpaceWrite (.readIds 65)).wf = false ∧
    (Instr.configurationSpaceWrite (.readIds 64)).wf = true := by decide
theorem test_wf_frame : (Instr.frameReceive 0 0 0 0 0 0 (List.replicate 17 (0, 0)) [] [] none).wf = false ∧
    (Instr.frameReceive 0 0 0 0 0 0 [] [] [⟨0, 64, 3, 80, .good⟩] none).wf = false ∧
    (Instr.frameReceive 0 0 0 0 0 0 (List.replicate 16 (0, 0)) [] [⟨7, 4132, 0, 79, .good⟩] none).wf = true := by decide
theorem test_wf_acquisition :
    (Instr.acquisitionComplete 0 9 [] (List.replicate 18 0) ⟨List.range 16, []⟩ ⟨true, true⟩).wf = false ∧
    (Instr.acquisitionComplete 0 9 ((List.range 8).map (fun l => (2 * l, 0))) (List.replicate 18 0) ⟨List.range 16, []⟩ ⟨true, true⟩).wf
      = true := by decide
theorem test_wf_calibration : (Instr.calibrationCommit 0 (List.replicate 17 0)).wf = false ∧
    (Instr.calibrationCommit 0 (List.replicate 18 0)).wf = true := by decide

/-! ### Conversions (the table of 03_number_formats_and_conversion.md) -/

def conv (f : Fmt) (ovf : Ovf) (w : Nat) : Conv := convert f true ovf .nearest (fp32 w)

theorem test_e4m3_300 : (conv .e4m3 .saturate 0x43960000).code = 0x79 := by decide +kernel
theorem test_e4m3_464 : (conv .e4m3 .saturate 0x43E80000).code = 0x7E := by decide +kernel
theorem test_e4m3_470 : (conv .e4m3 .saturate 0x43EB0000).code = 0x7E ∧ (conv .e4m3 .saturate 0x43EB0000).clamp = true ∧
    (conv .e4m3 .strict 0x43EB0000).code = 0x7F ∧ (conv .e4m3 .strict 0x43EB0000).nonfinite = true := by decide +kernel
theorem test_e4m3_tie_to_zero : (conv .e4m3 .saturate 0x3A800000).code = 0 ∧ (conv .e4m3 .saturate 0x3A800000).flush = true := by
  decide +kernel
theorem test_e4m3_0015 : (conv .e4m3 .saturate 0x3AC49BA6).code = 1 := by decide +kernel
theorem test_e4m3_inf : (conv .e4m3 .saturate 0x7F800000).code = 0x7F ∧ (conv .e4m3 .strict 0x7F800000).code = 0x7F := by decide +kernel
theorem test_e5m2_60000 : (conv .e5m2 .saturate 0x476A6000).code = 0x7B := by decide +kernel
theorem test_e5m2_61440 : (conv .e5m2 .saturate 0x47700000).code = 0x7B ∧ (conv .e5m2 .strict 0x47700000).code = 0x7C := by decide +kernel
theorem test_e5m2_subnormal : (conv .e5m2 .saturate 0xB7FBA882).code = 0x82 := by decide +kernel
theorem test_bf16_third : (conv .bf16 .saturate 0x3EAAAAAB).code = 0x3EAB := by decide +kernel
theorem test_fp16_65520 : (conv .fp16 .saturate 0x477FF000).code = 0x7BFF ∧ (conv .fp16 .strict 0x477FF000).code = 0x7C00 := by
  decide +kernel
theorem test_int8 : (conv .int8 .saturate 0x4348B333).code = 0x7F ∧
    (convert .int8 false .saturate .nearest (fp32 0x4348B333)).code = 0xC9 := by decide +kernel
theorem test_w40_one : (conv .w40 .saturate 0x3F800000).code = 0x3F80000000 := by decide +kernel

/-- The MXFP4 block of the same chapter's example: scale code 0x87 and the codes of 1,000, 100, −40 and 0.9. -/
theorem test_mxfp4_block :
    let xs := [0x447A0000, 0x42C80000, 0xC2200000, 0x3F666666, 0x3E800000].map fp32
    (mxScale .e2m1 xs).1 = 0x87 ∧ (xs.take 4).map (fun v => (mxElem .e2m1 .nearest 0x87 v).code) = [6, 1, 8, 0] := by decide +kernel

/-- Slot 17 of the example of 04_training_numerics.md: 12.5 under MARGIN 1 gives scale 16. -/
theorem test_slot_scale : slotScale .e4m3 true 1 0x41480000 = 0x41800000 := by decide +kernel

/-! ### Addresses and spares (the examples of 01_package_and_basins.md and 08_memory_system.md) -/

/-- Offset 0x10_0100 of stack 4: pseudo-channel 1 in Full mode, 9 in Guarded mode. -/
theorem test_pseudo_channel : (({} : Chip).put (HBM_STACK_STS.MODE 4) 0).pcOf 0x8000100100 = 1 ∧
    (({} : Chip).put (HBM_STACK_STS.MODE 4) 1).pcOf 0x8000100100 = 9 := by decide +kernel

/-- F07 fails in basin 0 with F09 and F16 in state Spare: the tie goes to F09. -/
theorem test_spare_choice :
    ((({} : Chip).put (HUB_FORGE_STATUS.STATE 9) 2).put (HUB_FORGE_STATUS.STATE 16) 2).pickSpare 0 = some 9 ∧ stackHops 9 0 = 4 ∧
      stackHops 16 0 = 4 := by decide +kernel

/-- Cluster 2 of basin 0, slot 3, is at 0x0200_1C00_0000 and lies in F07.2. -/
theorem test_role_address : ({} : Chip).place 0x2001C000000 = some (.cis (4 * 7 + 2) 0) := by decide +kernel

/-- 600 corrections per hour are 2,400 points, 100 droop events per second 800 (15_health_counters_and_register_index.md). -/
theorem test_risk_points : (riskUpdate 600 0 0 100 ({} : Chip)).get (ASY_RISK_TERM.POINTS 0) = 2400 ∧
    (riskUpdate 600 0 0 100 ({} : Chip)).get (ASY_RISK_TERM.POINTS 6) = 800 := by decide +kernel

/-! ### Witnesses -/

/-- The part running and Ready; its memory and its NOR read zero. -/
def on0 : Chip := ({ pwr := { vsb := true, rails := true, pwrgd := true, on := true } } : Chip).put HUB_BOOT_STS.STATE 3

/-- A state around a chip. -/
def mk (c : Chip) (x : Sec := { nor := {} }) : State := { pending := [], chip := c, sec := x }

/-- The running part with die 0 Active in slot 0 of basin 0. -/
def die0 : Chip := on0.placeDie 0 0 0 1

/-- A chip with bytes in memory. -/
def withBytes (c : Chip) (a : Nat) (d : List Byte) : Chip := { c with mem := c.mem.write a d }

/-- Queue 0 of basin 0 enabled over a ring at 0x100000, with one packet published at its head. -/
def ring (c : Chip) (p : Nat) : Chip :=
  withBytes (((c.put (BSN_Q_CFG.ENABLE 0 0) 1).put (BSN_Q_CFG.BASE 0 0) 0x100000).put (BSN_Q_STS.TAIL 0 0) 1) 0x100000 (leBytes 64 p)

/-- Basin 0 under slice tag 1, its flow tables at 0x1000000. -/
def flow0 (c : Chip) : Chip := (c.put (BSN_SLICE.TAG 0) 1).put (BSN_FLOW_BASE.BASE 0) 0x1000000

/-- The header of a packet to basin 0 of this package from basin 0 of package 1, under slice tag 1. -/
def hdrTo (opc addr len : Nat) : Hdr := { opc := opc, src := 1, slice := 1, addr := addr, len := len }

def word (h : Hdr) : BitVec 256 := BitVec.ofNat 256 h.enc

/-- A main-class kernel of queue 0 of basin 0 on cluster 0. -/
def kern0 : Kern :=
  { id := 1, basin := 0, queue := 0, pkt := 0, kid := 0, stamp := 0, side := false, cmask := 1, clusters := [0], whole := false,
    vown := 0, mown := 0, tagbase := 0, budget := 0, slots := {}, batch := none }

/-- Cluster 0 runs it. -/
def run0 : Chip := { die0 with kerns := [kern0] }

/-- An engine command issued by sequencer 0 of cluster 0. -/
def cmd0 : ECmd := { id := 7, desc := 0x200000, comp := 0x201000, sig := none, stamp := 0, side := false, src := .seq 0 0 }

/-- An outstanding operation of sequencer 0 of cluster 0. -/
def op0 : Op := { id := 3, src := .seq 0 0, kind := .spout, flow := { basin := 0, coord := 0, dbasin := 0, run := 0 } }

/-- A secure descriptor at 0x600000: one region of one page, slots of one ingot. -/
def desc0 : SecDesc := { slotIngots := 1, keep := 0x10000000, repl := 0x20000000, transit := 0, regions := [(0x700000, 4096)] }

/-- Basin 0 with that descriptor, its secure operation in state `n`. -/
def sec0 (n : Nat) : Chip :=
  withBytes (((on0.put (BSN_SECURE_BASE.BASE 0) 0x600000).put (BSN_SECURE_STS.STATE 0) n).put (BSN_AGREE_STS.LAST_RESULT 0) (if n = 0 then 0 else 1))
    0x600000 (leBytes 80 (1 + 2 ^ 32 + 0x10000000 * 2 ^ 64 + 0x20000000 * 2 ^ 128 + 0x700000 * 2 ^ 512 + 2 ^ 576))

/-- An INT8 operand format. -/
def fmt0 : OpFmt := ⟨.int8, true, false, 0⟩

/-- A tile of one row and one column. -/
def tile0 : Tile := { row0 := 0, crows := 1, ncol := 1, fmt := fmt0, rows := [0], scale := [], undef := false }

/-- The running cluster 0 with an array. -/
def arr0 (a : Arr) : Chip := run0.setCl 0 { run0.cl 0 with arr := a }

/-- A raw drain of set 0 of no rows. -/
def drain0 : DrainCmd :=
  { set := 0, tag := 0, raw := true, act := 0, lsh := 0, clo := false, chi := false, bias := false, rsc := 0, csc := 0, rows := 0,
    ncol := 1, desc := 0, row := 0, vec := none, clip := 0, rt := 0, bundle := 0, step := 0 }

/-- An SGD descriptor over one FP32 gradient element. -/
def sgd0 : Nat := 2 ^ 16 + 0x210000 * 2 ^ 64 + 0x220000 * 2 ^ 128 + 0x230000 * 2 ^ 320

/-- A running SGD command with `n` of its chunks posted. -/
def trun0 (n : Nat) : TRun := { cmd := cmd0, own := 0, d := sgd0, prm := [], e := 0, idx := [], works := [], chunk := n, done := n }

/-- A gather of one row, or with OP 1 a scatter-add. -/
def lrun0 (op : Nat) (rows : Map RowSt) : LRun := { cmd := cmd0, d := op + 2 ^ 16 + 2 ^ 33, tbl := 0, e := 0, rows := rows }
theorem witness_CisternsAreReachedByRole_0 : ∃ (c : Chip) (b : Nat) (sl : Nat) (k : Nat) (off : Nat),
    b < 6
    ∧ sl < 5
    ∧ k < 4
    ∧ off < 0x2000000 :=
  ⟨die0, 0, 0, 3, 0x17FFFFF, by decide +kernel⟩

theorem witness_CisternsAreReachedByRole_0_outside : ∃ (c : Chip) (b : Nat) (sl : Nat) (k : Nat) (off : Nat),
    b < 6
    ∧ sl < 5
    ∧ k < 4
    ∧ off < 0x2000000 :=
  ⟨die0, 5, 4, 3, 0x1FFFFFF, by decide +kernel⟩

theorem witness_CisternsAreReachedByRole_1 : ∃ (c : Chip) (b : Nat) (sl : Nat) (n : Nat) (st : Nat) (k : Nat) (off : Nat),
    b < 6
    ∧ sl < 5
    ∧ k < 4
    ∧ off < 0x1800000
    ∧ n < 26 :=
  ⟨on0, 5, 4, 25, 1, 3, 0x17FFFFF, by decide +kernel⟩

theorem witness_ScaleCodesAndConversion_1_sub : ∃ (x : Nat) (signed : Bool) (o : Ovf) (r : Rnd),
    x < 2 ^ 32
    ∧ (bits x 23 8 = 0) :=
  ⟨0x807FFFFF, false, .saturate, .nearest, by decide +kernel⟩

theorem witness_ScaleCodesAndConversion_1_nan : ∃ (x : Nat) (signed : Bool) (o : Ovf) (r : Rnd),
    x < 2 ^ 32
    ∧ (bits x 23 8 = 255) :=
  ⟨0xFFFFFFFF, false, .saturate, .nearest, by decide +kernel⟩

theorem witness_ScaleCodesAndConversion_1_normal : ∃ (x : Nat) (signed : Bool) (o : Ovf) (r : Rnd),
    x < 2 ^ 32
    ∧ ((bits x 23 8 ≠ 0 ∧ bits x 23 8 ≠ 255)) :=
  ⟨0x7F7FFFFF, true, .saturate, .stoch 1, by decide +kernel⟩

theorem witness_CounterEventSourceIsRecorded_1 : ∃ (c : Chip) (r : Reg) (n : Nat),
    r.key < 2 ^ 26
    ∧ r.key ≠ ASY_CTR_EV.key
    ∧ ((∀ e < 512, r.key ≠ (HUB_EVT_ROUTE e).key))
    ∧ bit (c.word r) 63 = false
    ∧ 2 ^ 48 ≤ bits (c.word r) 0 48 + n
    ∧ c.get ASY_CTR_EV.VALID = 0 :=
  ⟨on0.setWord FAB_BADPKT (2 ^ 48 - 1), FAB_BADPKT, 1, by
    repeat' apply And.intro
    all_goals first | decide +kernel | rfl | (intro k h; cases h <;> decide +kernel) | (intro k c h; cases h <;> decide +kernel) | (left; rfl) | (left; decide +kernel) | (right; decide +kernel) | (right; left; decide +kernel) | (right; right; decide +kernel)⟩

theorem witness_CounterEventSourceIsRecorded_2 : ∃ (c : Chip) (r : Reg) (ep : RF) (n : Nat),
    r.key < 2 ^ 26
    ∧ r.key ≠ ASY_CTR_EV.key
    ∧ ep.reg.key ≠ ASY_CTR_EV.key
    ∧ 2 ^ 64 ≤ c.word r + ceilDiv n 64
    ∧ c.get ASY_CTR_EV.VALID = 0 :=
  ⟨on0.setWord (HBM_RDVOL 11) (2 ^ 64 - 1), HBM_RDVOL 11, HBM_RDVOLE.EPOCH 11, 64, by decide +kernel⟩

theorem witness_CounterEventSourceIsRecorded_3 : ∃ (c : Chip) (off : Nat) (kind : Nat),
    c.get ASY_CTR_EV.VALID = 1 :=
  ⟨on0.put ASY_CTR_EV.VALID 1, 8, 1, by decide +kernel⟩

theorem witness_CounterEventSourceIsRecorded_4 : ∃ (v : Word) (s : State),
    s.chip.answers ASY_CTR_EV.key = true :=
  ⟨BitVec.allOnes 64, mk (on0.setWord ASY_CTR_EV (2 ^ 63 + 5)), by decide +kernel⟩

theorem witness_EmptyQueueStepIsOneSlowTick_0 : ∃ (s : State),
    s.pending = []
    ∧ s.chip.pwr.vsb = true :=
  ⟨mk on0, by decide +kernel⟩

theorem witness_QueueIsFirstInFirstOut_0 : ∃ (i : Instr) (s : State) (t : State),
    exec i s = .next t :=
  ⟨.stagedStartEnd 0, { mk on0 with pending := [.pfFlr] }, { mk on0 with pending := [.pfFlr], chip := stagedStartEnd 0 on0 }, by
    repeat' apply And.intro
    all_goals first | decide +kernel | rfl | (intro k h; cases h <;> decide +kernel) | (intro k c h; cases h <;> decide +kernel) | (left; rfl) | (left; decide +kernel) | (right; decide +kernel) | (right; left; decide +kernel) | (right; right; decide +kernel)⟩

theorem witness_QueueIsFirstInFirstOut_1 : ∃ (s : State) (t : State),
    step s = .next t :=
  ⟨{ mk on0 with pending := [.stagedStartEnd 0, .pfFlr] }, { mk on0 with pending := [.pfFlr], chip := stagedStartEnd 0 on0 }, by
    repeat' apply And.intro
    all_goals first | decide +kernel | rfl | (intro k h; cases h <;> decide +kernel) | (intro k c h; cases h <;> decide +kernel) | (left; rfl) | (left; decide +kernel) | (right; decide +kernel) | (right; left; decide +kernel) | (right; right; decide +kernel)⟩

theorem witness_SecurityStaysSound_0 : ∃ (s : State) (t : State),
    s.sec.Sound
    ∧ step s = .next t :=
  ⟨{ mk on0 with pending := [.stagedStartEnd 0] }, { mk on0 with chip := stagedStartEnd 0 on0 }, by
    repeat' apply And.intro
    all_goals first | decide +kernel | rfl | (intro k h; cases h <;> decide +kernel) | (intro k c h; cases h <;> decide +kernel) | (left; rfl) | (left; decide +kernel) | (right; decide +kernel) | (right; left; decide +kernel) | (right; right; decide +kernel)⟩

theorem witness_OnlyNamedCommandsReachTheSecurityUnit_0 : ∃ (i : Instr) (s : State) (t : State),
    reachesSec i = false
    ∧ exec i s = .next t :=
  ⟨.stagedStartEnd 0, mk on0, { mk on0 with chip := stagedStartEnd 0 on0 }, by
    repeat' apply And.intro
    all_goals first | decide +kernel | rfl | (intro k h; cases h <;> decide +kernel) | (intro k c h; cases h <;> decide +kernel) | (left; rfl) | (left; decide +kernel) | (right; decide +kernel) | (right; left; decide +kernel) | (right; right; decide +kernel)⟩

theorem witness_NothingHappensWithoutPower_0 : ∃ (i : Instr) (s : State),
    pathOfCommand i = .event
    ∧ s.chip.pwr.on = false :=
  ⟨.doorbell .pf 0 0 1, mk {}, by decide +kernel⟩

theorem witness_UnheardRegisterWriteChangesNothing_0 : ∃ (i : Instr) (s : State) (ag : Agent) (off : Nat),
    pathOfCommand i = .regWrite ag off
    ∧ s.chip.hears ag off = false :=
  ⟨.quench .pf 0, mk (on0.put HUB_BOOT_STS.STATE 4), .pf, 0x20000, by decide +kernel⟩

theorem witness_HostReachesHbmThroughBar4_0 : ∃ (off : Nat) (d : List Byte) (s : State),
    s.chip.ready = true
    ∧ 0 ∈ s.chip.pcie.mse
    ∧ off < 2 ^ s.chip.pcie.bar4
    ∧ d ≠ []
    ∧ s.chip.isHbm (s.chip.get HUB_BAR4_BASE.BASE + off) = true
    ∧ s.chip.isHbm (s.chip.get HUB_BAR4_BASE.BASE + off + (d.length - 1)) = true
    ∧ stackOf (s.chip.get HUB_BAR4_BASE.BASE + off) = stackOf (s.chip.get HUB_BAR4_BASE.BASE + off + (d.length - 1))
    ∧ s.chip.inQuench (s.chip.get HUB_BAR4_BASE.BASE + off) = false
    ∧ s.chip.inQuench (s.chip.get HUB_BAR4_BASE.BASE + off + (d.length - 1)) = false
    ∧ s.chip.poison = [] :=
  ⟨0x1000, [1, 2, 3], mk { (on0.setWord HUB_BAR4_BASE 0) with pcie := { mse := [0] } }, by decide +kernel⟩

theorem witness_HostReachesHbmThroughBar4_1 : ∃ (off : Nat) (n : Nat) (s : State),
    s.chip.ready = true
    ∧ 0 ∈ s.chip.pcie.mse
    ∧ off < 2 ^ s.chip.pcie.bar4
    ∧ n ≠ 0
    ∧ s.chip.isHbm (s.chip.get HUB_BAR4_BASE.BASE + off) = true
    ∧ s.chip.isHbm (s.chip.get HUB_BAR4_BASE.BASE + off + (n - 1)) = true
    ∧ stackOf (s.chip.get HUB_BAR4_BASE.BASE + off) = stackOf (s.chip.get HUB_BAR4_BASE.BASE + off + (n - 1))
    ∧ s.chip.poisoned (s.chip.get HUB_BAR4_BASE.BASE + off) n = false :=
  ⟨0x1000, 8, mk { (on0.setWord HUB_BAR4_BASE 0) with pcie := { mse := [0] } }, by decide +kernel⟩

theorem witness_RegisterWriteAndSidebandComplete_0 : ∃ (v : Word) (s : State),
    s.chip.answers HUB_MBX_WIN.key = true :=
  ⟨0xFF, mk on0, by decide +kernel⟩

theorem witness_RegisterWriteAndSidebandComplete_1 : ∃ (id : Nat) (v : Nat) (s : State),
    s.chip.pwr.vsb = true
    ∧ s.chip.pwr.on = true
    ∧ s.chip.sensor id = some v :=
  ⟨43, 0, mk on0, by decide +kernel⟩

theorem witness_RegisterWriteAndSidebandComplete_2 : ∃ (code : Nat) (s : State),
    s.chip.pwr.vsb = true :=
  ⟨2, mk on0, by decide +kernel⟩

theorem witness_RegisterWriteAndSidebandComplete_3 : ∃ (s : State),
    s.chip.pwr.vsb = true
    ∧ s.chip.answers HUB_RST_CTL.key = true :=
  ⟨mk on0, by decide +kernel⟩

theorem witness_RegisterWriteAndSidebandComplete_4 : ∃ (v : Nat) (s : State),
    s.chip.pwr.vsb = true
    ∧ s.chip.answers HUB_RST_CTL.key = true :=
  ⟨1, mk on0, by decide +kernel⟩

theorem witness_MailboxImagesComplete_0 : ∃ (ag : Agent) (kind : Nat) (off : Nat) (d : List Byte) (s : State),
    s.Accepts ag 0x10
    ∧ 1 ≤ kind
    ∧ kind ≤ 3
    ∧ off + d.length ≤ (imageArea kind).len - 64 :=
  ⟨.pf, 3, 4, [1, 2], mk on0, by decide +kernel⟩

theorem witness_MailboxImagesComplete_1 : ∃ (ag : Agent) (kind : Nat) (s : State),
    s.Accepts ag 0x11
    ∧ 1 ≤ kind
    ∧ kind ≤ 3 :=
  ⟨.pf, 1, mk on0, by decide +kernel⟩

theorem witness_MailboxImagesComplete_1_none : ∃ (ag : Agent) (kind : Nat) (s : State),
    s.Accepts ag 0x11
    ∧ 1 ≤ kind
    ∧ kind ≤ 3
    ∧ (s.sec.imgIn kind (s.sec.stageSlot kind) = none) :=
  ⟨.pf, 1, mk on0, by decide +kernel⟩

theorem witness_MailboxImagesComplete_2_none : ∃ (ag : Agent) (starts : Bool) (s : State),
    s.Accepts ag 0x12
    ∧ (s.chip.on HUB_ROLE.STANDBY_OK = false) :=
  ⟨.pf, true, mk on0, by decide +kernel⟩

theorem witness_TestAccessPort_3 : ∃ (s : State),
    s.sec.level ≠ 2 :=
  ⟨mk on0, by decide +kernel⟩

theorem witness_TestAccessPort_4 : ∃ (s : State),
    s.sec.level = 2 :=
  ⟨mk on0 { nor := {}, level := 2 }, by decide +kernel⟩

theorem witness_PacketHeadersRoundTrip_0 : ∃ (h : Hdr),
    h.opc < 16
    ∧ h.run < 4
    ∧ h.lane < 2
    ∧ h.rfmt < 16
    ∧ h.maxis < 4
    ∧ h.dst < 2 ^ 18
    ∧ h.dbasin < 8
    ∧ h.src < 2 ^ 18
    ∧ h.sbasin < 8
    ∧ h.addr < 2 ^ 48
    ∧ h.len < 2 ^ 13
    ∧ h.seq < 2 ^ 16
    ∧ h.slice < 2 ^ 16
    ∧ h.step < 2 ^ 32
    ∧ h.mspan < 2 ^ 6
    ∧ h.xid < 2 ^ 16 :=
  ⟨{ opc := 8, addr := 2 ^ 48 - 1, len := 4096 }, by decide +kernel⟩

theorem witness_BundleSlotsRoundTrip_0 : ∃ (i : SInst),
    i.wf = true :=
  ⟨.alui .add 31 31 (-131072), by decide +kernel⟩

theorem witness_BundleSlotsRoundTrip_1 : ∃ (i : VInst),
    i.wf = true :=
  ⟨.empty, by decide +kernel⟩

theorem witness_BundleSlotsRoundTrip_2 : ∃ (i : MInst),
    i.wf = true :=
  ⟨.agb 7 3, by decide +kernel⟩

theorem witness_BundleSlotsRoundTrip_3 : ∃ (i : XInst),
    i.wf = true :=
  ⟨.fence 2, by decide +kernel⟩

theorem witness_SuppliesComplete_0 : ∃ (f : BitVec 8) (n : BitVec 4) (s : State),
    s.chip.pwr.vsb = false :=
  ⟨1, 2, mk {}, by decide +kernel⟩

theorem witness_SuppliesComplete_1 : ∃ (s : State),
    s.chip.pwr.vsb = true :=
  ⟨mk on0, by decide +kernel⟩

theorem witness_SuppliesComplete_2 : ∃ (k : Fin 3) (s : State),
    s.chip.pwr.on = true :=
  ⟨1, mk die0, by decide +kernel⟩

theorem witness_SuppliesComplete_3 : ∃ (g : Gasp) (s : State),
    s.chip.pwr.on = true :=
  ⟨{ coord := 5, cause := 1, steps := [] }, mk on0, by decide +kernel⟩

theorem witness_StartUpCompletes_0 : ∃ (f : BitVec 8) (n : BitVec 4) (s : State),
    s.chip.pwr.vsb = true
    ∧ s.chip.pwr.pwrgd = false
    ∧ s.chip.pwr.on = false
    ∧ s.chip.pwr.needFall = false :=
  ⟨1, 2, mk { pwr := { vsb := true, rails := true } }, by decide +kernel⟩

theorem witness_StartUpCompletes_1 : ∃ (s : State),
    s.chip.pwr.vsb = true
    ∧ s.chip.pwr.on = false
    ∧ s.chip.pwr.needFall = false :=
  ⟨mk { pwr := { vsb := true, pwrgd := true } }, by decide +kernel⟩

theorem witness_StartUpCompletes_2 : ∃ (ms : Nat) (bad : List Nat) (s : State),
    s.chip.get HUB_BOOT_STS.STATE = 2 :=
  ⟨70, [], mk (on0.put HUB_BOOT_STS.STATE 2), by decide +kernel⟩

theorem witness_StartUpCompletes_3 : ∃ (s : State),
    s.chip.pwr.on = true
    ∧ s.chip.on HUB_RST_CTL.PERST_FULL = true :=
  ⟨mk (on0.put HUB_RST_CTL.PERST_FULL 1), by decide +kernel⟩

theorem witness_StartUpCompletes_4 : ∃ (s : State),
    s.chip.pwr.on = true
    ∧ s.chip.on HUB_RST_CTL.PERST_FULL = false :=
  ⟨mk (on0.put HUB_RST_CTL.PERST_FULL 0), by decide +kernel⟩

theorem witness_ReferenceClockEvents_0 : ∃ (s : State),
    s.chip.pwr.on = true
    ∧ s.chip.pwr.refLost = none :=
  ⟨mk on0, by decide +kernel⟩

theorem witness_ReferenceClockEvents_1 : ∃ (s : State),
    s.chip.pwr.on = true :=
  ⟨mk { on0 with pwr := { on0.pwr with refLost := some 0 } }, by decide +kernel⟩

theorem witness_ReferenceClockEvents_2 : ∃ (s : State),
    s.chip.pwr.on = true
    ∧ s.chip.pwr.refLost ≠ none :=
  ⟨mk { on0 with pwr := { on0.pwr with refLost := some 0 } }, by decide +kernel⟩

theorem witness_ReferenceClockEvents_3 : ∃ (s : State),
    s.chip.pwr.on = false
    ∧ s.chip.pwr.refLost ≠ none :=
  ⟨mk { pwr := { vsb := true, refLost := some 0, failAt := some 0 } }, by decide +kernel⟩

theorem witness_ReferenceClockEvents_4 : ∃ (s : State),
    s.chip.pwr.refLost = none :=
  ⟨mk on0, by decide +kernel⟩

theorem witness_FunctionAndLinkEvents_0 : ∃ (s : State),
    s.chip.pwr.on = true :=
  ⟨mk on0, by decide +kernel⟩

theorem witness_FunctionAndLinkEvents_1 : ∃ (n : Fin 64) (s : State),
    s.chip.pwr.on = true
    ∧ s.chip.get (HUB_VF_BIND.BASIN n) < 6
    ∧ s.chip.on (HUB_VF_BIND.ADMIN n) = true
    ∧ s.chip.word (HUB_VF_QMASK n) = 0
    ∧ ((∀ i < 16, s.chip.chFunc i ≠ n + 1))
    ∧ s.chip.get (BSN_QUENCH.STATE (s.chip.get (HUB_VF_BIND.BASIN n))) ≠ 1 :=
  ⟨63, mk (((die0.put (HUB_VF_BIND.BASIN 63) 0).put (HUB_VF_BIND.ADMIN 63) 1)), by
    repeat' apply And.intro
    all_goals first | decide +kernel | rfl | (intro k h; cases h <;> decide +kernel) | (intro k c h; cases h <;> decide +kernel) | (left; rfl) | (left; decide +kernel) | (right; decide +kernel) | (right; left; decide +kernel) | (right; right; decide +kernel)⟩

theorem witness_FunctionAndLinkEvents_2 : ∃ (rate : Fin 8) (width : Fin 9) (flit : Bool) (s : State),
    s.chip.pwr.on = true :=
  ⟨5, 8, true, mk { on0 with irqs := [(0, 1)], irqHold := true }, by decide +kernel⟩

theorem witness_FunctionAndLinkEvents_3 : ∃ (s : State),
    s.chip.pwr.on = true
    ∧ s.chip.on HUB_PCIE_STS.LINK_UP = true :=
  ⟨mk (on0.put HUB_PCIE_STS.LINK_UP 1), by decide +kernel⟩

theorem witness_HostAccessRefusedBeforeReady_0 : ∃ (ag : Agent) (bar : Nat) (off : Nat) (len : Nat) (data : Option (List Byte)) (s : State),
    (((ag = .pf ∧ (bar = 2 ∨ bar = 4)) ∨ (∃ n, ag = .vf n)))
    ∧ s.chip.ready = false :=
  ⟨.pf, 4, 0, 4, none, mk (on0.put HUB_BOOT_STS.STATE 4), by
    repeat' apply And.intro
    all_goals first | decide +kernel | rfl | (intro k h; cases h <;> decide +kernel) | (intro k c h; cases h <;> decide +kernel) | (left; rfl) | (left; decide +kernel) | (right; decide +kernel) | (right; left; decide +kernel) | (right; right; decide +kernel) | exact Or.inr ⟨_, by decide +kernel⟩ | exact ⟨_, by decide +kernel⟩⟩

theorem witness_DoorbellPublishes_0 : ∃ (ag : Agent) (b : Fin 6) (q : Fin 64) (tail : BitVec 16) (s : State),
    Running s
    ∧ s.rings ag b q
    ∧ s.chip.on (BSN_Q_CFG.ENABLE b q) = true
    ∧ (s.chip.bs b).quenched = false
    ∧ (s.chip.bs b).outOfService = false
    ∧ subMod 16 tail.toNat (s.chip.get (BSN_Q_STS.RETIRED b q)) ≤ s.chip.qSize b q
    ∧ subMod 16 (s.chip.get (BSN_Q_STS.TAIL b q)) (s.chip.get (BSN_Q_STS.RETIRED b q)) ≤ subMod 16 tail.toNat (s.chip.get (BSN_Q_STS.RETIRED b q)) :=
  ⟨.pf, 5, 63, 64, mk (on0.put (BSN_Q_CFG.ENABLE 5 63) 1), by
    repeat' apply And.intro
    all_goals first | decide +kernel | rfl | (intro k h; cases h <;> decide +kernel) | (intro k c h; cases h <;> decide +kernel) | (left; rfl) | (left; decide +kernel) | (right; decide +kernel) | (right; left; decide +kernel) | (right; right; decide +kernel)⟩

theorem witness_DoorbellPublishes_0_vf : ∃ (ag : Agent) (b : Fin 6) (q : Fin 64) (tail : BitVec 16) (s : State),
    Running s
    ∧ s.rings ag b q
    ∧ s.chip.on (BSN_Q_CFG.ENABLE b q) = true
    ∧ (s.chip.bs b).quenched = false
    ∧ (s.chip.bs b).outOfService = false
    ∧ subMod 16 tail.toNat (s.chip.get (BSN_Q_STS.RETIRED b q)) ≤ s.chip.qSize b q
    ∧ subMod 16 (s.chip.get (BSN_Q_STS.TAIL b q)) (s.chip.get (BSN_Q_STS.RETIRED b q)) ≤ subMod 16 tail.toNat (s.chip.get (BSN_Q_STS.RETIRED b q)) :=
  ⟨.vf 9, 5, 63, 64, mk (((on0.put (BSN_Q_CFG.ENABLE 5 63) 1).put (HUB_VF_BIND.BASIN 9) 5).setWord (HUB_VF_QMASK 9) (2 ^ 63)), by
    exact ⟨by decide +kernel, Or.inr ⟨9, by decide +kernel⟩, by decide +kernel⟩⟩

theorem witness_DoorbellPublishes_1 : ∃ (ag : Agent) (b : Fin 6) (q : Fin 64) (tail : BitVec 16) (s : State),
    Running s
    ∧ s.rings ag b q
    ∧ s.chip.on (BSN_Q_CFG.ENABLE b q) = true
    ∧ (s.chip.bs b).quenched = false
    ∧ (s.chip.bs b).outOfService = false
    ∧ ((s.chip.qSize b q < subMod 16 tail.toNat (s.chip.get (BSN_Q_STS.RETIRED b q))
    ∨ subMod 16 tail.toNat (s.chip.get (BSN_Q_STS.RETIRED b q)) < subMod 16 (s.chip.get (BSN_Q_STS.TAIL b q)) (s.chip.get (BSN_Q_STS.RETIRED b q)))) :=
  ⟨.pf, 0, 0, 65, mk (on0.put (BSN_Q_CFG.ENABLE 0 0) 1), by
    repeat' apply And.intro
    all_goals first | decide +kernel | rfl | (intro k h; cases h <;> decide +kernel) | (intro k c h; cases h <;> decide +kernel) | (left; rfl) | (left; decide +kernel) | (right; decide +kernel) | (right; left; decide +kernel) | (right; right; decide +kernel)⟩

theorem witness_DoorbellPublishes_1_back : ∃ (ag : Agent) (b : Fin 6) (q : Fin 64) (tail : BitVec 16) (s : State),
    Running s
    ∧ s.rings ag b q
    ∧ s.chip.on (BSN_Q_CFG.ENABLE b q) = true
    ∧ (s.chip.bs b).quenched = false
    ∧ (s.chip.bs b).outOfService = false
    ∧ ((s.chip.qSize b q < subMod 16 tail.toNat (s.chip.get (BSN_Q_STS.RETIRED b q))
    ∨ subMod 16 tail.toNat (s.chip.get (BSN_Q_STS.RETIRED b q)) < subMod 16 (s.chip.get (BSN_Q_STS.TAIL b q)) (s.chip.get (BSN_Q_STS.RETIRED b q)))) :=
  ⟨.pf, 0, 0, 0, mk ((on0.put (BSN_Q_CFG.ENABLE 0 0) 1).put (BSN_Q_STS.TAIL 0 0) 1), by
    repeat' apply And.intro
    all_goals first | decide +kernel | rfl | (intro k h; cases h <;> decide +kernel) | (intro k c h; cases h <;> decide +kernel) | (left; rfl) | (left; decide +kernel) | (right; decide +kernel) | (right; left; decide +kernel) | (right; right; decide +kernel)⟩

theorem witness_DoorbellPublishes_2 : ∃ (ag : Agent) (b : Fin 6) (q : Fin 64) (tail : BitVec 16) (s : State),
    Running s
    ∧ s.rings ag b q
    ∧ ((s.chip.on (BSN_Q_CFG.ENABLE b q) = false
    ∨ (s.chip.bs b).quenched = true ∨ (s.chip.bs b).outOfService = true)) :=
  ⟨.pf, 0, 0, 1, mk on0, by
    repeat' apply And.intro
    all_goals first | decide +kernel | rfl | (intro k h; cases h <;> decide +kernel) | (intro k c h; cases h <;> decide +kernel) | (left; rfl) | (left; decide +kernel) | (right; decide +kernel) | (right; left; decide +kernel) | (right; right; decide +kernel)⟩

theorem witness_DoorbellPublishes_3 : ∃ (n : Nat) (b : Fin 6) (q : Fin 64) (tail : BitVec 16) (s : State),
    Running s
    ∧ s.chip.get (HUB_VF_BIND.BASIN n) = b
    ∧ bit (s.chip.word (HUB_VF_QMASK n)) q = false :=
  ⟨9, 5, 63, 1, mk (on0.put (HUB_VF_BIND.BASIN 9) 5), by decide +kernel⟩

theorem witness_DoorbellPublishes_4 : ∃ (ag : Agent) (b : Fin 6) (q : Fin 64) (tail : BitVec 16) (s : State),
    s.chip.pwr.on = true
    ∧ ((s.chip.ready = false ∨ ∃ n, ag = .vf n ∧ s.chip.get (HUB_VF_BIND.BASIN n) ≠ b)) :=
  ⟨.pf, 0, 0, 1, mk (on0.put HUB_BOOT_STS.STATE 2), by
    repeat' apply And.intro
    all_goals first | decide +kernel | rfl | (intro k h; cases h <;> decide +kernel) | (intro k c h; cases h <;> decide +kernel) | (left; rfl) | (left; decide +kernel) | (right; decide +kernel) | (right; left; decide +kernel) | (right; right; decide +kernel) | exact Or.inr ⟨_, by decide +kernel⟩ | exact ⟨_, by decide +kernel⟩⟩

theorem witness_DoorbellPublishes_4_unbound : ∃ (ag : Agent) (b : Fin 6) (q : Fin 64) (tail : BitVec 16) (s : State),
    s.chip.pwr.on = true
    ∧ ((s.chip.ready = false ∨ ∃ n, ag = .vf n ∧ s.chip.get (HUB_VF_BIND.BASIN n) ≠ b)) :=
  ⟨.vf 9, 0, 0, 1, mk (on0.put (HUB_VF_BIND.BASIN 9) 5), by
    exact ⟨by decide +kernel, Or.inr ⟨9, by decide +kernel⟩⟩⟩

theorem witness_CopyChannelsComplete_0 : ∃ (ag : Agent) (ch : Fin 16) (tail : BitVec 16) (s : State),
    Running s
    ∧ ((ag = .pf ∨ ∃ n, ag = .vf n ∧ s.chip.chFunc ch = n + 1))
    ∧ s.chip.on (HUB_HCOPY_CFG.ENABLE ch) = true
    ∧ subMod 16 tail.toNat (s.chip.get (HUB_HCOPY_STS.HEAD ch)) ≤ s.chip.chSize ch
    ∧ subMod 16 (s.chip.get (HUB_HCOPY_STS.TAIL ch)) (s.chip.get (HUB_HCOPY_STS.HEAD ch)) ≤ subMod 16 tail.toNat (s.chip.get (HUB_HCOPY_STS.HEAD ch)) :=
  ⟨.pf, 15, 64, mk (on0.put (HUB_HCOPY_CFG.ENABLE 15) 1), by
    repeat' apply And.intro
    all_goals first | decide +kernel | rfl | (intro k h; cases h <;> decide +kernel) | (intro k c h; cases h <;> decide +kernel) | (left; rfl) | (left; decide +kernel) | (right; decide +kernel) | (right; left; decide +kernel) | (right; right; decide +kernel) | exact Or.inr ⟨_, by decide +kernel⟩ | exact ⟨_, by decide +kernel⟩⟩

theorem witness_CopyChannelsComplete_0_vf : ∃ (ag : Agent) (ch : Fin 16) (tail : BitVec 16) (s : State),
    Running s
    ∧ ((ag = .pf ∨ ∃ n, ag = .vf n ∧ s.chip.chFunc ch = n + 1))
    ∧ s.chip.on (HUB_HCOPY_CFG.ENABLE ch) = true
    ∧ subMod 16 tail.toNat (s.chip.get (HUB_HCOPY_STS.HEAD ch)) ≤ s.chip.chSize ch
    ∧ subMod 16 (s.chip.get (HUB_HCOPY_STS.TAIL ch)) (s.chip.get (HUB_HCOPY_STS.HEAD ch)) ≤ subMod 16 tail.toNat (s.chip.get (HUB_HCOPY_STS.HEAD ch)) :=
  ⟨.vf 9, 15, 64, mk ((on0.put (HUB_HCOPY_CFG.ENABLE 15) 1).put (HUB_HCOPY_CFG.FUNC 15) 10), by
    exact ⟨by decide +kernel, Or.inr ⟨9, by decide +kernel⟩, by decide +kernel⟩⟩

theorem witness_CopyChannelsComplete_1 : ∃ (ch : Fin 16) (pages : List (Nat × Option Nat)) (k : Nat) (d : Nat) (s : State),
    s.chip.pwr.on = true
    ∧ s.chip.get (HUB_HCOPY_STS.STATE ch) = 1
    ∧ s.chip.copying.find ch = none
    ∧ s.chip.chFunc ch ≤ 64
    ∧ s.chip.chFunc ch ∈ s.chip.pcie.bme
    ∧ s.chip.chFunc ch ∉ s.chip.pcie.ats
    ∧ s.chip.chDesc ch = some (k, d)
    ∧ s.chip.poisoned k 32 = false
    ∧ 4 ≤ bits d 128 32
    ∧ bits d 128 32 % 4 = 0
    ∧ s.chip.chPlace ch (bits d 64 48) (bits d 128 32) ≠ none :=
  ⟨0, [], 0, 2 ^ 160 + 4 * 2 ^ 128 + 0x1000 * 2 ^ 64, mk { (withBytes (on0.put (HUB_HCOPY_STS.STATE 0) 1) 0 (leBytes 32 (2 ^ 160 + 4 * 2 ^ 128 + 0x1000 * 2 ^ 64))) with pcie := { bme := [0] } }, by decide +kernel⟩

theorem witness_CopyChannelsComplete_2 : ∃ (ch : Fin 16) (run : CopyRun) (k : Nat) (d : Nat) (a : Nat) (data : List Byte) (bad : Bool) (s : State),
    s.chip.pwr.on = true
    ∧ Map.find s.chip.copying ch = some run
    ∧ run.pages = []
    ∧ s.chip.chDesc ch = some (k, d)
    ∧ s.chip.chPlace ch (bits d 64 48) (bits d 128 32) = some a
    ∧ bit d 160 = true
    ∧ bit d 182 = false
    ∧ s.chip.poisoned a (bits d 128 32) = false :=
  ⟨0, { head := 0 }, 0, 2 ^ 160 + 4 * 2 ^ 128 + 0x1000 * 2 ^ 64, 0x1000, [], false, mk { (withBytes ((on0.put (HUB_HCOPY_STS.STATE 0) 1).put (HUB_HCOPY_STS.TAIL 0) 1) 0 (leBytes 32 (2 ^ 160 + 4 * 2 ^ 128 + 0x1000 * 2 ^ 64))) with pcie := { bme := [0] }, copying := Map.set [] 0 { head := 0 } }, by decide +kernel⟩

theorem witness_CopyChannelsComplete_3 : ∃ (ag : Agent) (ch : Fin 16) (s : State),
    ag.pfSide = true
    ∧ s.chip.hears ag 0 = true
    ∧ s.chip.get (HUB_HCOPY_STS.STATE ch) = 2 :=
  ⟨.pf, 3, mk (on0.put (HUB_HCOPY_STS.STATE 3) 2), by decide +kernel⟩

theorem witness_BindingsAndConfigurationComplete_0 : ∃ (ag : Agent) (n : Fin 64) (v : Word) (s : State),
    ag.pfSide = true
    ∧ s.chip.hears ag 0 = true
    ∧ (((bits v.toNat 0 3 = s.chip.get (HUB_VF_BIND.BASIN n) ∧ bit v.toNat 3 = s.chip.on (HUB_VF_BIND.ADMIN n))
    ∨ s.chip.bindOk n (bits v.toNat 0 3) (bit v.toNat 3) (s.chip.word (HUB_VF_QMASK n)) = true)) :=
  ⟨.pf, 0, 8, mk (on0.put (HUB_VF_BIND.BASIN 0) 7), by decide +kernel⟩

theorem witness_BindingsAndConfigurationComplete_0_same : ∃ (ag : Agent) (n : Fin 64) (v : Word) (s : State),
    ag.pfSide = true
    ∧ s.chip.hears ag 0 = true
    ∧ (((bits v.toNat 0 3 = s.chip.get (HUB_VF_BIND.BASIN n) ∧ bit v.toNat 3 = s.chip.on (HUB_VF_BIND.ADMIN n))
    ∨ s.chip.bindOk n (bits v.toNat 0 3) (bit v.toNat 3) (s.chip.word (HUB_VF_QMASK n)) = true)) :=
  ⟨.pf, 0, 0x37, mk ((on0.put (HUB_VF_BIND.BASIN 0) 7).put (HUB_VF_BIND.REFUSED 0) 1), by decide +kernel⟩

theorem witness_BindingsAndConfigurationComplete_1 : ∃ (ag : Agent) (n : Fin 64) (v : Word) (s : State),
    ag.pfSide = true
    ∧ s.chip.hears ag 0 = true
    ∧ ((bits v.toNat 0 3 ≠ s.chip.get (HUB_VF_BIND.BASIN n) ∨ bit v.toNat 3 ≠ s.chip.on (HUB_VF_BIND.ADMIN n)))
    ∧ s.chip.bindOk n (bits v.toNat 0 3) (bit v.toNat 3) (s.chip.word (HUB_VF_QMASK n)) = false :=
  ⟨.pf, 0, 1, mk { (on0.put (HUB_VF_BIND.BASIN 0) 7) with pcie := { vfEn := true, mse := [1] } }, by decide +kernel⟩

theorem witness_BindingsAndConfigurationComplete_2 : ∃ (ag : Agent) (n : Fin 64) (v : Word) (s : State),
    ag.pfSide = true
    ∧ s.chip.hears ag 0 = true
    ∧ ((v.toNat = s.chip.word (HUB_VF_QMASK n) ∨ s.chip.bindOk n (s.chip.get (HUB_VF_BIND.BASIN n)) (s.chip.on (HUB_VF_BIND.ADMIN n)) v.toNat = true)) :=
  ⟨.pf, 63, 3, mk (on0.put (HUB_VF_BIND.BASIN 63) 5), by decide +kernel⟩

theorem witness_BindingsAndConfigurationComplete_3 : ∃ (ag : Agent) (n : Fin 64) (v : Word) (s : State),
    ag.pfSide = true
    ∧ s.chip.hears ag 0 = true
    ∧ v.toNat ≠ s.chip.word (HUB_VF_QMASK n)
    ∧ s.chip.bindOk n (s.chip.get (HUB_VF_BIND.BASIN n)) (s.chip.on (HUB_VF_BIND.ADMIN n)) v.toNat = false :=
  ⟨.pf, 63, 3, mk { (on0.put (HUB_VF_BIND.BASIN 63) 5) with pcie := { vfEn := true, bme := [64] } }, by decide +kernel⟩

theorem witness_BindingsAndConfigurationComplete_4 : ∃ (ag : Agent) (j : Fin 256) (v : Word) (s : State),
    s.chip.hears ag 0 = true
    ∧ ((ag.pfSide = true ∨ ∃ n, ag = .vf n ∧ s.chip.get (HUB_NOTIFY.BASIN j) = s.chip.get (HUB_VF_BIND.BASIN n)
    ∧ bits v.toNat 0 3 = s.chip.get (HUB_VF_BIND.BASIN n))) :=
  ⟨.sideband, 255, 0x10008, mk on0, by
    repeat' apply And.intro
    all_goals first | decide +kernel | rfl | (intro k h; cases h <;> decide +kernel) | (intro k c h; cases h <;> decide +kernel) | (left; rfl) | (left; decide +kernel) | (right; decide +kernel) | (right; left; decide +kernel) | (right; right; decide +kernel) | exact Or.inr ⟨_, by decide +kernel⟩ | exact ⟨_, by decide +kernel⟩⟩

theorem witness_BindingsAndConfigurationComplete_4_vf : ∃ (ag : Agent) (j : Fin 256) (v : Word) (s : State),
    s.chip.hears ag 0 = true
    ∧ ((ag.pfSide = true ∨ ∃ n, ag = .vf n ∧ s.chip.get (HUB_NOTIFY.BASIN j) = s.chip.get (HUB_VF_BIND.BASIN n)
    ∧ bits v.toNat 0 3 = s.chip.get (HUB_VF_BIND.BASIN n))) :=
  ⟨.vf 9, 255, 0x1000D, mk ((on0.put (HUB_VF_BIND.BASIN 9) 5).put (HUB_NOTIFY.BASIN 255) 5), by
    exact ⟨by decide +kernel, Or.inr ⟨9, by decide +kernel⟩⟩⟩

theorem witness_BindingsAndConfigurationComplete_5 : ∃ (on : Bool) (s : State),
    s.chip.pwr.on = true :=
  ⟨true, mk on0, by decide +kernel⟩

theorem witness_BindingsAndConfigurationComplete_6 : ∃ (f : Nat) (on : Bool) (w : CfgWr) (s : State),
    s.chip.pwr.on = true
    ∧ ((w = .memEnable f on ∨ w = .busMaster f on ∨ w = .ats f on)) :=
  ⟨64, true, .ats 64 true, mk on0, by decide +kernel⟩

theorem witness_BindingsAndConfigurationComplete_6_mem : ∃ (f : Nat) (on : Bool) (w : CfgWr) (s : State),
    s.chip.pwr.on = true
    ∧ ((w = .memEnable f on ∨ w = .busMaster f on ∨ w = .ats f on)) :=
  ⟨0, false, .memEnable 0 false, mk { on0 with pcie := { mse := [0, 1] } }, by decide +kernel⟩

theorem witness_BindingsAndConfigurationComplete_6_bus : ∃ (f : Nat) (on : Bool) (w : CfgWr) (s : State),
    s.chip.pwr.on = true
    ∧ ((w = .memEnable f on ∨ w = .busMaster f on ∨ w = .ats f on)) :=
  ⟨0, true, .busMaster 0 true, mk on0, by decide +kernel⟩

theorem witness_BindingsAndConfigurationComplete_7 : ∃ (n : Nat) (s : State),
    s.chip.pwr.on = true
    ∧ 28 ≤ n
    ∧ n ≤ 42 :=
  ⟨42, mk on0, by decide +kernel⟩

theorem witness_BindingsAndConfigurationComplete_7_same : ∃ (n : Nat) (s : State),
    s.chip.pwr.on = true
    ∧ 28 ≤ n
    ∧ n ≤ 42 :=
  ⟨36, mk (on0.setWord HUB_BAR4_BASE 0x31000000000), by decide +kernel⟩

theorem witness_BindingsAndConfigurationComplete_8 : ∃ (f : Nat) (s : State),
    s.chip.pwr.on = true :=
  ⟨64, mk { on0 with pcie := { vfEn := true, subsys := 5 } }, by decide +kernel⟩

theorem witness_BindingsAndConfigurationComplete_8_none : ∃ (f : Nat) (s : State),
    s.chip.pwr.on = true :=
  ⟨1, mk on0, by decide +kernel⟩

theorem witness_BindingsAndConfigurationComplete_9 : ∃ (f : Nat) (v : Nat) (on : Bool) (s : State),
    s.chip.pwr.on = true
    ∧ (f, v) ∉ s.chip.irqs :=
  ⟨0, 31, true, mk on0, by decide +kernel⟩

theorem witness_BindingsAndConfigurationComplete_10 : ∃ (f : Fin 65) (pasid : Option Nat) (page : Nat) (n : Nat) (s : State),
    s.chip.pwr.on = true :=
  ⟨0, none, 0, 1, mk { on0 with atc := [⟨0, none, 0, 5⟩, ⟨0, none, 1, 5⟩] }, by decide +kernel⟩

theorem witness_MailboxReportsComplete_0 : ∃ (ag : Agent) (s : State),
    s.Accepts ag 0x01 :=
  ⟨.pf, mk on0, by decide +kernel⟩

theorem witness_MailboxReportsComplete_1_fits : ∃ (ag : Agent) (off : Nat) (len : Nat) (s : State),
    s.Accepts ag 0x02
    ∧ ((off + len ≤ 0x800000 ∧ len ≤ mbxRespLen)) :=
  ⟨.pf, 0, 64, mk on0, by decide +kernel⟩

theorem witness_MailboxReportsComplete_1_outside : ∃ (ag : Agent) (off : Nat) (len : Nat) (s : State),
    s.Accepts ag 0x02
    ∧ (0x800000 < off + len) :=
  ⟨.sideband, 0x800000, 1, mk on0, by decide +kernel⟩

theorem witness_MailboxReportsComplete_2 : ∃ (ag : Agent) (s : State),
    s.Accepts ag 0x03 :=
  ⟨.sideband, mk on0, by decide +kernel⟩

theorem witness_MailboxReportsComplete_3 : ∃ (ag : Agent) (nonce : List Byte) (s : State),
    s.Accepts ag 0x04
    ∧ nonce.length = 32 :=
  ⟨.pf, List.replicate 32 7, mk on0, by decide +kernel⟩

theorem witness_MailboxReportsComplete_3_unsigned : ∃ (ag : Agent) (nonce : List Byte) (s : State),
    s.Accepts ag 0x04
    ∧ nonce.length = 32
    ∧ (s.maySign = false) :=
  ⟨.pf, List.replicate 32 7, mk on0 { nor := {}, level := 2 }, by decide +kernel⟩

theorem witness_ConfigurationCommandsComplete_0 : ∃ (ag : Agent) (off : Nat) (d : List Byte) (s : State),
    s.Accepts ag 0x20
    ∧ off + d.length ≤ policyArea.len - 64 :=
  ⟨.pf, 0, [1, 2], mk on0, by decide +kernel⟩

theorem witness_ConfigurationCommandsComplete_1 : ∃ (ag : Agent) (off : Nat) (d : List Byte) (s : State),
    s.Accepts ag 0x20
    ∧ policyArea.len - 64 < off + d.length :=
  ⟨.sideband, policyArea.len - 64, [1], mk on0, by decide +kernel⟩

theorem witness_ConfigurationCommandsComplete_2 : ∃ (ag : Agent) (slot : List Byte) (s : State),
    s.Accepts ag 0x21
    ∧ slot = (s.sec.path ag).stage.reads 0 (policyArea.len - 64) :=
  ⟨.sideband, Mem.reads {} 0 (policyArea.len - 64), mk on0, by
    exact ⟨by decide +kernel, rfl⟩⟩

theorem witness_ConfigurationCommandsComplete_3_none : ∃ (ag : Agent) (s : State),
    s.Accepts ag 0x22
    ∧ (s.sec.recAt policyArea (s.sec.target policyArea) = none) :=
  ⟨.pf, mk on0, by decide +kernel⟩

theorem witness_ConfigurationCommandsComplete_4_none : ∃ (ag : Agent) (k : Nat) (s : State),
    s.Accepts ag 0x23
    ∧ ((7 < k ∨ s.sec.recAt historyArea (historyArea.base + k * historyArea.len) = none)) :=
  ⟨.pf, 8, mk on0, by decide +kernel⟩

theorem witness_ConfigurationCommandsComplete_5 : ∃ (ag : Agent) (r : List Byte) (s : State),
    s.Accepts ag 0x30
    ∧ ownerArea.len - 64 < r.length :=
  ⟨.sideband, List.replicate (ownerArea.len - 63) 0, mk on0, by decide +kernel⟩

theorem witness_ConfigurationCommandsComplete_6_noOwner : ∃ (ag : Agent) (r0 : List Byte) (r : List Byte) (s : State),
    s.Accepts ag 0x30
    ∧ r0.length ≤ ownerArea.len - 64
    ∧ r = r0 ++ List.replicate (ownerArea.len - 64 - r0.length) 0
    ∧ (s.sec.owner = none) :=
  ⟨.sideband, [], List.replicate (ownerArea.len - 64) 0, mk on0, by
    exact ⟨by decide +kernel, by decide +kernel, rfl, by decide +kernel⟩⟩

theorem witness_DebugCommandsComplete_0 : ∃ (ag : Agent) (s : State),
    s.Accepts ag 0x50 :=
  ⟨.pf, mk on0, by decide +kernel⟩

theorem witness_DebugCommandsComplete_1 : ∃ (ag : Agent) (level : Nat) (token : List Byte) (s : State),
    s.Accepts ag 0x51
    ∧ s.sec.challenge = none :=
  ⟨.pf, 2, [], mk on0, by decide +kernel⟩

theorem witness_DebugCommandsComplete_2 : ∃ (ag : Agent) (token : List Byte) (ch : List Byte) (s : State),
    s.Accepts ag 0x51
    ∧ s.sec.challenge = some ch :=
  ⟨.pf, [], [1], mk on0 { nor := {}, challenge := some [1] }, by decide +kernel⟩

theorem witness_DebugCommandsComplete_3_noOwner : ∃ (ag : Agent) (token : List Byte) (ch : List Byte) (s : State),
    s.Accepts ag 0x51
    ∧ s.sec.challenge = some ch
    ∧ (s.sec.owner = none) :=
  ⟨.sideband, [], [1], mk on0 { nor := {}, challenge := some [1] }, by decide +kernel⟩

theorem witness_DebugCommandsComplete_4 : ∃ (ag : Agent) (level : Nat) (token : List Byte) (ch : List Byte) (s : State),
    s.Accepts ag 0x51
    ∧ s.sec.challenge = some ch
    ∧ level ≠ 1
    ∧ level ≠ 2 :=
  ⟨.sideband, 0, [], [1], mk on0 { nor := {}, challenge := some [1] }, by decide +kernel⟩

theorem witness_DebugCommandsComplete_5 : ∃ (ag : Agent) (s : State),
    s.Accepts ag 0x52 :=
  ⟨.pf, mk { on0 with dbgHalt := [1] } { nor := {}, level := 2 }, by decide +kernel⟩

theorem witness_DebugCommandsComplete_6 : ∃ (ag : Agent) (d : DbgOp) (s : State),
    s.Accepts ag 0x58
    ∧ s.sec.level = 0 :=
  ⟨.pf, .halt 0 0 true, mk on0, by decide +kernel⟩

theorem witness_DebugCommandsComplete_7 : ∃ (ag : Agent) (kc : Fin 104) (off : Nat) (len : Nat) (s : State),
    s.Accepts ag 0x58
    ∧ s.sec.level ≠ 0
    ∧ ((off + len ≤ cisSize ∧ len ≤ mbxRespLen)) :=
  ⟨.pf, 103, 0x17FFFF8, 8, mk on0 { nor := {}, level := 1 }, by decide +kernel⟩

theorem witness_DebugCommandsComplete_7_beyond : ∃ (ag : Agent) (kc : Fin 104) (off : Nat) (len : Nat) (s : State),
    s.Accepts ag 0x58
    ∧ s.sec.level ≠ 0
    ∧ (cisSize < off + len) :=
  ⟨.sideband, 103, 0x17FFFF9, 8, mk on0 { nor := {}, level := 1 }, by decide +kernel⟩

theorem witness_DebugCommandsComplete_8 : ∃ (ag : Agent) (kc : Fin 104) (k : Fin 2) (on : Bool) (s : State),
    s.Accepts ag 0x58
    ∧ s.sec.level ≠ 0 :=
  ⟨.pf, 103, 1, true, mk { on0 with dbgHalt := [3] } { nor := {}, level := 1 }, by decide +kernel⟩

theorem witness_DebugCommandsComplete_8_go : ∃ (ag : Agent) (kc : Fin 104) (k : Fin 2) (on : Bool) (s : State),
    s.Accepts ag 0x58
    ∧ s.sec.level ≠ 0 :=
  ⟨.sideband, 1, 1, false, mk { on0 with dbgHalt := [3, 4] } { nor := {}, level := 2 }, by decide +kernel⟩

theorem witness_DebugCommandsComplete_9 : ∃ (ag : Agent) (kc : Fin 104) (k : Fin 2) (s : State),
    s.Accepts ag 0x58
    ∧ s.sec.level ≠ 0
    ∧ 2 * (kc : Nat) + k ∈ s.chip.dbgHalt :=
  ⟨.pf, 0, 1, mk { run0.put (seqState 0 1) 1 with dbgHalt := [1] } { nor := {}, level := 1 }, by decide +kernel⟩

theorem witness_DebugCommandsComplete_9_sideband : ∃ (ag : Agent) (kc : Fin 104) (k : Fin 2) (s : State),
    s.Accepts ag 0x58
    ∧ s.sec.level ≠ 0
    ∧ 2 * (kc : Nat) + k ∈ s.chip.dbgHalt :=
  ⟨.sideband, 0, 1, mk { run0.put (seqState 0 1) 1 with dbgHalt := [1] } { nor := {}, level := 1 }, by decide +kernel⟩

theorem witness_DebugCommandsComplete_10 : ∃ (ag : Agent) (kc : Fin 104) (r : Nat) (s : State),
    s.Accepts ag 0x58
    ∧ s.sec.level ≠ 0
    ∧ r < 72 :=
  ⟨.pf, 103, 71, mk on0 { nor := {}, level := 1 }, by decide +kernel⟩

theorem witness_DebugCommandsComplete_10_vector : ∃ (ag : Agent) (kc : Fin 104) (r : Nat) (s : State),
    s.Accepts ag 0x58
    ∧ s.sec.level ≠ 0
    ∧ r < 72 :=
  ⟨.pf, 103, 63, mk on0 { nor := {}, level := 1 }, by decide +kernel⟩

theorem witness_CommandsEndAndRecordsFollow_0 : ∃ (r : MRun) (s : State),
    s.sec.pf.run = some r
    ∧ s.sec.mayEnd .pf r = true :=
  ⟨{ op := 1, tag := 5, result := 0 }, mk on0 { nor := {}, pf := { run := some { op := 1, tag := 5, result := 0 } } }, by decide +kernel⟩

theorem witness_CommandsEndAndRecordsFollow_1 : ∃ (r : MRun) (s : State),
    s.sec.sb.run = some r
    ∧ s.sec.mayEnd .sideband r = true :=
  ⟨{ op := 1, tag := 5, result := 0 }, mk on0 { nor := {}, sb := { run := some { op := 1, tag := 5, result := 0 } } }, by decide +kernel⟩

theorem witness_CommandsEndAndRecordsFollow_1_error : ∃ (r : MRun) (s : State),
    s.sec.sb.run = some r
    ∧ s.sec.mayEnd .sideband r = true :=
  ⟨{ op := 0x20, tag := 5, result := 6 }, mk on0 { nor := {}, sb := { run := some { op := 0x20, tag := 5, result := 6 } } }, by decide +kernel⟩

theorem witness_CommandsEndAndRecordsFollow_2 : ∃ (ag : Agent) (r : MRun) (s : State),
    (s.sec.path ag).run = some r
    ∧ s.sec.mayEnd ag r = false :=
  ⟨.pf, { op := 1, tag := 5, result := 0, behind := true }, mk on0 { nor := {}, pf := { run := some { op := 1, tag := 5, result := 0, behind := true } }, sb := { run := some { op := 1, tag := 5, result := 0 } } }, by decide +kernel⟩

theorem witness_CommandsEndAndRecordsFollow_3 : ∃ (ag : Agent) (s : State),
    s.Accepts ag 0x40
    ∧ s.chip.pwr.on = true :=
  ⟨.pf, mk on0, by decide +kernel⟩

theorem witness_CommandsEndAndRecordsFollow_4 : ∃ (s : State),
    s.Accepts .sideband 0x40
    ∧ s.chip.pwr.on = false
    ∧ s.chip.get HUB_BOOT_STS.STATE = 5
    ∧ s.chip.supplied = true :=
  ⟨mk (({ pwr := { vsb := true, rails := true, pwrgd := true } } : Chip).put HUB_BOOT_STS.STATE 5), by decide +kernel⟩

theorem witness_CommandsEndAndRecordsFollow_5 : ∃ (s : State),
    s.Accepts .sideband 0x40
    ∧ s.chip.pwr.on = false
    ∧ ((s.chip.get HUB_BOOT_STS.STATE ≠ 5 ∨ s.chip.supplied = false)) :=
  ⟨mk (({ pwr := { vsb := true } } : Chip).put HUB_BOOT_STS.STATE 5), by decide +kernel⟩

theorem witness_CommandsEndAndRecordsFollow_6 : ∃ (k : Combo) (n : Nat) (s : State),
    s.sec.combo = some k
    ∧ s.sec.readyAt = some n
    ∧ s.chip.ready = true
    ∧ s.sec.unclean = false :=
  ⟨{ policy := [], imgs := [] }, 0, mk on0 { nor := {}, combo := some { policy := [], imgs := [] }, readyAt := some 0 }, by decide +kernel⟩

theorem witness_CommandsEndAndRecordsFollow_7 : ∃ (s : State),
    s.chip.pwr.on = true
    ∧ s.sec.cfgRuns = false :=
  ⟨mk on0, by decide +kernel⟩

theorem witness_CommandsEndAndRecordsFollow_8 : ∃ (s : State),
    s.chip.pwr.on = true
    ∧ s.sec.cfgRuns = true :=
  ⟨mk on0 { nor := {}, sb := { run := some { op := 0x21, tag := 5, result := 0 } } }, by decide +kernel⟩

theorem witness_HubsHandOver_0 : ∃ (rep : Bool) (s : State),
    s.chip.pwr.on = true
    ∧ s.chip.on HUB_ROLE.STANDBY_OK = true
    ∧ s.chip.get HUB_ROLE.PRIMARY ∉ s.chip.hubDead :=
  ⟨true, mk (on0.put HUB_ROLE.STANDBY_OK 1), by decide +kernel⟩

theorem witness_HubsHandOver_1 : ∃ (ag : Agent) (s : State),
    ag.pfSide = true
    ∧ s.chip.hears ag 0 = true
    ∧ s.chip.on HUB_ROLE.STANDBY_OK = true :=
  ⟨.pf, mk (on0.put HUB_ROLE.STANDBY_OK 1), by decide +kernel⟩

theorem witness_HubsHandOver_2 : ∃ (rep : Bool) (s : State),
    s.chip.pwr.on = true
    ∧ s.chip.on HUB_ROLE.STANDBY_OK = false
    ∧ s.chip.get HUB_ROLE.PRIMARY ∉ s.chip.hubDead :=
  ⟨false, mk on0, by decide +kernel⟩

theorem witness_HubsHandOver_3 : ∃ (ag : Agent) (s : State),
    ag.pfSide = true
    ∧ s.chip.hears ag 0 = true
    ∧ s.chip.on HUB_ROLE.STANDBY_OK = false :=
  ⟨.sideband, mk on0, by decide +kernel⟩

theorem witness_LostDieIsReplaced_0 : ∃ (n : Fin 26) (b : Nat) (sl : Nat) (sp : Nat) (i : Instr) (s : State),
    ((i = .forgeHeartbeatLoss n ∨ i = .forgeDieError n))
    ∧ s.chip.pwr.on = true
    ∧ s.chip.modes.sheltered = true
    ∧ ((s.chip.get (HUB_FORGE_STATUS.STATE n) = 1 ∨ s.chip.get (HUB_FORGE_STATUS.STATE n) = 3))
    ∧ s.chip.dieBasin n = b
    ∧ b < 6
    ∧ s.chip.dieSlot n = sl
    ∧ sl < 5
    ∧ s.chip.get (BSN_QUENCH.STATE b) = 0
    ∧ s.chip.get (BSN_SECURE_STS.STATE b) < 2
    ∧ s.chip.spareCmd = none
    ∧ ((∀ p ∈ s.chip.picks, p.tick ≠ s.chip.get HUB_TICKS.TICKS))
    ∧ s.chip.pickSpare b = some sp :=
  ⟨0, 0, 0, 1, .forgeDieError 0, mk (((on0.unplace 1).put (HUB_FORGE_STATUS.STATE 1) 2).placeDie 0 0 0 1), by
    repeat' apply And.intro
    all_goals first | decide +kernel | rfl | (intro k h; cases h <;> decide +kernel) | (intro k c h; cases h <;> decide +kernel) | (left; rfl) | (left; decide +kernel) | (right; decide +kernel) | (right; left; decide +kernel) | (right; right; decide +kernel)⟩

theorem witness_LostDieIsReplaced_1 : ∃ (n : Fin 26) (b : Nat) (sl : Nat) (i : Instr) (s : State),
    ((i = .forgeHeartbeatLoss n ∨ i = .forgeDieError n))
    ∧ s.chip.pwr.on = true
    ∧ s.chip.modes.sheltered = true
    ∧ ((s.chip.get (HUB_FORGE_STATUS.STATE n) = 1 ∨ s.chip.get (HUB_FORGE_STATUS.STATE n) = 3))
    ∧ s.chip.dieBasin n = b
    ∧ b < 6
    ∧ s.chip.dieSlot n = sl
    ∧ sl < 5
    ∧ s.chip.get (BSN_QUENCH.STATE b) = 0
    ∧ s.chip.get (BSN_SECURE_STS.STATE b) < 2
    ∧ s.chip.spareCmd = none
    ∧ ((∀ p ∈ s.chip.picks, p.tick ≠ s.chip.get HUB_TICKS.TICKS))
    ∧ s.chip.pickSpare b = none :=
  ⟨0, 0, 0, .forgeHeartbeatLoss 0, mk die0, by
    repeat' apply And.intro
    all_goals first | decide +kernel | rfl | (intro k h; cases h <;> decide +kernel) | (intro k c h; cases h <;> decide +kernel) | (left; rfl) | (left; decide +kernel) | (right; decide +kernel) | (right; left; decide +kernel) | (right; right; decide +kernel)⟩

theorem witness_LostDieIsReplaced_2 : ∃ (n : Fin 26) (b : Nat) (sl : Nat) (m : Nat) (i : Instr) (s : State),
    ((i = .forgeHeartbeatLoss n ∨ i = .forgeDieError n))
    ∧ s.chip.pwr.on = true
    ∧ s.chip.modes.sheltered = false
    ∧ s.chip.get (HUB_FORGE_STATUS.STATE n) = 1
    ∧ s.chip.dieBasin n = b
    ∧ b < 6
    ∧ s.chip.dieSlot n = sl
    ∧ sl < 4
    ∧ s.chip.get (BSN_QUENCH.STATE b) = 0
    ∧ s.chip.spareCmd = none
    ∧ s.chip.get (BSN_DIE_MAP.SLOTS b) = 5
    ∧ s.chip.slotDie b 4 = m
    ∧ m < 26
    ∧ m ≠ n :=
  ⟨0, 0, 0, 9, .forgeHeartbeatLoss 0, mk { ((die0.placeDie 0 4 9 1).put (BSN_DIE_MAP.SLOTS 0) 5) with modes := { sheltered := false } }, by decide +kernel⟩

theorem witness_LostDieIsReplaced_3 : ∃ (n : Fin 26) (i : Instr) (s : State),
    ((i = .forgeHeartbeatLoss n ∨ i = .forgeDieError n))
    ∧ s.chip.pwr.on = true
    ∧ s.chip.get (HUB_FORGE_STATUS.STATE n) = 2
    ∧ s.chip.dieBasin n = 7
    ∧ s.chip.spareCmd = none :=
  ⟨25, .forgeDieError 25, mk ((on0.unplace 25).put (HUB_FORGE_STATUS.STATE 25) 2), by decide +kernel⟩

theorem witness_LostDieIsReplaced_4 : ∃ (n : Fin 26) (i : Instr) (s : State),
    ((i = .forgeHeartbeatLoss n ∨ i = .forgeDieError n))
    ∧ s.chip.pwr.on = true
    ∧ ((s.chip.get (HUB_FORGE_STATUS.STATE n) = 4 ∨ s.chip.get (HUB_FORGE_STATUS.STATE n) = 5)) :=
  ⟨25, .forgeHeartbeatLoss 25, mk ((on0.unplace 25).put (HUB_FORGE_STATUS.STATE 25) 5), by decide +kernel⟩

theorem witness_SparesAndRoutersComplete_0 : ∃ (b : Fin 6) (s : State),
    s.chip.pwr.on = true
    ∧ (s.chip.basinDies b).filter (fun n => s.chip.get (HUB_FORGE_STATUS.STATE n) == 3) ≠ [] :=
  ⟨0, mk (on0.placeDie 0 0 0 3), by decide +kernel⟩

theorem witness_SparesAndRoutersComplete_1 : ∃ (n : Fin 26) (good : Bool) (s : State),
    s.chip.pwr.on = true
    ∧ s.chip.modes.sheltered = true
    ∧ s.chip.spareCmd = none
    ∧ s.chip.get (HUB_FORGE_STATUS.STATE n) = 4
    ∧ s.chip.dieBasin n = 7 :=
  ⟨25, true, mk (((on0.unplace 25).put (HUB_FORGE_STATUS.STATE 25) 4).put (HUB_FORGE_STATUS.FAIL_COUNT 25) 1), by decide +kernel⟩

theorem witness_SparesAndRoutersComplete_2 : ∃ (n : Fin 26) (good : Bool) (m : SpareCmd) (s : State),
    s.chip.pwr.on = true
    ∧ s.chip.spareCmd = some m
    ∧ m.action = 2
    ∧ m.target = n
    ∧ s.chip.get (HUB_FORGE_STATUS.STATE n) ≠ 1
    ∧ s.chip.get (HUB_FORGE_STATUS.STATE n) ≠ 3
    ∧ s.chip.dieBasin n = 7 :=
  ⟨25, true, { target := 25, spare := 31, action := 2, chosen := false }, mk { ((on0.unplace 25).put (HUB_FORGE_STATUS.STATE 25) 5) with spareCmd := some { target := 25, spare := 31, action := 2, chosen := false } }, by decide +kernel⟩

theorem witness_SparesAndRoutersComplete_3 : ∃ (n : Fin 26) (s : State),
    s.chip.pwr.on = true
    ∧ s.chip.spareCmd = none
    ∧ s.chip.get (HUB_FORGE_STATUS.STATE n) = 2
    ∧ s.chip.dieBasin n = 7 :=
  ⟨25, mk ((on0.unplace 25).put (HUB_FORGE_STATUS.STATE 25) 2), by decide +kernel⟩

theorem witness_SparesAndRoutersComplete_5 : ∃ (ag : Agent) (target : Fin 32) (spare : Fin 32) (s : State),
    ag.pfSide = true
    ∧ s.chip.hears ag 0 = true
    ∧ s.chip.on HUB_SPARE_STS.BUSY = false
    ∧ (target : Nat) < 26
    ∧ (spare : Nat) < 26
    ∧ s.chip.modes.sheltered = true
    ∧ s.chip.dieBasin target < 6
    ∧ s.chip.allIdle (s.chip.dieBasin target) = true
    ∧ s.chip.get (HUB_FORGE_STATUS.STATE spare) = 2 :=
  ⟨.pf, 0, 1, mk ((die0.unplace 1).put (HUB_FORGE_STATUS.STATE 1) 2), by decide +kernel⟩

theorem witness_SparesAndRoutersComplete_6 : ∃ (ag : Agent) (target : Fin 32) (s : State),
    ag.pfSide = true
    ∧ s.chip.hears ag 0 = true
    ∧ s.chip.on HUB_SPARE_STS.BUSY = false
    ∧ (target : Nat) < 26
    ∧ s.chip.modes.sheltered = true :=
  ⟨.pf, 25, mk on0, by decide +kernel⟩

theorem witness_SparesAndRoutersComplete_7 : ∃ (ag : Agent) (target : Fin 32) (s : State),
    ag.pfSide = true
    ∧ s.chip.hears ag 0 = true
    ∧ s.chip.on HUB_SPARE_STS.BUSY = false
    ∧ (target : Nat) < 26
    ∧ s.chip.get (HUB_FORGE_STATUS.STATE target) ≠ 1 :=
  ⟨.pf, 25, mk ((on0.unplace 25).put (HUB_FORGE_STATUS.STATE 25) 4), by decide +kernel⟩

theorem witness_SparesAndRoutersComplete_8 : ∃ (ag : Agent) (target : Fin 32) (spare : Fin 32) (i : Instr) (s : State),
    ag.pfSide = true
    ∧ s.chip.hears ag 0 = true
    ∧ ((i = .spareSubstitute ag target spare ∨ i = .spareReturn ag target ∨ i = .spareRetire ag target))
    ∧ ((s.chip.on HUB_SPARE_STS.BUSY = true ∨ 26 ≤ (target : Nat))) :=
  ⟨.pf, 25, 31, .spareRetire .pf 25, mk (on0.put HUB_SPARE_STS.BUSY 1), by decide +kernel⟩

theorem witness_SparesAndRoutersComplete_8_target : ∃ (ag : Agent) (target : Fin 32) (spare : Fin 32) (i : Instr) (s : State),
    ag.pfSide = true
    ∧ s.chip.hears ag 0 = true
    ∧ ((i = .spareSubstitute ag target spare ∨ i = .spareReturn ag target ∨ i = .spareRetire ag target))
    ∧ ((s.chip.on HUB_SPARE_STS.BUSY = true ∨ 26 ≤ (target : Nat)))
    ∧ (s.chip.on HUB_SPARE_STS.BUSY = false) :=
  ⟨.sideband, 26, 31, .spareSubstitute .sideband 26 31, mk on0, by decide +kernel⟩

theorem witness_SparesAndRoutersComplete_9 : ∃ (m : SpareCmd) (good : Bool) (s : State),
    s.chip.pwr.on = true
    ∧ s.chip.spareCmd = some m
    ∧ m.action = 2
    ∧ m.retest = some good :=
  ⟨{ target := 3, spare := 31, action := 2, chosen := false, retest := some true }, true, mk { (on0.put HUB_SPARE_STS.BUSY 1) with spareCmd := some { target := 3, spare := 31, action := 2, chosen := false, retest := some true } }, by decide +kernel⟩

theorem witness_SparesAndRoutersComplete_10 : ∃ (m : SpareCmd) (b : Nat) (sl : Nat) (s : State),
    s.chip.pwr.on = true
    ∧ s.chip.spareCmd = some m
    ∧ m.action ≠ 2
    ∧ m.spare < 26
    ∧ m.target < 26
    ∧ m.spare ≠ m.target
    ∧ s.chip.dieBasin m.target = b
    ∧ b < 6
    ∧ s.chip.dieSlot m.target = sl
    ∧ sl < 5
    ∧ s.chip.get (HUB_FORGE_STATUS.STATE m.target) = 1 :=
  ⟨{ target := 0, spare := 1, action := 1, chosen := false }, 0, 0, mk { ((die0.unplace 1).put (HUB_FORGE_STATUS.STATE 1) 2) with spareCmd := some { target := 0, spare := 1, action := 1, chosen := false } }, by decide +kernel⟩

theorem witness_SparesAndRoutersComplete_10_retire : ∃ (m : SpareCmd) (b : Nat) (sl : Nat) (s : State),
    s.chip.pwr.on = true
    ∧ s.chip.spareCmd = some m
    ∧ m.action ≠ 2
    ∧ m.spare < 26
    ∧ m.target < 26
    ∧ m.spare ≠ m.target
    ∧ s.chip.dieBasin m.target = b
    ∧ b < 6
    ∧ s.chip.dieSlot m.target = sl
    ∧ sl < 5
    ∧ s.chip.get (HUB_FORGE_STATUS.STATE m.target) = 1 :=
  ⟨{ target := 0, spare := 1, action := 3, chosen := true }, 0, 0, mk { ((die0.unplace 1).put (HUB_FORGE_STATUS.STATE 1) 2) with spareCmd := some { target := 0, spare := 1, action := 3, chosen := true } }, by decide +kernel⟩

theorem witness_SparesAndRoutersComplete_11 : ∃ (m : SpareCmd) (s : State),
    s.chip.pwr.on = true
    ∧ s.chip.spareCmd = some m
    ∧ m.action = 3
    ∧ 26 ≤ m.spare
    ∧ m.target < 26 :=
  ⟨{ target := 25, spare := 31, action := 3, chosen := false }, mk { on0.put HUB_SPARE_STS.BUSY 1 with spareCmd := some { target := 25, spare := 31, action := 3, chosen := false } }, by decide +kernel⟩

theorem witness_SparesAndRoutersComplete_12 : ∃ (n : Fin 32) (s : State),
    s.chip.pwr.on = true
    ∧ (n : Nat) < 26
    ∧ s.chip.routers = []
    ∧ s.chip.get (HUB_FORGE_STATUS.STATE n) = 5 :=
  ⟨25, mk (on0.put (HUB_FORGE_STATUS.STATE 25) 5), by decide +kernel⟩

theorem witness_QuenchAndReturn_0 : ∃ (b : Fin 6) (s : State),
    s.chip.pwr.on = true
    ∧ s.chip.get (BSN_WDOG.PERIOD b) ≠ 0
    ∧ s.chip.get (BSN_WDOG.PERIOD b) ≤ s.chip.get (BSN_WDOG.COUNT b)
    ∧ s.chip.get (BSN_QUENCH.STATE b) ≠ 1 :=
  ⟨0, mk ((die0.put (BSN_WDOG.PERIOD 0) 5).put (BSN_WDOG.COUNT 0) 5), by decide +kernel⟩

theorem witness_QuenchAndReturn_1 : ∃ (ag : Agent) (b : Fin 6) (s : State),
    s.chip.hears ag 0x20000 = true
    ∧ s.chip.mayQuench ag b = true
    ∧ s.chip.get (BSN_QUENCH.STATE b) ≠ 1 :=
  ⟨.pf, 0, mk die0, by decide +kernel⟩

theorem witness_QuenchAndReturn_2 : ∃ (b : Fin 6) (good : Bool) (s : State),
    s.chip.pwr.on = true
    ∧ s.chip.get (BSN_QUENCH.STATE b) = 1 :=
  ⟨5, false, mk (on0.put (BSN_QUENCH.STATE 5) 1), by decide +kernel⟩

theorem witness_QuenchAndReturn_3 : ∃ (ag : Agent) (b : Fin 6) (s : State),
    s.chip.hears ag 0x20000 = true
    ∧ s.chip.mayQuench ag b = true
    ∧ s.chip.get (BSN_QUENCH.STATE b) = 2 :=
  ⟨.pf, 5, mk (on0.put (BSN_QUENCH.STATE 5) 2), by decide +kernel⟩

theorem witness_RiskWearAndReplica_0 : ∃ (ce : Nat) (ue : Nat) (cw : Nat) (droop : Nat) (s : State),
    s.chip.pwr.on = true :=
  ⟨0, 0, 0, 0, mk on0, by decide +kernel⟩

theorem witness_RiskWearAndReplica_1 : ∃ (j : Fin 6) (days : Nat) (low : Nat) (samples : Nat) (u : BitVec 16) (k : Fin 12) (p : Fin 64) (s : State),
    s.chip.pwr.on = true :=
  ⟨5, 100, 50, 91, 3, 0, 0, mk on0, by decide +kernel⟩

theorem witness_RiskWearAndReplica_2 : ∃ (days : Nat) (low : Nat) (samples : Nat) (u : BitVec 16) (k : Fin 12) (p : Fin 64) (s : State),
    s.chip.pwr.on = true
    ∧ 7 ≤ samples
    ∧ days < 0xFFFF
    ∧ low ≤ s.chip.get ASY_WEAR_CTL.HORIZON
    ∧ low < 0xFFFF
    ∧ s.chip.get (HBM_REBUILD.KIND k) = 0
    ∧ s.chip.spareFree k = true
    ∧ s.chip.get (HBM_STACK_STS.STATE k) ≠ 5
    ∧ bit (s.chip.get (HBM_LOST_MAP.LOST k)) p = false :=
  ⟨100, 50, 91, 3, 11, 63, mk (on0.put ASY_WEAR_CTL.HORIZON 50), by decide +kernel⟩

theorem witness_RiskWearAndReplica_3 : ∃ (ag : Agent) (v : Word) (s : State),
    ag.top = true
    ∧ s.chip.hears ag 0x20000 = true
    ∧ ((bit v.toNat 34 = false ∨ s.chip.on ASY_RISK.EXPOSED = true ∨ (s.chip.get ASY_REPLICA.FEED ≠ bits v.toNat 26 8 ∧ s.chip.get ASY_REPLICA.FEED ≠ 0xFF))) :=
  ⟨.pf, 2 ^ 34 + 7 * 2 ^ 26, mk (on0.put ASY_REPLICA.FEED 1), by decide +kernel⟩

theorem witness_RiskWearAndReplica_4 : ∃ (ag : Agent) (v : Word) (s : State),
    ag.top = true
    ∧ s.chip.hears ag 0x20000 = true
    ∧ bit v.toNat 34 = true
    ∧ s.chip.on ASY_RISK.EXPOSED = false
    ∧ ((s.chip.get ASY_REPLICA.FEED = bits v.toNat 26 8 ∨ s.chip.get ASY_REPLICA.FEED = 0xFF)) :=
  ⟨.pf, 2 ^ 34 + 2 ^ 26, mk ((on0.put ASY_REPLICA.FEED 1).put ASY_RISK.EXPOSED 0), by decide +kernel⟩

theorem witness_SecureStepsComplete_0 : ∃ (ag : Agent) (b : Fin 6) (n : BitVec 32) (d : SecDesc) (s : State),
    s.chip.hears ag 0x20000 = true
    ∧ s.chip.mayBsn ag b = true
    ∧ s.chip.wasResolved b n.toNat = false
    ∧ s.chip.get (BSN_SECURE_STS.STATE b) < 2
    ∧ s.chip.secDesc b = some d :=
  ⟨.pf, 0, 5, desc0, mk (sec0 0), by decide +kernel⟩

theorem witness_SecureStepsComplete_1 : ∃ (ag : Agent) (b : Fin 6) (n : BitVec 32) (s : State),
    s.chip.hears ag 0x20000 = true
    ∧ s.chip.mayBsn ag b = true
    ∧ ((s.chip.wasResolved b n.toNat = true ∨ 2 ≤ s.chip.get (BSN_SECURE_STS.STATE b) ∨ s.chip.secDesc b = none)) :=
  ⟨.pf, 5, 5, mk on0, by decide +kernel⟩

theorem witness_SecureStepsComplete_1_resolved : ∃ (ag : Agent) (b : Fin 6) (n : BitVec 32) (s : State),
    s.chip.hears ag 0x20000 = true
    ∧ s.chip.mayBsn ag b = true
    ∧ ((s.chip.wasResolved b n.toNat = true ∨ 2 ≤ s.chip.get (BSN_SECURE_STS.STATE b) ∨ s.chip.secDesc b = none)) :=
  ⟨.sideband, 0, 0, mk (sec0 1), by decide +kernel⟩

theorem witness_SecureStepsComplete_2 : ∃ (b : Fin 6) (d : SecDesc) (s : State),
    s.chip.pwr.on = true
    ∧ s.chip.get (BSN_SECURE_STS.STATE b) = 1
    ∧ s.chip.wasResolved b (s.chip.secureStep b) = true
    ∧ s.chip.engineBusy b (s.chip.secureStep b) = false
    ∧ s.chip.engineBusy b (s.chip.secureStep b - 1) = false
    ∧ s.chip.secDesc b = some d :=
  ⟨0, desc0, mk (sec0 1), by decide +kernel⟩

theorem witness_SecureStepsComplete_3 : ∃ (b : Fin 6) (s : State),
    s.chip.pwr.on = true
    ∧ s.chip.get (BSN_SECURE_STS.STATE b) = 1
    ∧ s.chip.wasResolved b (s.chip.secureStep b) = true
    ∧ s.chip.engineBusy b (s.chip.secureStep b) = false
    ∧ s.chip.engineBusy b (s.chip.secureStep b - 1) = false
    ∧ s.chip.secDesc b = none :=
  ⟨0, mk (((sec0 1).put (BSN_SECURE_BASE.BASE 0) 0x602000)), by decide +kernel⟩

theorem witness_SecureStepsComplete_4 : ∃ (b : Fin 6) (d : SecDesc) (s : State),
    s.chip.pwr.on = true
    ∧ s.chip.get (BSN_SECURE_STS.STATE b) = 2
    ∧ s.chip.secDesc b = some d
    ∧ s.chip.poison = [] :=
  ⟨0, desc0, mk (sec0 2), by decide +kernel⟩

theorem witness_SecureStepsComplete_5 : ∃ (b : Fin 6) (good : Bool) (s : State),
    s.chip.pwr.on = true
    ∧ s.chip.get (BSN_SECURE_STS.STATE b) = 3 :=
  ⟨5, false, mk (on0.put (BSN_SECURE_STS.STATE 5) 3), by decide +kernel⟩

theorem witness_SecureStepsComplete_6 : ∃ (ag : Agent) (b : Fin 6) (s : State),
    s.chip.hears ag 0x20000 = true
    ∧ s.chip.mayBsn ag b = true
    ∧ s.chip.get (BSN_SECURE_STS.STATE b) = 3 :=
  ⟨.pf, 5, mk (on0.put (BSN_SECURE_STS.STATE 5) 3), by decide +kernel⟩

theorem witness_SecureStepsComplete_7 : ∃ (ag : Agent) (b : Fin 6) (s : State),
    s.chip.get (BSN_SECURE_STS.STATE b) ≠ 3 :=
  ⟨.pf, 5, mk on0, by decide +kernel⟩

theorem witness_RecoveryCommandsComplete_0 : ∃ (ag : Agent) (b : Fin 6) (s : State),
    s.chip.hears ag 0x20000 = true
    ∧ ag.top = true
    ∧ s.chip.on (BSN_RECOVER.BUSY b) = false :=
  ⟨.pf, 5, mk on0, by decide +kernel⟩

theorem witness_RecoveryCommandsComplete_1 : ∃ (ag : Agent) (b : Fin 6) (n : BitVec 32) (target : BitVec 18) (act : Nat) (i : Instr) (s : State),
    s.chip.hears ag 0x20000 = true
    ∧ ag.top = true
    ∧ s.chip.on (BSN_RECOVER.BUSY b) = false
    ∧ (s.chip.bs b).stopped = true
    ∧ s.chip.recovSlot b act n.toNat ≠ none
    ∧ (((i = .rewind ag b n ∧ act = 2 ∧ target = 0) ∨ (i = .send ag b n target ∧ act = 3) ∨ (i = .adopt ag b n ∧ act = 4 ∧ target = 0))) :=
  ⟨.pf, 0, 7, 0, 2, .rewind .pf 0 7, mk (withBytes ((sec0 0).setBs 0 { stopped := true }) 0x1000FFC0 (leBytes 64 (commitRec 2 1 7 0 (sha3 [])))), by decide +kernel⟩

theorem witness_RecoveryCommandsComplete_2 : ∃ (ag : Agent) (b : Fin 6) (n : BitVec 32) (target : BitVec 18) (act : Nat) (i : Instr) (s : State),
    s.chip.hears ag 0x20000 = true
    ∧ ag.top = true
    ∧ s.chip.on (BSN_RECOVER.BUSY b) = false
    ∧ (((s.chip.bs b).stopped = false ∨ s.chip.recovSlot b act n.toNat = none))
    ∧ (((i = .rewind ag b n ∧ act = 2) ∨ (i = .send ag b n target ∧ act = 3) ∨ (i = .adopt ag b n ∧ act = 4))) :=
  ⟨.pf, 5, 3, 9, 3, .send .pf 5 3 9, mk on0, by decide +kernel⟩

theorem witness_RecoveryCommandsComplete_2_noslot : ∃ (ag : Agent) (b : Fin 6) (n : BitVec 32) (target : BitVec 18) (act : Nat) (i : Instr) (s : State),
    s.chip.hears ag 0x20000 = true
    ∧ ag.top = true
    ∧ s.chip.on (BSN_RECOVER.BUSY b) = false
    ∧ (((s.chip.bs b).stopped = false ∨ s.chip.recovSlot b act n.toNat = none))
    ∧ (((i = .rewind ag b n ∧ act = 2) ∨ (i = .send ag b n target ∧ act = 3) ∨ (i = .adopt ag b n ∧ act = 4))) :=
  ⟨.pf, 5, 3, 9, 4, .adopt .pf 5 3, mk (on0.setBs 5 { stopped := true }), by decide +kernel⟩

theorem witness_RecoveryCommandsComplete_3 : ∃ (b : Fin 6) (twice : Bool) (lost : Bool) (n : Nat) (target : Nat) (s : State),
    s.chip.pwr.on = true
    ∧ (s.chip.bs b).recov = some (1, n, target)
    ∧ ((∀ o ∈ s.chip.ops, o.flow.basin ≠ b)) :=
  ⟨5, false, false, 0, 0, mk ((on0.put (BSN_RECOVER.BUSY 5) 1).setBs 5 { recov := some (1, 0, 0) }), by
    exact ⟨by decide +kernel, by decide +kernel, fun o h => by cases h⟩⟩

theorem witness_RecoveryCommandsComplete_4 : ∃ (b : Fin 6) (twice : Bool) (lost : Bool) (n : Nat) (target : Nat) (d : SecDesc) (k : Slot) (s : State),
    s.chip.pwr.on = true
    ∧ (s.chip.bs b).recov = some (3, n, target)
    ∧ s.chip.recovSlot b 3 n = some (d, k) :=
  ⟨0, false, false, 7, 9, desc0, ⟨0x20000000, 1, 7, 0⟩, mk (withBytes (((sec0 0).put (ASY_ROUTE.VALID 3) 1).setBs 0 { stopped := true, recov := some (3, 7, 9) }) 0x2000FFC0 (leBytes 64 (commitRec 1 1 7 0 (sha3 [])))), by decide +kernel⟩

theorem witness_RecoveryCommandsComplete_5 : ∃ (b : Fin 6) (twice : Bool) (lost : Bool) (act : Nat) (n : Nat) (target : Nat) (d : SecDesc) (k : Slot) (s : State),
    s.chip.pwr.on = true
    ∧ ((act = 2 ∨ act = 4))
    ∧ (s.chip.bs b).recov = some (act, n, target)
    ∧ s.chip.recovSlot b act n = some (d, k) :=
  ⟨0, false, false, 2, 7, 0, desc0, ⟨0x10000000, 1, 7, 0⟩, mk (withBytes ((sec0 0).setBs 0 { stopped := true, recov := some (2, 7, 0) }) 0x1000FFC0 (leBytes 64 (commitRec 2 1 7 0 (sha3 [])))), by decide +kernel⟩

theorem witness_RecoveryCommandsComplete_5_lost : ∃ (b : Fin 6) (twice : Bool) (lost : Bool) (act : Nat) (n : Nat) (target : Nat) (d : SecDesc) (k : Slot) (s : State),
    s.chip.pwr.on = true
    ∧ ((act = 2 ∨ act = 4))
    ∧ (s.chip.bs b).recov = some (act, n, target)
    ∧ s.chip.recovSlot b act n = some (d, k) :=
  ⟨0, false, true, 4, 7, 0, desc0, ⟨0x10000000, 1, 7, 0⟩, mk (withBytes ((sec0 0).setBs 0 { stopped := true, recov := some (4, 7, 0) }) 0x1000FFC0 (leBytes 64 (commitRec 1 1 7 0 (sha3 [])))), by decide +kernel⟩

theorem witness_ClustersSleepAndWake_0 : ∃ (kc : Fin 104) (s : State),
    s.chip.pwr.on = true
    ∧ s.chip.clBasin kc < 6
    ∧ s.chip.kernOf kc = none
    ∧ (s.chip.cl kc).gated = false
    ∧ (s.chip.cl kc).pllOn = true :=
  ⟨3, mk die0, by decide +kernel⟩

theorem witness_ClustersSleepAndWake_1 : ∃ (kc : Fin 104) (q : Fin 64) (s : State),
    s.chip.pwr.on = true
    ∧ s.chip.clBasin kc < 6
    ∧ s.chip.wakes (s.chip.clBasin kc) q kc = true :=
  ⟨0, 0, mk (ring (die0.setCl 0 { pllOn := false }) (1 + 2 ^ 128)), by decide +kernel⟩

theorem witness_ClustersSleepAndWake_2 : ∃ (ag : Agent) (b : Fin 6) (s : State),
    s.chip.hears ag 0x20000 = true
    ∧ s.chip.mayBsn ag b = true :=
  ⟨.pf, 0, mk (die0.setCl 2 { pllOn := false }), by decide +kernel⟩

theorem witness_ClustersSleepAndWake_3 : ∃ (kc : Fin 104) (s : State),
    s.chip.pwr.on = true
    ∧ (s.chip.cl kc).pllStart = true :=
  ⟨103, mk (on0.setCl 103 { pllOn := false, pllStart := true }), by decide +kernel⟩

theorem witness_PowerAndTemperatureComplete_0 : ∃ (n : Fin 26) (s : State),
    s.chip.pwr.on = true
    ∧ s.chip.modes.boost = true
    ∧ s.chip.dieBasin n < 6
    ∧ 0 < s.chip.get (PWR_DIE_STS.FREQ n) :=
  ⟨0, mk { (die0.put (PWR_DIE_STS.FREQ 0) 8) with modes := { boost := true } }, by decide +kernel⟩

theorem witness_PowerAndTemperatureComplete_1 : ∃ (n : Fin 26) (s : State),
    s.chip.pwr.on = true
    ∧ s.chip.modes.boost = true
    ∧ s.chip.dieBasin n < 6
    ∧ s.chip.get (PWR_DIE_STS.FREQ n) < 8
    ∧ s.chip.get (PWR_DIE_STS.LEVEL n) = 64
    ∧ s.chip.get (PWR_GRANT.AVG (s.chip.dieBasin n)) + 2 * s.chip.liveCls n ≤ s.chip.get (PWR_GRANT.GRANT (s.chip.dieBasin n))
    ∧ s.chip.get (TMP_DIE.TMAX n) < 8 * s.chip.get TMP_CTL.BOOST_T
    ∧ (s.chip.dieP n).droopAt = none
    ∧ (s.chip.dieP n).boostAt = none :=
  ⟨0, mk { ((((die0.put (PWR_DIE_STS.FREQ 0) 7).put (PWR_DIE_STS.LEVEL 0) 64).put TMP_CTL.BOOST_T 95)) with modes := { boost := true } }, by decide +kernel⟩

theorem witness_PowerAndTemperatureComplete_2 : ∃ (terms : List (Nat × Nat)) (energy : List Nat) (hbm : List Bool) (avg : Nat) (last : Nat) (s : State),
    s.chip.pwr.on = true :=
  ⟨[], [], [], 100, 5000, mk on0, by decide +kernel⟩

theorem witness_PowerAndTemperatureComplete_3 : ∃ (gs : List Nat) (shared : Nat) (s : State),
    s.chip.pwr.on = true
    ∧ s.chip.singleTenancy = true
    ∧ gs.length = 6
    ∧ ((∀ b < 6, s.chip.get (PWR_GRANT.MIN b) ≤ gs.getD b 0 ∧ gs.getD b 0 ≤ 1200))
    ∧ gs.sum + shared ≤ s.chip.get PWR_CAP.CAP_W :=
  ⟨[1, 1, 1, 1, 1, 1], 0, mk ((List.range 6).foldl (fun c b => c.put (PWR_GRANT.MIN b) 0) on0), by
    repeat' apply And.intro
    all_goals first | decide +kernel | rfl | (intro k h; cases h <;> decide +kernel) | (intro k c h; cases h <;> decide +kernel) | (left; rfl) | (left; decide +kernel) | (right; decide +kernel) | (right; left; decide +kernel) | (right; right; decide +kernel)⟩

theorem witness_PowerAndTemperatureComplete_4 : ∃ (n : Fin 44) (v : Nat) (sl : Int) (rest : List (Nat × Int)) (s : State),
    s.chip.pwr.on = true
    ∧ 32 ≤ (n : Nat)
    ∧ v < 840 :=
  ⟨43, 839, 0, [], mk on0, by decide +kernel⟩

theorem witness_PowerAndTemperatureComplete_5 : ∃ (n : Fin 44) (v : Nat) (sl : Int) (rest : List (Nat × Int)) (s : State),
    s.chip.pwr.on = true
    ∧ 32 ≤ (n : Nat)
    ∧ 840 ≤ v :=
  ⟨32, 840, 0, [(5, 1)], mk on0, by decide +kernel⟩

theorem witness_PowerAndTemperatureComplete_6 : ∃ (n : Fin 44) (v : Nat) (sl : Int) (s : State),
    s.chip.pwr.on = true
    ∧ (n : Nat) < 32
    ∧ v < 960
    ∧ ((26 ≤ (n : Nat) ∨ ((s.chip.dieP n).clamp = false ∧ predict v sl (s.chip.get TMP_CTL.PRED_H) ≤ 10500000))) :=
  ⟨31, 959, -3, mk on0, by decide +kernel⟩

theorem witness_PowerAndTemperatureComplete_6_forge : ∃ (n : Fin 44) (v : Nat) (sl : Int) (s : State),
    s.chip.pwr.on = true
    ∧ (n : Nat) < 32
    ∧ v < 960
    ∧ ((26 ≤ (n : Nat) ∨ ((s.chip.dieP n).clamp = false ∧ predict v sl (s.chip.get TMP_CTL.PRED_H) ≤ 10500000))) :=
  ⟨25, 600, 0, mk (on0.put TMP_CTL.PRED_H 10), by decide +kernel⟩

theorem witness_PowerAndTemperatureComplete_7 : ∃ (n : Fin 44) (v : Nat) (sl : Int) (s : State),
    s.chip.pwr.on = true
    ∧ (n : Nat) < 32
    ∧ 960 ≤ v
    ∧ 0 ∈ (s.chip.dieP n).hot
    ∧ ((∀ k, s.chip.lastTrip = some k → k + 20000000 ≤ s.chip.ticks)) :=
  ⟨25, 960, 0, mk { on0 with dies := Map.put {} [] 25 { hot := [0] } }, by
    exact ⟨by decide +kernel, by decide +kernel, by decide +kernel, by decide +kernel, fun k h => by cases h⟩⟩

theorem witness_PowerAndTemperatureComplete_9 : ∃ (n : Fin 26) (s : State),
    s.chip.pwr.on = true
    ∧ 1 ≤ (s.chip.dieP n).pterm
    ∧ 1 ≤ (s.chip.dieP n).tterm :=
  ⟨25, mk on0, by decide +kernel⟩

theorem witness_PowerAndTemperatureComplete_10 : ∃ (n : Fin 26) (s : State),
    s.chip.pwr.on = true
    ∧ (s.chip.dieP n).droop = true :=
  ⟨25, mk { on0 with dies := Map.put {} [] 25 { droop := true } }, by decide +kernel⟩

theorem witness_ReadsThatClear_0 : ∃ (ag : Agent) (s : State),
    s.chip.hears ag PWR_STS.key = true
    ∧ s.chip.mayRead ag PWR_STS.key = true :=
  ⟨.pf, mk (on0.put PWR_STS.PEAK_W 9), by decide +kernel⟩

theorem witness_ReadsThatClear_1 : ∃ (ag : Agent) (s : State),
    s.chip.hears ag PWR_SLACK.key = true
    ∧ s.chip.mayRead ag PWR_SLACK.key = true :=
  ⟨.sideband, mk on0, by decide +kernel⟩

theorem witness_ReadsThatClear_2 : ∃ (ag : Agent) (k : Fin 12) (s : State),
    s.chip.hears ag (HBM_URGENT_MAX k).key = true
    ∧ s.chip.mayRead ag (HBM_URGENT_MAX k).key = true :=
  ⟨.pf, 11, mk (on0.put (HBM_URGENT_MAX.NS 11) 3), by decide +kernel⟩

theorem witness_ReadsThatClear_3 : ∃ (ag : Agent) (b : Fin 6) (s : State),
    s.chip.hears ag (ASY_NF_SUM b).key = true
    ∧ s.chip.mayRead ag (ASY_NF_SUM b).key = true :=
  ⟨.pf, 5, mk (on0.setBs 5 { spikeGrow := 2 }), by decide +kernel⟩

theorem witness_CountersAndSnapshots_0 : ∃ (ag : Agent) (off : Nat) (r : RegRow) (g : Reg) (sat : Bool) (s : State),
    s.chip.hears ag off = true
    ∧ s.chip.regReach ag off true = true
    ∧ s.chip.find off = some (r, g)
    ∧ r.isEvent = true
    ∧ r.kind ≠ .asyNfData :=
  ⟨.pf, 0x50148, ⟨.fabBadpkt, .fab, 0x148, 0x0, 1, 0x0, 1, [⟨0, 48, .ro, false⟩, ⟨63, 1, .rws, false⟩]⟩, FAB_BADPKT, true, mk (on0.setWord FAB_BADPKT 4), by decide +kernel⟩

theorem witness_CountersAndSnapshots_1 : ∃ (ag : Agent) (b : Nat) (n : Nat) (sat : Bool) (s : State),
    ag.top = true
    ∧ s.chip.hears ag ASY_NF_DATA.key = true
    ∧ s.chip.get ASY_NF_SEL.BASIN = b
    ∧ b < 6
    ∧ s.chip.get ASY_NF_SEL.SLOT = n
    ∧ n ≠ 0 :=
  ⟨.pf, 5, 1023, false, mk (((on0.put ASY_NF_SEL.BASIN 5).put ASY_NF_SEL.SLOT 1023).setBs 5 { nf := Map.put 0 [] 1023 7 }), by decide +kernel⟩

theorem witness_CountersAndSnapshots_2 : ∃ (ag : Agent) (off : Nat) (r : RegRow) (g : Reg) (s : State),
    s.chip.hears ag off = true
    ∧ s.chip.regReach ag off true = true
    ∧ s.chip.find off = some (r, g)
    ∧ r.isEpoch = true
    ∧ 8 ≤ g.key :=
  ⟨.sideband, 0x1B0088, ⟨.hbmRdvole, .hbm, 0x88, 0x0, 1, 0x0, 1, [⟨0, 8, .ro, false⟩, ⟨8, 1, .wo, false⟩]⟩, HBM_RDVOLE 11, mk (on0.setWord (HBM_RDVOL 11) 4), by decide +kernel⟩

theorem witness_CountersAndSnapshots_3 : ∃ (ag : Agent) (off : Nat) (l : Loc) (s : State),
    s.chip.hears ag off = true
    ∧ s.chip.regReach ag off true = true
    ∧ s.chip.locate off = some l
    ∧ l.off = 0xFFF8 :=
  ⟨.pf, 0x1BFFF8, ⟨.hbm, 0x1B0000, 0xFFF8⟩, mk (on0.setWord (HBM_RDVOL 11) 4), by decide +kernel⟩

theorem witness_CountersAndSnapshots_4 : ∃ (ag : Agent) (off : Nat) (l : Loc) (s : State),
    s.chip.hears ag off = true
    ∧ s.chip.regReach ag off true = true
    ∧ s.chip.locate off = some l
    ∧ l.off = 0xFFF8 :=
  ⟨.pf, 0x1BFFF8, ⟨.hbm, 0x1B0000, 0xFFF8⟩, mk { on0 with images := Map.set [] 0x1B0000 [] }, by decide +kernel⟩

theorem witness_CountersAndSnapshots_5 : ∃ (ag : Agent) (s : State),
    s.chip.hears ag 0x20000 = true
    ∧ ag.top = true :=
  ⟨.pf, mk on0, by decide +kernel⟩

theorem witness_CountersAndSnapshots_6 : ∃ (ag : Agent) (s : State),
    s.chip.hears ag 0x20000 = true
    ∧ ag.top = true :=
  ⟨.pf, mk on0, by decide +kernel⟩

theorem witness_HbmRequestsComplete_0 : ∃ (a : Nat) (n : Nat) (syms : Nat) (ns : Nat) (others : Bool) (par : Bool) (who : Reader) (s : State),
    s.Serves who a false
    ∧ 0 < n
    ∧ a % 64 + n ≤ 64
    ∧ a / 64 ∉ s.chip.poison
    ∧ s.chip.inspect a syms others par = .good
    ∧ s.chip.word (HBM_RDVOL (stackOf a)) < 2 ^ 64 - 1 :=
  ⟨60, 4, 0, 7, true, true, .fabric 0, mk on0, by decide +kernel⟩

theorem witness_HbmRequestsComplete_1 : ∃ (a : Nat) (n : Nat) (syms : Nat) (ns : Nat) (others : Bool) (par : Bool) (who : Reader) (s : State),
    s.Serves who a false
    ∧ 0 < n
    ∧ a % 64 + n ≤ 64
    ∧ a / 64 ∉ s.chip.poison
    ∧ s.chip.inspect a syms others par = .corrected
    ∧ s.chip.word (HBM_RDVOL (stackOf a)) < 2 ^ 64 - 1
    ∧ s.chip.word (HBM_CE_COUNT (stackOf a)) < 2 ^ 48 - 1 :=
  ⟨64, 64, 2, 7, true, true, .fabric 0, mk on0, by decide +kernel⟩

theorem witness_HbmRequestsComplete_2 : ∃ (a : Nat) (n : Nat) (syms : Nat) (ns : Nat) (others : Bool) (par : Bool) (who : Reader) (s : State),
    s.Serves who a false
    ∧ s.chip.ueSeenAt = []
    ∧ (who = .record ∨ (∃ run, who = .fabric run) ∨ (∃ ag, who = .host ag))
    ∧ 0 < n
    ∧ a % 64 + n ≤ 64
    ∧ a / 64 ∉ s.chip.poison
    ∧ s.chip.inspect a syms others par = .bad :=
  ⟨64, 1, 3, 0, false, true, .fabric 0, mk on0, by
    exact ⟨by decide +kernel, by decide +kernel, Or.inr (Or.inl ⟨0, by decide +kernel⟩), by decide +kernel⟩⟩

theorem witness_HbmRequestsComplete_3 : ∃ (a : Nat) (n : Nat) (syms : Nat) (ns : Nat) (kc : Nat) (k : Nat) (others : Bool) (par : Bool) (x : Kern) (s : State),
    s.Serves (.kernel kc k) a false
    ∧ s.chip.ueSeenAt = []
    ∧ s.chip.kernOf kc = some x
    ∧ 0 < n
    ∧ a % 64 + n ≤ 64
    ∧ a / 64 ∉ s.chip.poison
    ∧ s.chip.inspect a syms others par = .bad :=
  ⟨64, 8, 3, 0, 0, 1, true, false, kern0, mk run0, by decide +kernel⟩

theorem witness_HbmRequestsComplete_4 : ∃ (a : Nat) (syms : Nat) (data : List Byte) (others : Bool) (par : Bool) (who : Reader) (s : State),
    s.Serves who a true
    ∧ s.chip.ueSeenAt = []
    ∧ a % 64 = 0
    ∧ data.length = 64 :=
  ⟨64, 0, List.replicate 64 9, true, true, .fabric 0, mk { on0 with poison := [1] }, by decide +kernel⟩

theorem witness_HbmRequestsComplete_5 : ∃ (a : Nat) (syms : Nat) (data : List Byte) (others : Bool) (par : Bool) (who : Reader) (s : State),
    s.Serves who a true
    ∧ ((0 < data.length ∧ data.length < 64 ∧ a % 64 + data.length ≤ 64 ∧ a / 64 ∉ s.chip.poison ∧ s.chip.inspect a syms others par = .good)
    ∨ (data.length = 3840 ∧ groupRow a = a ∧ s.chip.poison = [])) :=
  ⟨126, 0, [1, 2], true, true, .fabric 0, mk on0, by decide +kernel⟩

theorem witness_HbmRequestsComplete_5_row : ∃ (a : Nat) (syms : Nat) (data : List Byte) (others : Bool) (par : Bool) (who : Reader) (s : State),
    s.Serves who a true
    ∧ ((0 < data.length ∧ data.length < 64 ∧ a % 64 + data.length ≤ 64 ∧ a / 64 ∉ s.chip.poison ∧ s.chip.inspect a syms others par = .good)
    ∨ (data.length = 3840 ∧ groupRow a = a ∧ s.chip.poison = [])) :=
  ⟨0, 0, List.replicate 3840 1, true, true, .fabric 0, mk on0, by decide +kernel⟩

theorem witness_HbmRequestsComplete_6 : ∃ (a : Nat) (syms : Nat) (data : List Byte) (others : Bool) (par : Bool) (who : Reader) (s : State),
    s.Serves who a true
    ∧ (who = .record ∨ (∃ run, who = .fabric run) ∨ (∃ ag, who = .host ag))
    ∧ 0 < data.length
    ∧ data.length < 64
    ∧ a % 64 + data.length ≤ 64
    ∧ a / 64 ∈ s.chip.poison :=
  ⟨126, 0, [1, 2], true, true, .record, mk { on0 with poison := [1] }, by
    exact ⟨by decide +kernel, Or.inl rfl, by decide +kernel⟩⟩

theorem witness_HbmRequestsComplete_7 : ∃ (a : Nat) (n : Nat) (syms : Nat) (ns : Nat) (data : List Byte) (others : Bool) (par : Bool) (who : Reader) (s : State),
    s.chip.pwr.on = true
    ∧ s.chip.isHbm a = true
    ∧ s.chip.takes (stackOf a) = true
    ∧ stackOf a ∈ s.chip.held
    ∧ ((s.chip.mayHbm who a false = true ∧ 0 < n ∧ a % 64 + n ≤ 64 ∧ s.chip.mayHbm who a true = true ∧ wfHbmWrite a data.length = true)) :=
  ⟨126, 2, 0, 5, [1, 2], true, true, .fabric 0, mk { on0 with held := [0] }, by decide +kernel⟩

theorem witness_HbmRequestsComplete_8 : ∃ (k : Fin 12) (p : Fin 65) (bank : Fin 256) (waiting : Bool) (s : State),
    s.chip.pwr.on = true :=
  ⟨11, 64, 255, true, mk { on0 with postponed := Map.put 0 [] (780 * 256 - 1) 7 }, by decide +kernel⟩

theorem witness_PseudoChannelsAreReplaced_0 : ∃ (k : Fin 12) (at' : ScrubAt) (syms : Nat) (others : Bool) (par : Bool) (last : Bool) (s : State),
    s.chip.pwr.on = true
    ∧ s.chip.on (HBM_SCRUB_CTL.ENABLE k) = true
    ∧ (k : Nat) ∉ s.chip.held
    ∧ s.chip.takes k = true
    ∧ s.chip.scrubs k at' = true
    ∧ syms ≤ 2
    ∧ s.chip.word (HBM_RDVOL k) < 2 ^ 64 - 1
    ∧ s.chip.word (HBM_CE_COUNT k) < 2 ^ 48 - 1 :=
  ⟨0, .data 64, 2, true, true, true, mk (on0.put (HBM_SCRUB_CTL.ENABLE 0) 1), by decide +kernel⟩

theorem witness_PseudoChannelsAreReplaced_0_spare : ∃ (k : Fin 12) (at' : ScrubAt) (syms : Nat) (others : Bool) (par : Bool) (last : Bool) (s : State),
    s.chip.pwr.on = true
    ∧ s.chip.on (HBM_SCRUB_CTL.ENABLE k) = true
    ∧ (k : Nat) ∉ s.chip.held
    ∧ s.chip.takes k = true
    ∧ s.chip.scrubs k at' = true
    ∧ syms ≤ 2
    ∧ s.chip.word (HBM_RDVOL k) < 2 ^ 64 - 1
    ∧ s.chip.word (HBM_CE_COUNT k) < 2 ^ 48 - 1 :=
  ⟨0, .spare 64, 0, true, true, false, mk (on0.put (HBM_SCRUB_CTL.ENABLE 0) 1), by decide +kernel⟩

theorem witness_PseudoChannelsAreReplaced_1 : ∃ (k : Fin 12) (at' : ScrubAt) (syms : Nat) (others : Bool) (par : Bool) (last : Bool) (s : State),
    s.chip.pwr.on = true
    ∧ s.chip.on (HBM_SCRUB_CTL.ENABLE k) = true
    ∧ (k : Nat) ∉ s.chip.held
    ∧ s.chip.takes k = true
    ∧ s.chip.scrubs k at' = true
    ∧ 2 < syms
    ∧ s.chip.ueSeenAt = []
    ∧ s.chip.poison = [] :=
  ⟨0, .data 64, 3, false, true, false, mk (on0.put (HBM_SCRUB_CTL.ENABLE 0) 1), by decide +kernel⟩

theorem witness_PseudoChannelsAreReplaced_2 : ∃ (k : Fin 12) (p : Fin 65) (s : State),
    s.chip.pwr.on = true
    ∧ (p : Nat) < 64
    ∧ s.chip.get (HBM_STACK_STS.STATE k) ≠ 5
    ∧ s.chip.guarded k = true
    ∧ s.chip.grpExposed k (p % 4) = false
    ∧ s.chip.pcLost k p = false
    ∧ s.chip.get (HBM_REBUILD.KIND k) = 0
    ∧ s.chip.spareFree k = true :=
  ⟨11, 63, mk (on0.put (HBM_STACK_STS.MODE 11) 1), by decide +kernel⟩

theorem witness_PseudoChannelsAreReplaced_3 : ∃ (k : Fin 12) (p : Fin 65) (j : Nat) (s : State),
    s.chip.pwr.on = true
    ∧ (p : Nat) < 64
    ∧ ((p : Nat) = 2 * j ∨ (p : Nat) = 2 * j + 1)
    ∧ s.chip.get (HBM_STACK_STS.STATE k) ≠ 5
    ∧ s.chip.guarded k = true
    ∧ s.chip.grpExposed k (2 * j % 4) = false
    ∧ s.chip.grpExposed k ((2 * j + 1) % 4) = false
    ∧ s.chip.pcLost k (2 * j) = false
    ∧ s.chip.pcLost k (2 * j + 1) = false
    ∧ s.chip.get (HBM_REBUILD.KIND k) = 0
    ∧ s.chip.spareFree k = true :=
  ⟨11, 63, 31, mk (on0.put (HBM_STACK_STS.MODE 11) 1), by decide +kernel⟩

theorem witness_PseudoChannelsAreReplaced_4 : ∃ (k : Fin 12) (p : Fin 65) (s : State),
    s.chip.pwr.on = true
    ∧ (p : Nat) < 64
    ∧ s.chip.get (HBM_STACK_STS.STATE k) ≠ 5
    ∧ s.chip.guarded k = false
    ∧ s.chip.pcLost k p = false
    ∧ s.chip.on (HBM_STACK_STS.SPARE_USED k) = false :=
  ⟨0, 0, mk (die0.put (HBM_STACK_STS.MODE 0) 0), by decide +kernel⟩

theorem witness_PseudoChannelsAreReplaced_5 : ∃ (k : Fin 12) (p : Fin 65) (channel : Bool) (s : State),
    s.chip.pwr.on = true
    ∧ (p : Nat) = 64
    ∧ s.chip.on (HBM_STACK_STS.SPARE_USED k) = false :=
  ⟨11, 64, false, mk (on0.put (HBM_STACK_STS.MODE 11) 1), by decide +kernel⟩

theorem witness_PseudoChannelsAreReplaced_6 : ∃ (k : Fin 12) (s : State),
    s.chip.pwr.on = true
    ∧ (k : Nat) ∈ s.chip.held :=
  ⟨11, mk { (on0.put (HBM_REBUILD.KIND 11) 1) with held := [11] }, by decide +kernel⟩

theorem witness_PseudoChannelsAreReplaced_6_held : ∃ (k : Fin 12) (s : State),
    s.chip.pwr.on = true
    ∧ (k : Nat) ∈ s.chip.held
    ∧ ((∃ r, s.chip.heldReqs = [r] ∧ stackOf r.a = k ∧ s.chip.takes k = true)) :=
  ⟨11, mk { (on0.put (HBM_REBUILD.KIND 11) 1) with held := [11], heldReqs := [⟨11 * 2 ^ 37, 8, none, 0, true, true, 0, .fabric 0⟩] }, by
    exact ⟨by decide +kernel, by decide +kernel, ⟨_, rfl, by decide +kernel⟩⟩⟩

theorem witness_PseudoChannelsAreReplaced_7 : ∃ (k : Fin 12) (s : State),
    s.chip.pwr.on = true
    ∧ s.chip.get (HBM_REBUILD.KIND k) = 1 :=
  ⟨11, mk (((on0.put (HBM_REBUILD.KIND 11) 1).put (HBM_REBUILD.TARGET 11) 63).put (HBM_LOST_MAP.LOST 11) (2 ^ 63)), by decide +kernel⟩

theorem witness_PseudoChannelsAreReplaced_8 : ∃ (ag : Agent) (k : Fin 12) (p : Fin 64) (s : State),
    ag.pfSide = true
    ∧ s.chip.hears ag 0x20000 = true
    ∧ ((s.chip.spareFree k = true ∧ s.chip.get (HBM_REBUILD.KIND k) = 0 ∧ s.chip.pcLost k p = false)) :=
  ⟨.pf, 11, 63, mk on0, by decide +kernel⟩

theorem witness_PseudoChannelsAreReplaced_8_refused : ∃ (ag : Agent) (k : Fin 12) (p : Fin 64) (s : State),
    ag.pfSide = true
    ∧ s.chip.hears ag 0x20000 = true
    ∧ (s.chip.spareFree k = false) :=
  ⟨.pf, 11, 63, mk (on0.put (HBM_STACK_STS.SPARE_USED 11) 1), by decide +kernel⟩

theorem witness_PseudoChannelsAreReplaced_9 : ∃ (k : Fin 12) (s : State),
    s.chip.pwr.on = true
    ∧ s.chip.get (HBM_REBUILD.KIND k) = 2 :=
  ⟨11, mk (on0.put (HBM_REBUILD.KIND 11) 2), by decide +kernel⟩

theorem witness_CisternErrorsAreHandled_1 : ∃ (kc : Fin 104) (off : Nat) (s : State),
    s.chip.pwr.on = true
    ∧ s.chip.word (CLS_CISTERN_CE (kc / 4) (kc % 4)) < 2 ^ 48 - 1 :=
  ⟨103, 0, mk on0, by decide +kernel⟩

theorem witness_CisternErrorsAreHandled_2 : ∃ (kc : Fin 104) (off : Nat) (s : State),
    s.chip.pwr.on = true
    ∧ s.chip.clBasin kc < 6
    ∧ ((∀ x, s.chip.kernOf kc = some x → ∀ j ∈ x.clusters, j < 104)) :=
  ⟨3, 0, mk die0, by
    exact ⟨by decide +kernel, by decide +kernel, fun x h => by cases h⟩⟩

theorem witness_CisternErrorsAreHandled_3 : ∃ (kc : Fin 104) (bank : Fin 64) (s : State),
    s.chip.pwr.on = true
    ∧ (s.chip.cl kc).testing = some (bank : Nat)
    ∧ (s.chip.clBasin kc = 7) :=
  ⟨103, 63, mk ((on0.unplace 25).setCl 103 { testing := some 63 }), by decide +kernel⟩

theorem witness_CisternErrorsAreHandled_4 : ∃ (kc : Fin 104) (bank : Fin 64) (r : Nat) (s : State),
    s.chip.pwr.on = true
    ∧ s.chip.clBasin kc = 7
    ∧ (s.chip.cl kc).testing = some (bank : Nat)
    ∧ r < 6144
    ∧ (((Map.get [] s.chip.rowMaps kc).filter (fun e => e.1 == (bank : Nat))).length < 4) :=
  ⟨103, 63, 6143, mk ((on0.unplace 25).setCl 103 { testing := some 63 }), by decide +kernel⟩

theorem witness_CisternErrorsAreHandled_4_full : ∃ (kc : Fin 104) (bank : Fin 64) (r : Nat) (s : State),
    s.chip.pwr.on = true
    ∧ s.chip.clBasin kc = 7
    ∧ (s.chip.cl kc).testing = some (bank : Nat)
    ∧ r < 6144
    ∧ ((4 ≤ ((Map.get [] s.chip.rowMaps kc).filter (fun e => e.1 == (bank : Nat))).length ∧ s.chip.get (HUB_FORGE_STATUS.STATE (kc / 4)) = 1)) :=
  ⟨103, 63, 9, mk ({ (on0.unplace 25).put (HUB_FORGE_STATUS.STATE 25) 1 with rowMaps := Map.put [] [] 103 [(63, 1), (63, 2), (63, 3), (63, 4)] }.setCl 103 { testing := some 63 }), by decide +kernel⟩

theorem witness_FramesAreSentAndTaken_0 : ∃ (p : Fin 8) (s : State),
    s.chip.pwr.on = true
    ∧ s.chip.portState p ≠ 0
    ∧ s.chip.portState p ≠ 7 :=
  ⟨7, mk (on0.pput 7 FNT_PORT_STS.STATE 3), by decide +kernel⟩

theorem witness_FramesAreSentAndTaken_1 : ∃ (p : Fin 8) (fr : BitVec 16) (ctl : BitVec 48) (link : BitVec 64) (ber : BitVec 16) (crc : BitVec 16) (errs : List (Nat × Nat)) (e : RxEnd) (s : State),
    s.chip.pwr.on = true
    ∧ s.chip.portState p ≠ 0
    ∧ s.chip.portState p ≠ 7
    ∧ errs.length ≤ 8
    ∧ ((∀ x ∈ errs, x.1 ≤ 7))
    ∧ s.chip.word (FNT_FEC_CORR (portDie p) (portK p)) + (errs.map Prod.snd).sum < 2 ^ 48
    ∧ crc.toNat ≠ crc16 (leBytes 18 (bits (frameWord fr ctl link ber crc) 0 144))
    ∧ (s.chip.port p).request = none
    ∧ (s.chip.port p).skip = 0
    ∧ (s.chip.port p).rxTail = none
    ∧ e.check = .good
    ∧ s.chip.word (FAB_RXVOL p) + ceilDiv e.bytes 64 < 2 ^ 64 :=
  ⟨7, 0xFF, 0, 0, 0, 0, [(0, 3), (1, 7)], ⟨1, 100, 0, 3, .good⟩, mk (on0.pput 7 FNT_PORT_STS.STATE 3), by
    repeat' apply And.intro
    all_goals first | decide +kernel | rfl | (intro k h; cases h <;> decide +kernel) | (intro k c h; cases h <;> decide +kernel) | (left; rfl) | (left; decide +kernel) | (right; decide +kernel) | (right; left; decide +kernel) | (right; right; decide +kernel)⟩

theorem witness_FramesAreSentAndTaken_2 : ∃ (p : Fin 8) (fr : BitVec 16) (ctl : BitVec 48) (link : BitVec 64) (ber : BitVec 16) (crc : BitVec 16) (e : RxEnd) (s : State),
    s.chip.pwr.on = true
    ∧ s.chip.portState p ≠ 0
    ∧ s.chip.portState p ≠ 7
    ∧ crc.toNat ≠ crc16 (leBytes 18 (bits (frameWord fr ctl link ber crc) 0 144))
    ∧ (s.chip.port p).request = none
    ∧ (s.chip.port p).skip = 0
    ∧ (s.chip.port p).rxTail = none
    ∧ e.check = .failed
    ∧ s.chip.word (FAB_REPLAYS p) < 2 ^ 48 - 1 :=
  ⟨7, 0xFF, 0, 0, 0, 0, ⟨1, 100, 0, 3, .failed⟩, mk (on0.pput 7 FNT_PORT_STS.STATE 3), by decide +kernel⟩

theorem witness_FramesAreSentAndTaken_3 : ∃ (p : Fin 8) (fr : BitVec 16) (ctl : BitVec 48) (link : BitVec 64) (ber : BitVec 16) (crc : BitVec 16) (s : State),
    s.chip.pwr.on = true
    ∧ s.chip.portState p ≠ 0
    ∧ s.chip.portState p ≠ 7
    ∧ (s.chip.port p).rx = none
    ∧ crc.toNat = crc16 (leBytes 18 (bits (frameWord fr ctl link ber crc) 0 144))
    ∧ bit (frameWord fr ctl link ber crc) 96 = false
    ∧ bit (frameWord fr ctl link ber crc) 97 = false :=
  ⟨7, 5, 0, 0, 0, BitVec.ofNat 16 (crc16 (leBytes 18 5)), mk (on0.pput 7 FNT_PORT_STS.STATE 3), by decide +kernel⟩

theorem witness_ControlsAreTaken_0 : ∃ (p : Fin 8) (lane : Fin 16) (w : Fin 18) (f : BitVec 16) (kind : Fin 2) (same : Bool) (s : State),
    s.chip.pwr.on = true
    ∧ s.chip.waveOf false p lane ≠ (w : Nat)
    ∧ ((same = true ∨ kind = 1)) :=
  ⟨7, 15, 17, 100, 1, false, mk on0, by decide +kernel⟩

theorem witness_ControlsAreTaken_0_fade : ∃ (p : Fin 8) (lane : Fin 16) (w : Fin 18) (f : BitVec 16) (kind : Fin 2) (same : Bool) (s : State),
    s.chip.pwr.on = true
    ∧ s.chip.waveOf false p lane ≠ (w : Nat)
    ∧ ((same = true ∨ kind = 1)) :=
  ⟨7, 15, 17, 100, 0, true, mk on0, by decide +kernel⟩

theorem witness_ControlsAreTaken_1 : ∃ (p : Fin 8) (lane : Fin 16) (w : Fin 18) (f : BitVec 16) (kind : Fin 2) (same : Bool) (s : State),
    s.chip.pwr.on = true
    ∧ s.chip.waveOf false p lane = (w : Nat) :=
  ⟨7, 15, 15, 100, 0, false, mk ((List.range 16).foldl (fun c l => c.put (mapField false 7 l) l) on0), by decide +kernel⟩

theorem witness_ControlsAreTaken_2 : ∃ (p : Fin 8) (lane : Fin 16) (w : Fin 18) (f : BitVec 16) (s : State),
    s.chip.pwr.on = true
    ∧ s.chip.waveOf false p lane ≠ (w : Nat) :=
  ⟨7, 15, 17, 100, mk on0, by decide +kernel⟩

theorem witness_ControlsAreTaken_3 : ∃ (p : Fin 8) (lane : Fin 16) (w : Fin 18) (f : BitVec 16) (m : Remap) (s : State),
    s.chip.pwr.on = true
    ∧ (s.chip.port p).tx = some m
    ∧ m.lane = lane
    ∧ m.wave = w
    ∧ m.f = f.toNat
    ∧ (m.switched = false) :=
  ⟨7, 15, 17, 100, { lane := 15, wave := 17, old := 15, f := 100, abrupt := false }, mk (on0.setPort 7 { tx := some { lane := 15, wave := 17, old := 15, f := 100, abrupt := false } }), by decide +kernel⟩

theorem witness_ControlsAreTaken_3_switched : ∃ (p : Fin 8) (lane : Fin 16) (w : Fin 18) (f : BitVec 16) (m : Remap) (s : State),
    s.chip.pwr.on = true
    ∧ (s.chip.port p).tx = some m
    ∧ m.lane = lane
    ∧ m.wave = w
    ∧ m.f = f.toNat
    ∧ ((m.switched = true ∧ framePast (s.chip.port p).frame m.f = true ∧ (s.chip.port p).due = [] ∧ s.chip.word (FNT_REMAPS (portDie p) (portK p)) < 2 ^ 48 - 1 ∧ m.abrupt = true)) :=
  ⟨7, 15, 17, 100, { lane := 15, wave := 17, old := 15, f := 100, abrupt := true, switched := true }, mk (on0.setPort 7 { frame := 101, tx := some { lane := 15, wave := 17, old := 15, f := 100, abrupt := true, switched := true } }), by decide +kernel⟩

theorem witness_ControlsAreTaken_3_refused : ∃ (p : Fin 8) (lane : Fin 16) (w : Fin 18) (f : BitVec 16) (m : Remap) (s : State),
    s.chip.pwr.on = true
    ∧ (s.chip.port p).tx = some m
    ∧ m.lane = lane
    ∧ m.wave = w
    ∧ m.f = f.toNat
    ∧ ((m.abrupt = false ∧ (∀ v < 18, s.chip.laser p v = 2 → v = (w : Nat) ∨ v ∈ m.tried))) :=
  ⟨7, 15, 17, 100, { lane := 15, wave := 17, old := 15, f := 100, abrupt := false }, mk (((on0.setLaser 7 16 6 31).setLaser 7 17 3 0).setPort 7 { tx := some { lane := 15, wave := 17, old := 15, f := 100, abrupt := false } }), by
    decide +kernel⟩

theorem witness_ControlsAreTaken_4 : ∃ (p : Fin 8) (lane : Fin 16) (sp : Nat) (s : State),
    s.chip.pwr.on = true
    ∧ s.chip.modes.native = true
    ∧ (s.chip.port p).tx = none
    ∧ s.chip.waveOf true p lane < 18
    ∧ s.chip.spareWave p [] = some sp
    ∧ sp ≠ s.chip.waveOf true p lane :=
  ⟨7, 15, 16, mk ((List.range 16).foldl (fun c l => c.put (mapField true 7 l) l) on0), by decide +kernel⟩

theorem witness_ControlsAreTaken_5 : ∃ (p : Fin 8) (lane : Fin 16) (s : State),
    s.chip.pwr.on = true
    ∧ (s.chip.port p).tx = none
    ∧ s.chip.waveOf true p lane < 18
    ∧ ((s.chip.modes.native = false ∨ ∀ v < 18, s.chip.laser p v = 2 → v = s.chip.waveOf true p lane)) :=
  ⟨7, 15, mk ((((List.range 16).foldl (fun c l => c.put (mapField true 7 l) l) on0).setLaser 7 16 6 31).setLaser 7 17 6 31), by
    repeat' apply And.intro
    all_goals first | decide +kernel | rfl | (intro k h; cases h <;> decide +kernel) | (intro k c h; cases h <;> decide +kernel) | (left; rfl) | (left; decide +kernel) | (right; decide +kernel) | (right; left; decide +kernel) | (right; right; decide +kernel)⟩

theorem witness_ControlsAreTaken_6 : ∃ (p : Fin 8) (lane : Fin 16) (m : Remap) (s : State),
    (s.chip.port p).tx = some m
    ∧ m.lane = lane
    ∧ m.abrupt = true :=
  ⟨7, 15, { lane := 15, wave := 17, old := 15, f := 100, abrupt := true }, mk (on0.setPort 7 { tx := some { lane := 15, wave := 17, old := 15, f := 100, abrupt := true } }), by decide +kernel⟩

theorem witness_ControlsAreTaken_7 : ∃ (p : Fin 8) (cause : Fin 16) (lead : BitVec 8) (s : State),
    s.chip.pwr.on = true
    ∧ (cause ≠ 3) :=
  ⟨7, 15, 0, mk on0, by decide +kernel⟩

theorem witness_ControlsAreTaken_7_retrain : ∃ (p : Fin 8) (cause : Fin 16) (lead : BitVec 8) (s : State),
    s.chip.pwr.on = true
    ∧ ((cause = 3 ∧ (s.chip.portUp p = true ∨ s.chip.portState p = 6))) :=
  ⟨7, 3, 0, mk (on0.pput 7 FNT_PORT_STS.STATE 3), by decide +kernel⟩

theorem witness_ControlsAreTaken_8 : ∃ (p : Fin 8) (coord : BitVec 18) (port : Fin 8) (fec : Bool) (spares : Fin 4) (ver : BitVec 16) (startup : Bool) (s : State),
    s.chip.pwr.on = true :=
  ⟨7, 9, 6, true, 2, 1, true, mk on0, by decide +kernel⟩

theorem witness_ControlsAreTaken_9 : ∃ (p : Fin 8) (w : Fin 32) (action : Fin 8) (s : State),
    s.chip.pwr.on = true
    ∧ (2 < (action : Nat)) :=
  ⟨7, 31, 7, mk on0, by decide +kernel⟩

theorem witness_ControlsAreTaken_9_lit : ∃ (p : Fin 8) (w : Fin 32) (action : Fin 8) (s : State),
    s.chip.pwr.on = true
    ∧ ((action : Nat) ≤ 2) :=
  ⟨7, 17, 1, mk on0, by decide +kernel⟩

theorem witness_LinksComeAndGo_0 : ∃ (p : Fin 8) (s : State),
    s.chip.pwr.on = true
    ∧ s.chip.portState p ≠ 0
    ∧ s.chip.portState p ≠ 5
    ∧ s.chip.portState p ≠ 7
    ∧ s.chip.word (FNT_LOS (portDie p) (portK p)) < 2 ^ 48 - 1 :=
  ⟨7, mk (on0.pput 7 FNT_PORT_STS.STATE 4), by decide +kernel⟩

theorem witness_LinksComeAndGo_1 : ∃ (p : Fin 8) (s : State),
    s.chip.pwr.on = true
    ∧ s.chip.pst p FNT_PORT_CTL.ENABLE = 1
    ∧ s.chip.pst p FNT_PORT_CTL.LOOP = 0
    ∧ s.chip.portUp p = false
    ∧ s.chip.portState p ≠ 7
    ∧ bits (s.chip.word SLC_MAP) (4 * p) 4 = 8 :=
  ⟨7, mk (((on0.pput 7 FNT_PORT_STS.STATE 5).pput 7 FNT_PORT_CTL.ENABLE 1).setWord SLC_MAP 0x88888888), by decide +kernel⟩

theorem witness_LinksComeAndGo_2 : ∃ (p : Fin 8) (rtt : Nat) (bers : List (Nat × Nat)) (losses : List Nat) (map : List Nat) (parkedOk : List Nat) (peerOk : Bool) (s : State),
    s.chip.pwr.on = true
    ∧ s.chip.portState p = 2
    ∧ s.chip.modes.native = true
    ∧ (s.chip.port p).startup = false
    ∧ (s.chip.port p).peerStart = false
    ∧ (s.chip.port p).peerFec = (s.chip.pst p FNT_PORT_CTL.FEC == 1)
    ∧ ((∀ e ∈ bers, berBelow (s.chip.pst p FNT_PORT_CTL.FEC) e.2 = true))
    ∧ (s.chip.port p).due = []
    ∧ ((s.chip.port p).half = false ∨ (parkedOk = [] ∧ ((List.range 18).filter (fun w => s.chip.lit p w)).length < 16)) :=
  ⟨7, 100, [(0, 0)], [], [], [], true, mk ((on0.pput 7 FNT_PORT_STS.STATE 2).setPort 7 { peerFec := on0.pst 7 FNT_PORT_CTL.FEC == 1 }), by
    exact ⟨by decide +kernel, by decide +kernel, by decide +kernel, by decide +kernel, by decide +kernel, by decide +kernel, by decide +kernel, by decide +kernel, Or.inl (by decide +kernel)⟩⟩

theorem witness_LinksComeAndGo_3 : ∃ (p : Fin 8) (rtt : Nat) (bers : List (Nat × Nat)) (losses : List Nat) (map : List Nat) (parkedOk : List Nat) (peerMode : Bool) (peerOk : Bool) (s : State),
    s.chip.pwr.on = true
    ∧ s.chip.portState p = 2
    ∧ s.chip.modes.native = true
    ∧ (s.chip.port p).startup = false
    ∧ (s.chip.port p).peerStart = false
    ∧ ((peerMode = true ∧ (s.chip.port p).peerFec ≠ (s.chip.pst p FNT_PORT_CTL.FEC == 1))) :=
  ⟨7, 100, [], [], [], [], true, true, mk ((on0.pput 7 FNT_PORT_STS.STATE 2).setPort 7 { peerFec := on0.pst 7 FNT_PORT_CTL.FEC == 0 }), by decide +kernel⟩

theorem witness_LinksComeAndGo_3_mode : ∃ (p : Fin 8) (rtt : Nat) (bers : List (Nat × Nat)) (losses : List Nat) (map : List Nat) (parkedOk : List Nat) (peerMode : Bool) (peerOk : Bool) (s : State),
    s.chip.pwr.on = true
    ∧ s.chip.portState p = 2
    ∧ s.chip.modes.native = true
    ∧ (s.chip.port p).startup = false
    ∧ (s.chip.port p).peerStart = false
    ∧ (peerMode = false) :=
  ⟨7, 100, [], [], [], [], false, true, mk (on0.pput 7 FNT_PORT_STS.STATE 2), by decide +kernel⟩

theorem witness_LinksComeAndGo_3_ber : ∃ (p : Fin 8) (rtt : Nat) (bers : List (Nat × Nat)) (losses : List Nat) (map : List Nat) (parkedOk : List Nat) (peerMode : Bool) (peerOk : Bool) (s : State),
    s.chip.pwr.on = true
    ∧ s.chip.portState p = 2
    ∧ s.chip.modes.native = true
    ∧ (s.chip.port p).startup = false
    ∧ (s.chip.port p).peerStart = false
    ∧ (((s.chip.port p).peerFec = (s.chip.pst p FNT_PORT_CTL.FEC == 1) ∧ berBelow (s.chip.pst p FNT_PORT_CTL.FEC) (2 ^ 30) = false)) :=
  ⟨7, 100, [(0, 1073741824)], [], [], [], true, true, mk ((on0.pput 7 FNT_PORT_STS.STATE 2).setPort 7 { peerFec := on0.pst 7 FNT_PORT_CTL.FEC == 1 }), by decide +kernel⟩

theorem witness_LinksComeAndGo_4 : ∃ (ag : Agent) (p : Fin 8) (s : State),
    ((ag.top = true ∧ s.chip.hears ag 0x20000 = true ∧ s.chip.portState p ≠ 0 ∧ s.chip.portState p ≠ 7)) :=
  ⟨.pf, 7, mk (on0.pput 7 FNT_PORT_STS.STATE 3), by decide +kernel⟩

theorem witness_LinksComeAndGo_4_off : ∃ (ag : Agent) (p : Fin 8) (s : State),
    (s.chip.portState p = 0) :=
  ⟨.pf, 7, mk on0, by decide +kernel⟩

theorem witness_LinksComeAndGo_5 : ∃ (p : Fin 8) (losses : List Nat) (s : State),
    s.chip.pwr.on = true
    ∧ (s.chip.port p).startup = true
    ∧ s.chip.portUp p = true :=
  ⟨7, [], mk ((on0.pput 7 FNT_PORT_STS.STATE 3).setPort 7 { startup := true }), by decide +kernel⟩

theorem witness_LasersAreMovedAndReturned_0 : ∃ (p : Fin 8) (w : Fin 18) (fade : Nat) (fadePred : Nat) (berPred : Nat) (power : Nat) (bias : Nat) (headroom : Nat) (rx : Option (Fin 16 × Nat)) (s : State),
    s.chip.pwr.on = true
    ∧ fadePred ≤ 10 * s.chip.pst p FNT_PORT_CTL.SWAP_DB
    ∧ berVal 8 (berCode 8 berPred) ≤ s.chip.pst p FNT_PORT_CTL.SWAP_BER :=
  ⟨7, 17, 1, 1, 0, 2, 3, 4, none, mk (on0.pput 7 FNT_PORT_CTL.SWAP_DB 5), by decide +kernel⟩

theorem witness_LasersAreMovedAndReturned_0_lane : ∃ (p : Fin 8) (w : Fin 18) (fade : Nat) (fadePred : Nat) (berPred : Nat) (power : Nat) (bias : Nat) (headroom : Nat) (rx : Option (Fin 16 × Nat)) (s : State),
    s.chip.pwr.on = true
    ∧ fadePred ≤ 10 * s.chip.pst p FNT_PORT_CTL.SWAP_DB
    ∧ berVal 8 (berCode 8 berPred) ≤ s.chip.pst p FNT_PORT_CTL.SWAP_BER :=
  ⟨7, 17, 1, 50, 0, 2, 3, 4, some (15, 9), mk (on0.pput 7 FNT_PORT_CTL.SWAP_DB 5), by decide +kernel⟩

theorem witness_LasersAreMovedAndReturned_1 : ∃ (p : Fin 8) (w : Fin 18) (fade : Nat) (fadePred : Nat) (berPred : Nat) (power : Nat) (bias : Nat) (headroom : Nat) (l : Nat) (sp : Nat) (s : State),
    s.chip.pwr.on = true
    ∧ 10 * s.chip.pst p FNT_PORT_CTL.SWAP_DB < fadePred
    ∧ s.chip.laneOf true p w = some l
    ∧ s.chip.laser p w = 1
    ∧ s.chip.pst p FNT_PORT_CTL.HOLD_SPARE = 0
    ∧ (s.chip.port p).tx = none
    ∧ s.chip.portUp p = true
    ∧ s.chip.modes.native = true
    ∧ s.chip.circuitChanging p = false
    ∧ s.chip.spareWave p [] = some sp :=
  ⟨7, 15, 1, 60, 0, 2, 3, 4, 15, 16, mk ((((((List.range 16).foldl (fun c l => c.put (mapField true 7 l) l) on0).pput 7 FNT_PORT_CTL.SWAP_DB 5).pput 7 FNT_PORT_STS.STATE 3).setLaser 7 17 2 0).setLaser 7 15 1 15), by decide +kernel⟩

theorem witness_LasersAreMovedAndReturned_2 : ∃ (ag : Agent) (p : Fin 8) (lane : Fin 16) (s : State),
    ag.top = true
    ∧ s.chip.hears ag 0x20000 = true
    ∧ s.chip.modes.native = true
    ∧ (((s.chip.port p).tx = none ∧ s.chip.portUp p = true ∧ s.chip.circuitChanging p = false ∧ s.chip.spareWave p [] = some 16)) :=
  ⟨.pf, 7, 15, mk ((on0.pput 7 FNT_PORT_STS.STATE 3).setLaser 7 17 2 0), by decide +kernel⟩

theorem witness_LasersAreMovedAndReturned_2_due : ∃ (ag : Agent) (p : Fin 8) (lane : Fin 16) (s : State),
    ag.top = true
    ∧ s.chip.hears ag 0x20000 = true
    ∧ s.chip.modes.native = true
    ∧ (((s.chip.port p).tx ≠ none ∧ (lane : Nat) ∉ (s.chip.port p).due)) :=
  ⟨.pf, 7, 15, mk (on0.setPort 7 { tx := some { lane := 14, wave := 17, old := 14, f := 100, abrupt := false } }), by decide +kernel⟩

theorem witness_LasersAreMovedAndReturned_3 : ∃ (p : Fin 8) (m : Remap) (s : State),
    s.chip.pwr.on = true
    ∧ (s.chip.port p).tx = some m
    ∧ m.lane < 16
    ∧ m.wave < 32
    ∧ m.switched = false
    ∧ framePast (s.chip.port p).frame m.f = true
    ∧ ((m.abrupt = true ∧ m.acked = false)) :=
  ⟨7, { lane := 15, wave := 17, old := 15, f := 100, abrupt := true }, mk (on0.setPort 7 { frame := 100, tx := some { lane := 15, wave := 17, old := 15, f := 100, abrupt := true } }), by decide +kernel⟩

theorem witness_LasersAreMovedAndReturned_3_fade : ∃ (p : Fin 8) (m : Remap) (s : State),
    s.chip.pwr.on = true
    ∧ (s.chip.port p).tx = some m
    ∧ m.lane < 16
    ∧ m.wave < 32
    ∧ m.switched = false
    ∧ framePast (s.chip.port p).frame m.f = true
    ∧ ((m.acked = true ∧ (s.chip.port p).due = [] ∧ m.old < 18 ∧ m.wave < 18 ∧ m.old ≠ m.wave ∧ s.chip.word (FNT_REMAPS (portDie p) (portK p)) < 2 ^ 48 - 1 ∧ m.abrupt = false)) :=
  ⟨7, { lane := 15, wave := 17, old := 15, f := 100, abrupt := false, acked := true }, mk ((on0.setLaser 7 17 3 0).setPort 7 { frame := 100, tx := some { lane := 15, wave := 17, old := 15, f := 100, abrupt := false, acked := true } }), by decide +kernel⟩

theorem witness_LasersAreMovedAndReturned_4 : ∃ (p : Fin 8) (m : Remap) (s : State),
    s.chip.pwr.on = true
    ∧ (s.chip.port p).tx = some m
    ∧ m.acked = false
    ∧ framePast (s.chip.port p).frame (m.f + 1024) = true :=
  ⟨7, { lane := 15, wave := 17, old := 15, f := 100, abrupt := true }, mk (on0.setPort 7 { frame := 1124, tx := some { lane := 15, wave := 17, old := 15, f := 100, abrupt := true } }), by decide +kernel⟩

theorem witness_LasersAreMovedAndReturned_5 : ∃ (p : Fin 8) (w : Fin 18) (s : State),
    s.chip.pwr.on = true
    ∧ (s.chip.laser p w = 2) :=
  ⟨7, 17, mk (on0.setLaser 7 17 2 0), by decide +kernel⟩

theorem witness_LasersAreMovedAndReturned_5_lane : ∃ (p : Fin 8) (w : Fin 18) (s : State),
    s.chip.pwr.on = true
    ∧ ((s.chip.laser p w = 1 ∧ s.chip.laneOf true p w = some 15 ∧ s.chip.modes.native = true ∧ (s.chip.port p).tx = none ∧ s.chip.spareWave p [] = some 16)) :=
  ⟨7, 15, mk ((((List.range 16).foldl (fun c l => c.put (mapField true 7 l) l) on0).setLaser 7 17 2 0).setLaser 7 15 1 15), by decide +kernel⟩

theorem witness_LasersAreMovedAndReturned_5_off : ∃ (p : Fin 8) (w : Fin 18) (s : State),
    s.chip.pwr.on = true
    ∧ (4 ≤ s.chip.laser p w) :=
  ⟨7, 17, mk (on0.setLaser 7 17 6 0), by decide +kernel⟩

theorem witness_LasersAreMovedAndReturned_6 : ∃ (ag : Agent) (p : Fin 8) (w : Fin 32) (s : State),
    ((ag.top = true ∧ s.chip.hears ag 0x20000 = true ∧ (w : Nat) < 18 ∧ s.chip.portUp p = true ∧ 4 ≤ s.chip.laser p w)) :=
  ⟨.pf, 7, 17, mk ((on0.pput 7 FNT_PORT_STS.STATE 3).setLaser 7 17 6 0), by decide +kernel⟩

theorem witness_LasersAreMovedAndReturned_6_down : ∃ (ag : Agent) (p : Fin 8) (w : Fin 32) (s : State),
    (18 ≤ (w : Nat)) :=
  ⟨.pf, 7, 31, mk on0, by decide +kernel⟩

theorem witness_LasersAreMovedAndReturned_7 : ∃ (p : Fin 8) (w : Fin 18) (fade : Nat) (ber : Nat) (s : State),
    s.chip.pwr.on = true
    ∧ (s.chip.port p).training = some w :=
  ⟨7, 17, 1, 1, mk (on0.setPort 7 { training := some 17 }), by decide +kernel⟩

theorem witness_LasersAreMovedAndReturned_8 : ∃ (ag : Agent) (p : Fin 8) (kind : Fin 8) (w : Fin 32) (v : Fin 32) (integ : Fin 8) (s : State),
    ag.top = true
    ∧ s.chip.hears ag 0x20000 = true
    ∧ ((s.chip.pst p FNT_WEIR_RES.BUSY = 0 ∧ s.chip.weirOk p kind w v integ = true)) :=
  ⟨.pf, 7, 1, 17, 0, 4, mk on0, by decide +kernel⟩

theorem witness_LasersAreMovedAndReturned_8_kind2 : ∃ (ag : Agent) (p : Fin 8) (kind : Fin 8) (w : Fin 32) (v : Fin 32) (integ : Fin 8) (s : State),
    ag.top = true
    ∧ s.chip.hears ag 0x20000 = true
    ∧ ((s.chip.pst p FNT_WEIR_RES.BUSY = 0 ∧ s.chip.weirOk p kind w v integ = true)) :=
  ⟨.pf, 7, 2, 17, 16, 0, mk ((on0.pput 7 FNT_PORT_STS.STATE 1)), by decide +kernel⟩

theorem witness_LasersAreMovedAndReturned_8_refused : ∃ (ag : Agent) (p : Fin 8) (kind : Fin 8) (w : Fin 32) (v : Fin 32) (integ : Fin 8) (s : State),
    ag.top = true
    ∧ s.chip.hears ag 0x20000 = true
    ∧ (s.chip.weirOk p kind w v integ = false) :=
  ⟨.pf, 7, 0, 17, 16, 0, mk on0, by decide +kernel⟩

theorem witness_LasersAreMovedAndReturned_9 : ∃ (p : Fin 8) (value : Nat) (enob : Nat) (s : State),
    s.chip.pwr.on = true
    ∧ s.chip.pst p FNT_WEIR_RES.BUSY = 1 :=
  ⟨7, 5, 6, mk ((on0.pput 7 FNT_WEIR_RES.BUSY 1).setPort 7 { calTo := some 3 }), by decide +kernel⟩

theorem witness_SluiceChangesMap_0 : ∃ (ag : Agent) (s : State),
    ag.top = true
    ∧ s.chip.hears ag 0x20000 = true
    ∧ s.chip.modes.native = true
    ∧ s.chip.on SLC_STS.BUSY = false
    ∧ s.chip.mapCheck (s.chip.word SLC_MAP_NEXT % 2 ^ 32) = 0 :=
  ⟨.pf, mk (on0.setWord SLC_MAP_NEXT 0x88888888), by decide +kernel⟩

theorem witness_SluiceChangesMap_1 : ∃ (ag : Agent) (s : State),
    ag.top = true
    ∧ s.chip.hears ag 0x20000 = true
    ∧ s.chip.modes.native = true
    ∧ s.chip.on SLC_STS.BUSY = false
    ∧ s.chip.mapCheck (s.chip.word SLC_MAP_NEXT % 2 ^ 32) ≠ 0 :=
  ⟨.pf, mk (on0.setWord SLC_MAP_NEXT 0xAAAAAAAA), by decide +kernel⟩

theorem witness_SluiceChangesMap_2 : ∃ (ag : Agent) (i : Instr) (s : State),
    (i = .applyMap ag ∨ i = .barMap ag)
    ∧ ag.top = true
    ∧ s.chip.hears ag 0x20000 = true
    ∧ s.chip.modes.native = true
    ∧ s.chip.on SLC_STS.BUSY = true :=
  ⟨.pf, .barMap .pf, mk (on0.put SLC_STS.BUSY 1), by decide +kernel⟩

theorem witness_SluiceChangesMap_3 : ∃ (ag : Agent) (s : State),
    ag.top = true
    ∧ s.chip.hears ag 0x20000 = true
    ∧ s.chip.modes.native = true
    ∧ s.chip.on SLC_STS.BUSY = false
    ∧ (s.chip.mapCheck barMap = 0) :=
  ⟨.pf, mk on0, by decide +kernel⟩

theorem witness_SluiceChangesMap_3_lost : ∃ (ag : Agent) (s : State),
    ag.top = true
    ∧ s.chip.hears ag 0x20000 = true
    ∧ s.chip.modes.native = true
    ∧ s.chip.on SLC_STS.BUSY = false
    ∧ (s.chip.mapCheck barMap ≠ 0) :=
  ⟨.pf, mk (on0.put SLC_STS.LOST 15), by decide +kernel⟩

theorem witness_SluiceChangesMap_4 : ∃ (m : Nat) (s : State),
    s.chip.pwr.on = true
    ∧ s.chip.sluiceNext = some m
    ∧ ((∀ p r, (s.chip.port p).tx = some r → r.wave < 18)) :=
  ⟨0x88888888, mk { on0 with sluiceNext := some 0x88888888 }, by
    exact ⟨by decide +kernel, by decide +kernel, fun p r h => by cases h⟩⟩

theorem witness_SluiceChangesMap_5 : ∃ (d : Fin 4) (s : State),
    s.chip.pwr.on = true
    ∧ bit (s.chip.get SLC_STS.LOST) d = false :=
  ⟨3, mk on0, by decide +kernel⟩

theorem witness_FabricWritesAreDelivered_0 : ∃ (w : BitVec 256) (d : List Byte) (via : Option (Fin 8)) (pl : Place) (s : State),
    s.Arrives w.toNat 0 d (via.map Fin.val) pl d.length :=
  ⟨word (hdrTo 0 0x300000 8), [1, 2, 3, 4, 5, 6, 7, 8], some 5, .hbm 0x300000, mk (flow0 on0), by
    repeat' apply And.intro
    all_goals first | decide +kernel | rfl | (intro k h; cases h <;> decide +kernel) | (intro k c h; cases h <;> decide +kernel) | (left; rfl) | (left; decide +kernel) | (right; decide +kernel) | (right; left; decide +kernel) | (right; right; decide +kernel)⟩

theorem witness_FabricWritesAreDelivered_0_mesh : ∃ (w : BitVec 256) (d : List Byte) (via : Option (Fin 8)) (pl : Place) (s : State),
    s.Arrives w.toNat 0 d (via.map Fin.val) pl d.length :=
  ⟨word { hdrTo 0 0x300000 8 with src := 0, sbasin := 1 }, [1, 2, 3, 4, 5, 6, 7, 8], none, .hbm 0x300000, mk { flow0 on0 with mesh := [⟨5, 40, ({ hdrTo 0 0x300000 8 with src := 0, sbasin := 1 } : Hdr).enc, [1, 2, 3, 4, 5, 6, 7, 8]⟩] }, by
    repeat' apply And.intro
    all_goals first | decide +kernel | rfl | (intro k h; cases h <;> decide +kernel) | (intro k c h; cases h <;> decide +kernel) | (left; rfl) | (left; decide +kernel) | (right; decide +kernel) | (right; left; decide +kernel) | (right; right; decide +kernel)⟩

theorem witness_FabricWritesAreDelivered_1 : ∃ (w : BitVec 256) (d : List Byte) (via : Option (Fin 8)) (pl : Place) (s : State),
    s.Arrives w.toNat 6 d (via.map Fin.val) pl d.length
    ∧ s.chip.modes.native = true
    ∧ (decHdr w.toNat).dst = s.chip.coord :=
  ⟨word { hdrTo 6 0x300000 8 with dst := on0.coord }, [1, 2, 3, 4, 5, 6, 7, 8], some 5, .hbm 0x300000, mk (flow0 on0), by
    repeat' apply And.intro
    all_goals first | decide +kernel | rfl | (intro k h; cases h <;> decide +kernel) | (intro k c h; cases h <;> decide +kernel) | (left; rfl) | (left; decide +kernel) | (right; decide +kernel) | (right; left; decide +kernel) | (right; right; decide +kernel)⟩

theorem witness_FabricWritesAreDelivered_2 : ∃ (w : BitVec 256) (d : List Byte) (via : Option (Fin 8)) (pl : Place) (s : State),
    s.Comes w.toNat 6 d (via.map Fin.val)
    ∧ s.chip.modes.native = true
    ∧ (decHdr w.toNat).dst ≠ s.chip.coord
    ∧ (decHdr w.toNat).len = d.length
    ∧ s.chip.turnAway (decHdr w.toNat).dbasin (decHdr w.toNat) (via.map Fin.val) = none
    ∧ s.chip.landing (decHdr w.toNat).dbasin (decHdr w.toNat).addr d.length = some pl
    ∧ inLatches pl d.length = false
    ∧ ((∀ k, pl = .hbm k → s.chip.partPoison k d.length = false))
    ∧ ((∀ kc off, pl = .cis kc off → (s.chip.cl kc).tags = [])) :=
  ⟨word { hdrTo 6 0x300000 8 with dst := on0.coord + 2 }, [1, 2, 3, 4, 5, 6, 7, 8], some 5, .hbm 0x300000, mk (flow0 on0), by
    repeat' apply And.intro
    all_goals first | decide +kernel | rfl | (intro k h; cases h <;> decide +kernel) | (intro k c h; cases h <;> decide +kernel) | (left; rfl) | (left; decide +kernel) | (right; decide +kernel) | (right; left; decide +kernel) | (right; right; decide +kernel)⟩

theorem witness_FabricWritesAreDelivered_3 : ∃ (w : BitVec 256) (d : List Byte) (via : Option (Fin 8)) (pl : Place) (s : State),
    s.Arrives w.toNat 3 d (via.map Fin.val) pl 8
    ∧ d.length = 8
    ∧ (decHdr w.toNat).addr % 8 = 0 :=
  ⟨word (hdrTo 3 0x300000 8), [1, 2, 3, 4, 5, 6, 7, 8], some 5, .hbm 0x300000, mk (flow0 on0), by
    repeat' apply And.intro
    all_goals first | decide +kernel | rfl | (intro k h; cases h <;> decide +kernel) | (intro k c h; cases h <;> decide +kernel) | (left; rfl) | (left; decide +kernel) | (right; decide +kernel) | (right; left; decide +kernel) | (right; right; decide +kernel)⟩

theorem witness_FabricWritesAreDelivered_4 : ∃ (w : BitVec 256) (d : List Byte) (via : Option (Fin 8)) (pl : Place) (s : State),
    s.Arrives w.toNat 4 d (via.map Fin.val) pl 4
    ∧ d.length = 8
    ∧ (decHdr w.toNat).addr % 4 = 0
    ∧ s.chip.modes.native = true :=
  ⟨word (hdrTo 4 0x300004 8), [0, 0, 0x80, 0x3F, 0, 0, 0, 0], some 5, .hbm 0x300004, mk (flow0 on0), by
    repeat' apply And.intro
    all_goals first | decide +kernel | rfl | (intro k h; cases h <;> decide +kernel) | (intro k c h; cases h <;> decide +kernel) | (left; rfl) | (left; decide +kernel) | (right; decide +kernel) | (right; left; decide +kernel) | (right; right; decide +kernel)⟩

theorem witness_FabricWritesAreDelivered_5 : ∃ (w : BitVec 256) (d : List Byte) (via : Option (Fin 8)) (pl : Place) (n : Nat) (s : State),
    s.Arrives w.toNat 5 d (via.map Fin.val) pl d.length
    ∧ rfmtSize (decHdr w.toNat).rfmt = some n
    ∧ d.length = n
    ∧ ((decHdr w.toNat).rfmt = 6 → (decHdr w.toNat).addr % 4096 ≤ 4092)
    ∧ ((∀ k, pl = .hbm k → s.chip.poison = [])) :=
  ⟨word { hdrTo 5 0x300004 4 with rfmt := 0 }, [0, 0, 0x80, 0x3F], some 5, .hbm 0x300004, 4, mk (flow0 on0), by
    repeat' apply And.intro
    all_goals first | decide +kernel | rfl | (intro k h; cases h <;> decide +kernel) | (intro k c h; cases h <;> decide +kernel) | (left; rfl) | (left; decide +kernel) | (right; decide +kernel) | (right; left; decide +kernel) | (right; right; decide +kernel)⟩

theorem witness_FabricWritesAreDelivered_6 : ∃ (w : BitVec 256) (d : List Byte) (via : Option (Fin 8)) (pl : Place) (b : Nat) (l : Nat) (s : State),
    s.Comes w.toNat 3 d (via.map Fin.val)
    ∧ (decHdr w.toNat).len = 8
    ∧ d.length = 8
    ∧ s.chip.flowEnt (decHdr w.toNat).dbasin (decHdr w.toNat).flowOf true = (decHdr w.toNat).seq
    ∧ s.chip.turnAway (decHdr w.toNat).dbasin (decHdr w.toNat) (via.map Fin.val) = none
    ∧ (decHdr w.toNat).addr % 8 = 0
    ∧ s.chip.landing (decHdr w.toNat).dbasin (decHdr w.toNat).addr 8 = some pl
    ∧ s.chip.latchAt pl = some (b, l)
    ∧ s.chip.latchPlace b l = some pl :=
  ⟨word (hdrTo 3 0x200017FF800 8), [1, 0, 0, 0, 0, 0, 0, 0], some 5, .cis 0 0x17FF800, 0, 0, mk (flow0 die0), by decide +kernel⟩

theorem witness_FabricWritesAreDelivered_7_gap : ∃ (w : BitVec 256) (d : List Byte) (via : Option (Fin 8)) (opc : Nat) (i : Instr) (s : State),
    ((opc = 0 ∧ i = .putPacket w d via) ∨ (opc = 3 ∧ i = .aaddIPacket w d via) ∨ (opc = 4 ∧ i = .aaddFPacket w d via)
    ∨ (opc = 5 ∧ i = .reducePutPacket w d via))
    ∧ s.Comes w.toNat opc d (via.map Fin.val)
    ∧ (decHdr w.toNat).len = d.length
    ∧ ((0 < subMod 16 (decHdr w.toNat).seq (s.chip.flowEnt (decHdr w.toNat).dbasin (decHdr w.toNat).flowOf true) ∧ subMod 16 (decHdr w.toNat).seq (s.chip.flowEnt (decHdr w.toNat).dbasin (decHdr w.toNat).flowOf true) < 32768 ∧ s.chip.word (BSN_FLOW_GAPS (decHdr w.toNat).dbasin) < 2 ^ 48 - 1)) :=
  ⟨word { hdrTo 3 0x300000 8 with seq := 5 }, [1, 2, 3, 4, 5, 6, 7, 8], some 5, 3, .aaddIPacket (word { hdrTo 3 0x300000 8 with seq := 5 }) [1, 2, 3, 4, 5, 6, 7, 8] (some 5), mk (flow0 on0), by decide +kernel⟩

theorem witness_FabricWritesAreDelivered_7_duplicate : ∃ (w : BitVec 256) (d : List Byte) (via : Option (Fin 8)) (opc : Nat) (i : Instr) (s : State),
    ((opc = 0 ∧ i = .putPacket w d via) ∨ (opc = 3 ∧ i = .aaddIPacket w d via) ∨ (opc = 4 ∧ i = .aaddFPacket w d via)
    ∨ (opc = 5 ∧ i = .reducePutPacket w d via))
    ∧ s.Comes w.toNat opc d (via.map Fin.val)
    ∧ (decHdr w.toNat).len = d.length
    ∧ ((32768 ≤ subMod 16 (decHdr w.toNat).seq (s.chip.flowEnt (decHdr w.toNat).dbasin (decHdr w.toNat).flowOf true) ∧ s.chip.word (BSN_FLOW_DUPS (decHdr w.toNat).dbasin) < 2 ^ 48 - 1)) :=
  ⟨word { hdrTo 0 0x300000 8 with seq := 65535 }, [1, 2, 3, 4, 5, 6, 7, 8], some 5, 0, .putPacket (word { hdrTo 0 0x300000 8 with seq := 65535 }) [1, 2, 3, 4, 5, 6, 7, 8] (some 5), mk (flow0 on0), by decide +kernel⟩

theorem witness_FabricWritesAreDelivered_7_quenched : ∃ (w : BitVec 256) (d : List Byte) (via : Option (Fin 8)) (opc : Nat) (i : Instr) (s : State),
    ((opc = 0 ∧ i = .putPacket w d via) ∨ (opc = 3 ∧ i = .aaddIPacket w d via) ∨ (opc = 4 ∧ i = .aaddFPacket w d via)
    ∨ (opc = 5 ∧ i = .reducePutPacket w d via))
    ∧ s.Comes w.toNat opc d (via.map Fin.val)
    ∧ (decHdr w.toNat).len = d.length
    ∧ (((s.chip.bs (decHdr w.toNat).dbasin).quenched = true ∧ subMod 16 (decHdr w.toNat).seq (s.chip.flowEnt (decHdr w.toNat).dbasin (decHdr w.toNat).flowOf true) = 0)) :=
  ⟨word (hdrTo 5 0x300000 8), [1, 2, 3, 4, 5, 6, 7, 8], some 5, 5, .reducePutPacket (word (hdrTo 5 0x300000 8)) [1, 2, 3, 4, 5, 6, 7, 8] (some 5), mk ((flow0 on0).setBs 0 { (flow0 on0).bs 0 with quenched := true }), by decide +kernel⟩

theorem witness_ReadsAreAnswered_0 : ∃ (w : BitVec 256) (via : Option (Fin 8)) (s : State),
    s.Comes w.toNat 1 [] (via.map Fin.val)
    ∧ s.chip.turnAway (decHdr w.toNat).dbasin (decHdr w.toNat) (via.map Fin.val) = none
    ∧ s.chip.getFree (decHdr w.toNat).dbasin (decHdr w.toNat) = true
    ∧ ((s.chip.landing (decHdr w.toNat).dbasin (decHdr w.toNat).addr (decHdr w.toNat).len = some (.hbm 0x300000) ∧ s.chip.poisoned 0x300000 8 = false)) :=
  ⟨word (hdrTo 1 0x300000 8), some 5, mk (flow0 on0), by decide +kernel⟩

theorem witness_ReadsAreAnswered_0_long : ∃ (w : BitVec 256) (via : Option (Fin 8)) (s : State),
    s.Comes w.toNat 1 [] (via.map Fin.val)
    ∧ s.chip.turnAway (decHdr w.toNat).dbasin (decHdr w.toNat) (via.map Fin.val) = none
    ∧ s.chip.getFree (decHdr w.toNat).dbasin (decHdr w.toNat) = true
    ∧ (4096 < (decHdr w.toNat).len) :=
  ⟨word (hdrTo 1 0x300000 4097), some 5, mk (flow0 on0), by decide +kernel⟩

theorem witness_ReadsAreAnswered_0_nowhere : ∃ (w : BitVec 256) (via : Option (Fin 8)) (s : State),
    s.Comes w.toNat 1 [] (via.map Fin.val)
    ∧ s.chip.turnAway (decHdr w.toNat).dbasin (decHdr w.toNat) (via.map Fin.val) = none
    ∧ s.chip.getFree (decHdr w.toNat).dbasin (decHdr w.toNat) = true
    ∧ (s.chip.landing (decHdr w.toNat).dbasin (decHdr w.toNat).addr (decHdr w.toNat).len = none) :=
  ⟨word (hdrTo 1 0xFFFFFFFFFF00 8), some 5, mk (flow0 on0), by decide +kernel⟩

theorem witness_ReadsAreAnswered_1 : ∃ (w : BitVec 256) (via : Option (Fin 8)) (s : State),
    s.Comes w.toNat 1 [] (via.map Fin.val)
    ∧ s.chip.turnAway (decHdr w.toNat).dbasin (decHdr w.toNat) (via.map Fin.val) = none
    ∧ s.chip.getFree (decHdr w.toNat).dbasin (decHdr w.toNat) = false :=
  ⟨word { hdrTo 1 0x300000 8 with ord := true, seq := 4 }, some 5, mk (flow0 on0), by decide +kernel⟩

theorem witness_ReadsAreAnswered_2 : ∃ (i : Nat) (w : Nat) (via : Option Nat) (s : State),
    s.chip.pwr.on = true
    ∧ s.chip.heldGets[i]? = some (w, via)
    ∧ ((s.chip.getFree (decHdr w).dbasin (decHdr w) = true ∧ s.chip.landing (decHdr w).dbasin (decHdr w).addr (decHdr w).len = some (.hbm 0x300000))) :=
  ⟨0, (hdrTo 1 0x300000 8).enc, none, mk { flow0 on0 with heldGets := [((hdrTo 1 0x300000 8).enc, none)] }, by decide +kernel⟩

theorem witness_ReadsAreAnswered_2_held : ∃ (i : Nat) (w : Nat) (via : Option Nat) (s : State),
    s.chip.pwr.on = true
    ∧ s.chip.heldGets[i]? = some (w, via)
    ∧ (s.chip.getFree (decHdr w).dbasin (decHdr w) = false) :=
  ⟨0, ({ hdrTo 1 0x300000 8 with ord := true, seq := 4 } : Hdr).enc, none, mk { flow0 on0 with heldGets := [(({ hdrTo 1 0x300000 8 with ord := true, seq := 4 } : Hdr).enc, none)] }, by decide +kernel⟩

theorem witness_ReadsAreAnswered_3 : ∃ (w : BitVec 256) (d : List Byte) (via : Option (Fin 8)) (o : Op) (kc : Nat) (j : Nat) (pl : Place) (s : State),
    s.Comes w.toNat 2 d (via.map Fin.val)
    ∧ (decHdr w.toNat).ref = false
    ∧ (decHdr w.toNat).len = d.length
    ∧ s.chip.turnAway (decHdr w.toNat).dbasin (decHdr w.toNat) (via.map Fin.val) = none
    ∧ s.chip.ops = [o]
    ∧ o.kind = .get
    ∧ o.src = .seq kc j
    ∧ o.sig = none
    ∧ o.seqs = [0]
    ∧ o.xid = (decHdr w.toNat).xid
    ∧ o.flow = { basin := (decHdr w.toNat).dbasin, coord := (decHdr w.toNat).src, dbasin := (decHdr w.toNat).sbasin, run := (decHdr w.toNat).run }
    ∧ d ≠ []
    ∧ s.chip.reach o.flow.basin o.loc d.length true = some pl
    ∧ ((∀ k, pl = .hbm k → s.chip.partPoison k d.length = false))
    ∧ ((∀ c off, pl = .cis c off → (s.chip.cl c).tags = [])) :=
  ⟨word { hdrTo 2 0 8 with xid := 5 }, [1, 2, 3, 4, 5, 6, 7, 8], some 5, { id := 3, src := .seq 0 0, kind := .get, flow := { basin := 0, coord := 1, dbasin := 0, run := 0 }, seqs := [0], xid := 5, loc := 0x300000, len := 8 }, 0, 0, .hbm 0x300000, mk { flow0 on0 with ops := [{ id := 3, src := .seq 0 0, kind := .get, flow := { basin := 0, coord := 1, dbasin := 0, run := 0 }, seqs := [0], xid := 5, loc := 0x300000, len := 8 }] }, by
    repeat' apply And.intro
    all_goals first | decide +kernel | rfl | (intro k h; cases h <;> decide +kernel) | (intro k c h; cases h <;> decide +kernel) | (left; rfl) | (left; decide +kernel) | (right; decide +kernel) | (right; left; decide +kernel) | (right; right; decide +kernel)⟩

theorem witness_ReadsAreAnswered_4 : ∃ (w : BitVec 256) (via : Option (Fin 8)) (s : State),
    s.Comes w.toNat 7 [] (via.map Fin.val)
    ∧ s.chip.turnAway (decHdr w.toNat).dbasin (decHdr w.toNat) (via.map Fin.val) = none
    ∧ s.chip.ops = [] :=
  ⟨word { hdrTo 7 0 0 with seq := 1 }, some 5, mk { flow0 on0 with unacked := [⟨⟨0, 1, 0, 0⟩, 1, 0, []⟩, ⟨⟨0, 1, 0, 0⟩, 2, 0, []⟩] }, by decide +kernel⟩

theorem witness_ReadsAreAnswered_5 : ∃ (b : Fin 6) (coord : BitVec 18) (dbasin : Fin 8) (run : Fin 4) (s : State),
    s.chip.pwr.on = true
    ∧ ((∀ o ∈ s.chip.ops, o.flow ≠ { basin := b, coord := coord.toNat, dbasin := dbasin, run := run })) :=
  ⟨0, 1, 0, 0, mk { flow0 on0 with unacked := [⟨⟨0, 1, 0, 0⟩, 1, 0, []⟩] }, by
    repeat' apply And.intro
    all_goals first | decide +kernel | rfl | (intro k h; cases h <;> decide +kernel) | (intro k c h; cases h <;> decide +kernel) | (left; rfl) | (left; decide +kernel) | (right; decide +kernel) | (right; left; decide +kernel) | (right; right; decide +kernel)⟩

theorem witness_PacketsAreRouted_0 : ∃ (p : Fin 8) (uOver : Bool) (k : LinkPkt) (s : State),
    s.chip.pwr.on = true
    ∧ s.chip.portUp p = true
    ∧ (bit (s.chip.get FAB_PHYS.PEER_BAD) p = false ∨ 6 ≤ k.pool)
    ∧ (s.chip.port p).wait = [k]
    ∧ k.pool < 8
    ∧ k.party < 7
    ∧ s.chip.pktCredits k ≤ (s.chip.port p).credits k.pool
    ∧ (s.chip.port p).replay = []
    ∧ s.chip.pktSize k ≤ 0x400000 :=
  ⟨7, false, { pool := 0, hdr := 0, payload := [] }, mk ((on0.pput 7 FNT_PORT_STS.STATE 3).setPort 7 { wait := [{ pool := 0, hdr := 0, payload := [] }], pools := 0x40404040 }), by decide +kernel⟩

theorem witness_PacketsAreRouted_0_peer : ∃ (p : Fin 8) (uOver : Bool) (k : LinkPkt) (s : State),
    s.chip.pwr.on = true
    ∧ s.chip.portUp p = true
    ∧ (bit (s.chip.get FAB_PHYS.PEER_BAD) p = false ∨ 6 ≤ k.pool)
    ∧ (s.chip.port p).wait = [k]
    ∧ k.pool < 8
    ∧ k.party < 7
    ∧ s.chip.pktCredits k ≤ (s.chip.port p).credits k.pool
    ∧ (s.chip.port p).replay = []
    ∧ s.chip.pktSize k ≤ 0x400000 :=
  ⟨7, true, { pool := 6, hdr := 0, payload := [], party := 2 }, mk (((on0.pput 7 FNT_PORT_STS.STATE 3).put FAB_PHYS.PEER_BAD 0x80).setPort 7 { wait := [{ pool := 6, hdr := 0, payload := [], party := 2 }], pools := 0x40404040 }), by decide +kernel⟩

theorem witness_PacketsAreRouted_1 : ∃ (p : Fin 8) (uOver : Bool) (s : State),
    (s.chip.port p).wait = [] :=
  ⟨7, false, mk (on0.pput 7 FNT_PORT_STS.STATE 3), by decide +kernel⟩

theorem witness_PacketsAreRouted_2 : ∃ (w : BitVec 256) (d : List Byte) (via : Option (Fin 8)) (rev : Bool) (turned : Bool) (bad : Bool) (r : Bool) (p : Nat) (lane : Nat) (s : State),
    s.chip.pwr.on = true
    ∧ hdrOk w.toNat = true
    ∧ s.chip.routeOf (s.chip.fwdHdr w.toNat via) (via.map Fin.val) rev turned = .out p lane r
    ∧ s.chip.comes w.toNat d (via.map Fin.val) (some (26 + portDie p)) = true :=
  ⟨word { hdrTo 0 0 8 with dst := 2 }, [], some 7, false, false, false, false, 0, 0, mk ((on0.put FAB_SHAPE.EX 3).put (FAB_DIR.VALID 0) 1), by decide +kernel⟩

theorem witness_PacketsAreRouted_3 : ∃ (w : BitVec 256) (d : List Byte) (via : Option (Fin 8)) (rev : Bool) (turned : Bool) (bad : Bool) (s : State),
    s.chip.pwr.on = true
    ∧ hdrOk w.toNat = true
    ∧ ((s.chip.routeOf (s.chip.fwdHdr w.toNat via) (via.map Fin.val) rev turned = .here ∧ 8 < (decHdr w.toNat).opc ∧ bad = false ∧ s.chip.word FAB_BADPKT < 2 ^ 48 - 1)) :=
  ⟨word { hdrTo 9 0 0 with dst := 0 }, [], some 7, false, false, false, mk on0, by decide +kernel⟩

theorem witness_PacketsAreRouted_3_here : ∃ (w : BitVec 256) (d : List Byte) (via : Option (Fin 8)) (rev : Bool) (turned : Bool) (bad : Bool) (s : State),
    s.chip.pwr.on = true
    ∧ hdrOk w.toNat = true
    ∧ ((s.chip.routeOf (s.chip.fwdHdr w.toNat via) (via.map Fin.val) rev turned = .here ∧ (decHdr w.toNat).opc ≤ 8)) :=
  ⟨word { hdrTo 0 0 0 with dst := 0 }, [], some 7, false, false, false, mk on0, by decide +kernel⟩

theorem witness_PacketsAreRouted_3_drop : ∃ (w : BitVec 256) (d : List Byte) (via : Option (Fin 8)) (rev : Bool) (turned : Bool) (bad : Bool) (s : State),
    s.chip.pwr.on = true
    ∧ hdrOk w.toNat = true
    ∧ (s.chip.routeOf (s.chip.fwdHdr w.toNat via) (via.map Fin.val) rev turned = .drop) :=
  ⟨word { hdrTo 0 0 0 with dst := 5 }, [], some 7, false, false, false, mk on0, by decide +kernel⟩

theorem witness_PacketsAreRouted_4 : ∃ (d : Fin 6) (s : State),
    s.chip.pwr.on = true
    ∧ s.chip.on (FAB_DIR.DETOUR d) = false
    ∧ ((s.chip.port (s.chip.dirPort d)).wait = []) :=
  ⟨5, mk on0, by decide +kernel⟩

theorem witness_PacketsAreRouted_4_open : ∃ (d : Fin 6) (s : State),
    s.chip.pwr.on = true
    ∧ s.chip.on (FAB_DIR.DETOUR d) = false
    ∧ (((s.chip.port (s.chip.dirPort d)).wait ≠ [] ∧ s.chip.wraps (d / 2) = false)) :=
  ⟨5, mk (on0.setPort 5 { wait := [{ pool := 0, hdr := 0, payload := [] }] }), by decide +kernel⟩

theorem witness_PacketsAreRouted_4_reversed : ∃ (d : Fin 6) (s : State),
    s.chip.pwr.on = true
    ∧ s.chip.on (FAB_DIR.DETOUR d) = false
    ∧ (((s.chip.port (s.chip.dirPort d)).wait ≠ [] ∧ (∀ k ∈ (s.chip.port (s.chip.dirPort d)).wait, k.rev = true) ∧ s.chip.wraps (d / 2) = true)) :=
  ⟨0, mk ((on0.put FAB_SHAPE.WX 1).setPort 0 { wait := [{ pool := 0, hdr := 0, payload := [], rev := true }] }), by
    repeat' apply And.intro
    all_goals first | decide +kernel | rfl | (intro k h; cases h <;> decide +kernel) | (intro k c h; cases h <;> decide +kernel) | (left; rfl) | (left; decide +kernel) | (right; decide +kernel) | (right; left; decide +kernel) | (right; right; decide +kernel)⟩

theorem witness_PacketsAreRouted_5 : ∃ (d : Fin 6) (s : State),
    s.chip.on (FAB_DIR.DETOUR d) = true :=
  ⟨5, mk (on0.put (FAB_DIR.DETOUR 5) 1), by decide +kernel⟩

theorem witness_PacketsAreRouted_6 : ∃ (ag : Agent) (j : Fin 4) (v : Word) (s : State),
    ag.top = true
    ∧ s.chip.hears ag 0x20000 = true
    ∧ (bit v.toNat 18 = false) :=
  ⟨.pf, 3, 77, mk on0, by decide +kernel⟩

theorem witness_PacketsAreRouted_6_refused : ∃ (ag : Agent) (j : Fin 4) (v : Word) (s : State),
    ag.top = true
    ∧ s.chip.hears ag 0x20000 = true
    ∧ ((bit v.toNat 18 = true ∧ s.chip.on (FAB_RELOC.VALID 7) = true ∧ s.chip.get (FAB_RELOC.TO 7) = bits v.toNat 0 18)) :=
  ⟨.pf, 3, 2 ^ 18 + 5, mk ((on0.put (FAB_RELOC.VALID 7) 1).put (FAB_RELOC.TO 7) 5), by decide +kernel⟩

theorem witness_PacketsAreRouted_7 : ∃ (ag : Agent) (j : Fin 8) (v : Word) (s : State),
    ag.top = true
    ∧ s.chip.hears ag 0x20000 = true
    ∧ s.chip.ops = []
    ∧ (s.chip.holes.contains (bits v.toNat 18 18) = false) :=
  ⟨.pf, 7, 2 ^ 36 + 3 * 2 ^ 18 + 2, mk on0, by decide +kernel⟩

theorem witness_PacketsAreRouted_7_off : ∃ (ag : Agent) (j : Fin 8) (v : Word) (s : State),
    ag.top = true
    ∧ s.chip.hears ag 0x20000 = true
    ∧ s.chip.ops = []
    ∧ (bit v.toNat 36 = false) :=
  ⟨.pf, 7, 5, mk on0, by decide +kernel⟩

theorem witness_PacketsAreRouted_7_hole : ∃ (ag : Agent) (j : Fin 8) (v : Word) (s : State),
    ag.top = true
    ∧ s.chip.hears ag 0x20000 = true
    ∧ s.chip.ops = []
    ∧ ((s.chip.holes.contains (bits v.toNat 18 18) = true ∧ bit v.toNat 36 = true)) :=
  ⟨.pf, 7, 2 ^ 36 + 3 * 2 ^ 18 + 2, mk ((on0.put (FAB_HOLE.VALID 0) 1).put (FAB_HOLE.COORD 0) 3), by decide +kernel⟩

theorem witness_PacketsStartAndRetire_0 : ∃ (b : Fin 6) (q : Fin 64) (p : Nat) (s : State),
    s.AtHead b q 0 p
    ∧ bit p 10 = false :=
  ⟨0, 0, 0, mk (ring on0 0), by decide +kernel⟩

theorem witness_PacketsStartAndRetire_1 : ∃ (b : Fin 6) (q : Fin 64) (p : Nat) (pl : Place) (s : State),
    s.AtHead b q 0 p
    ∧ bit p 10 = true
    ∧ s.chip.latchPlace b (bits p 29 13) = some pl :=
  ⟨0, 0, 2 ^ 10 + 5 * 2 ^ 448, .cis 0 0x17FF800, mk (ring die0 (2 ^ 10 + 5 * 2 ^ 448)), by decide +kernel⟩

theorem witness_PacketsStartAndRetire_2 : ∃ (b : Fin 6) (q : Fin 64) (p : Nat) (s : State),
    s.Next b q 0 p
    ∧ s.chip.pktOk b q p = true
    ∧ s.chip.pktReady b q (s.chip.get (BSN_Q_STS.HEAD b q)) p = false
    ∧ s.chip.get (BSN_Q_STS.STATE b q) ≠ 5 :=
  ⟨0, 0, 2 ^ 9 + 3 * 2 ^ 384, mk (ring die0 (2 ^ 9 + 3 * 2 ^ 384)), by decide +kernel⟩

theorem witness_PacketsStartAndRetire_3 : ∃ (b : Fin 6) (q : Fin 64) (p : Nat) (s : State),
    s.Next b q 0 p
    ∧ s.chip.pktOk b q p = false :=
  ⟨0, 0, 2 ^ 10 + 5120 * 2 ^ 29, mk (ring die0 (2 ^ 10 + 5120 * 2 ^ 29)), by decide +kernel⟩

theorem witness_KernelsLaunchAndEnd_0 : ∃ (b : Fin 6) (q : Fin 64) (p : Nat) (cls : List Nat) (s : State),
    s.AtHead b q 1 p
    ∧ s.chip.launchRes b q (decLaunch p) = .run cls
    ∧ s.chip.Unheld cls :=
  ⟨0, 0, 1 + 9 * 2 ^ 96 + 2 ^ 128, [0], mk (ring die0 (1 + 9 * 2 ^ 96 + 2 ^ 128)), by decide +kernel⟩

theorem witness_KernelsLaunchAndEnd_1 : ∃ (b : Fin 6) (q : Fin 64) (p : Nat) (bq : Nat) (num : Nat) (rest : List (Nat × Nat × Nat)) (cls : List Nat) (s : State),
    s.chip.pwr.on = true
    ∧ (s.chip.qu b q).ins = (p, bq, num) :: rest
    ∧ s.chip.qLive b q = true
    ∧ s.chip.started b q < 32
    ∧ s.chip.launchRes b q (decLaunch p) = .run cls
    ∧ s.chip.Unheld cls :=
  ⟨0, 0, 1 + 9 * 2 ^ 96 + 2 ^ 128, 3, 8, [], [0], mk ((die0.put (BSN_Q_CFG.ENABLE 0 0) 1).setQu 0 0 { ins := [(1 + 9 * 2 ^ 96 + 2 ^ 128, 3, 8)] }), by decide +kernel⟩

theorem witness_KernelsLaunchAndEnd_2_refused : ∃ (b : Fin 6) (q : Fin 64) (p : Nat) (s : State),
    s.AtHead b q 1 p
    ∧ (s.chip.launchRes b q (decLaunch p) = .refuse) :=
  ⟨0, 0, 1, mk (ring die0 1), by decide +kernel⟩

theorem witness_KernelsLaunchAndEnd_2_held : ∃ (b : Fin 6) (q : Fin 64) (p : Nat) (s : State),
    s.AtHead b q 1 p
    ∧ ((s.chip.launchRes b q (decLaunch p) = .hold false ∧ s.chip.get (BSN_Q_STS.STATE b q) ≠ 5)) :=
  ⟨0, 0, 1 + 2 ^ 128, mk (ring run0 (1 + 2 ^ 128)), by decide +kernel⟩

theorem witness_KernelsLaunchAndEnd_3 : ∃ (kc : Fin 104) (k : Kern) (s : State),
    s.chip.pwr.on = true
    ∧ s.chip.kernOf kc = some k
    ∧ ((s.chip.kernIdle k = true ∧ k.batch = none ∧ k.basin < 6 ∧ k.queue < 64 ∧ (s.chip.qu k.basin k.queue).haltPkt = none)) :=
  ⟨0, kern0, mk ((((run0.put (CLS_SEQ_STS.STATE 0 0 0) 3).put (CLS_SEQ_STS.STATE 0 0 1) 3).setQu 0 0 { win := [{ idx := 0, pkt := 1 }] })), by decide +kernel⟩

theorem witness_KernelsLaunchAndEnd_3_busy : ∃ (kc : Fin 104) (k : Kern) (s : State),
    s.chip.pwr.on = true
    ∧ s.chip.kernOf kc = some k
    ∧ (s.chip.kernIdle k = false) :=
  ⟨0, kern0, mk run0, by decide +kernel⟩

theorem witness_KernelsLaunchAndEnd_4 : ∃ (kc : Fin 104) (k : Kern) (s : State),
    s.chip.pwr.on = true
    ∧ s.chip.kernOf kc = some k
    ∧ ((k.side = true ∧ k.basin < 6 ∧ k.queue < 64)) :=
  ⟨0, { kern0 with side := true }, mk { die0 with kerns := [{ kern0 with side := true }] }, by decide +kernel⟩

theorem witness_KernelsLaunchAndEnd_4_main : ∃ (kc : Fin 104) (k : Kern) (s : State),
    s.chip.pwr.on = true
    ∧ s.chip.kernOf kc = some k
    ∧ (k.side = false) :=
  ⟨0, kern0, mk run0, by decide +kernel⟩

theorem witness_KernelsLaunchAndEnd_5 : ∃ (ag : Agent) (b : Fin 6) (q : Fin 64) (s : State),
    s.chip.hears ag 0x20000 = true
    ∧ s.chip.mayBsn ag b = true
    ∧ ((s.chip.get (BSN_Q_STS.STATE b q) = 3 ∨ s.chip.get (BSN_Q_STS.STATE b q) = 4))
    ∧ (s.chip.qu b q).replay = none
    ∧ ((s.chip.qu b q).haltPkt = none) :=
  ⟨.pf, 5, 63, mk (on0.put (BSN_Q_STS.STATE 5 63) 4), by decide +kernel⟩

theorem witness_KernelsLaunchAndEnd_5_packet : ∃ (ag : Agent) (b : Fin 6) (q : Fin 64) (s : State),
    s.chip.hears ag 0x20000 = true
    ∧ s.chip.mayBsn ag b = true
    ∧ ((s.chip.get (BSN_Q_STS.STATE b q) = 3 ∨ s.chip.get (BSN_Q_STS.STATE b q) = 4))
    ∧ (s.chip.qu b q).replay = none
    ∧ (((s.chip.qu b q).haltPkt = some (s.chip.get (BSN_Q_STS.HEAD b q)) ∧ (s.chip.qu b q).win = [] ∧ s.chip.get (BSN_Q_STS.HEAD b q) ≠ s.chip.get (BSN_Q_STS.TAIL b q))) :=
  ⟨.pf, 5, 63, mk (((on0.put (BSN_Q_STS.STATE 5 63) 4).put (BSN_Q_STS.TAIL 5 63) 1).setQu 5 63 { haltPkt := some 0 }), by decide +kernel⟩

theorem witness_KernelsLaunchAndEnd_6 : ∃ (ag : Agent) (b : Fin 6) (q : Fin 64) (s : State),
    s.chip.hears ag 0x20000 = true
    ∧ s.chip.mayBsn ag b = true
    ∧ ((s.chip.get (BSN_Q_STS.STATE b q) = 3 ∨ s.chip.get (BSN_Q_STS.STATE b q) = 4))
    ∧ ((∀ e ∈ (s.chip.qu b q).ins, e.2.1 < 8)) :=
  ⟨.pf, 5, 63, mk ((on0.put (BSN_Q_STS.STATE 5 63) 4).put (BSN_Q_STS.TAIL 5 63) 9), by
    repeat' apply And.intro
    all_goals first | decide +kernel | rfl | (intro k h; cases h <;> decide +kernel) | (intro k c h; cases h <;> decide +kernel) | (left; rfl) | (left; decide +kernel) | (right; decide +kernel) | (right; left; decide +kernel) | (right; right; decide +kernel)⟩

theorem witness_KernelsLaunchAndEnd_7 : ∃ (ag : Agent) (b : Fin 6) (q : Fin 64) (s : State),
    s.chip.get (BSN_Q_STS.STATE b q) ≠ 3
    ∧ s.chip.get (BSN_Q_STS.STATE b q) ≠ 4 :=
  ⟨.pf, 5, 63, mk on0, by decide +kernel⟩

theorem witness_CopiesAndEngineCommandsEnter_0 : ∃ (b : Fin 6) (q : Fin 64) (p : Nat) (s : State),
    s.AtHead b q 2 p
    ∧ bits p 210 3 ≤ 5
    ∧ bits p 213 2 ≤ 2
    ∧ bits p 256 40 ≠ 0
    ∧ bits p 256 40 % 64 = 0
    ∧ (s.chip.reach b (bits p 64 48) (bits p 256 40) true).isSome = true
    ∧ s.chip.spoutDst b (bits p 192 18) (bits p 128 48) (bits p 256 40) = true
    ∧ s.chip.dest (bits p 192 18) = s.chip.coord
    ∧ Map.get 0 (s.chip.qu b q).bsupp (s.chip.get (BSN_Q_STS.HEAD b q)) = 0 :=
  ⟨0, 0, 2 + 0x200000 * 2 ^ 64 + 0x300000 * 2 ^ 128 + 0x3FFFF * 2 ^ 192 + 64 * 2 ^ 256, mk (ring on0 (2 + 0x200000 * 2 ^ 64 + 0x300000 * 2 ^ 128 + 0x3FFFF * 2 ^ 192 + 64 * 2 ^ 256)), by decide +kernel⟩

theorem witness_CopiesAndEngineCommandsEnter_1 : ∃ (b : Fin 6) (q : Fin 64) (p : Nat) (s : State),
    s.AtHead b q 2 p
    ∧ bits p 210 3 ≤ 5
    ∧ bits p 213 2 ≤ 2
    ∧ bits p 256 40 ≠ 0
    ∧ bits p 256 40 % 64 = 0
    ∧ (s.chip.reach b (bits p 64 48) (bits p 256 40) true).isSome = true
    ∧ s.chip.spoutDst b (bits p 192 18) (bits p 128 48) (bits p 256 40) = true
    ∧ s.chip.dest (bits p 192 18) ≠ s.chip.coord
    ∧ s.chip.poison = []
    ∧ Map.get 0 (s.chip.qu b q).bsupp (s.chip.get (BSN_Q_STS.HEAD b q)) = 0 :=
  ⟨0, 0, 2 + 0x200000 * 2 ^ 64 + 0x300000 * 2 ^ 128 + 5 * 2 ^ 192 + 64 * 2 ^ 256, mk (flow0 (ring on0 (2 + 0x200000 * 2 ^ 64 + 0x300000 * 2 ^ 128 + 5 * 2 ^ 192 + 64 * 2 ^ 256))), by decide +kernel⟩

theorem witness_CopiesAndEngineCommandsEnter_2 : ∃ (b : Fin 6) (q : Fin 64) (p : Nat) (s : State),
    s.AtHead b q 2 p
    ∧ ((bits p 256 40 = 0 ∨ bits p 256 40 % 64 ≠ 0)) :=
  ⟨0, 0, 2 + 65 * 2 ^ 256, mk (ring on0 (2 + 65 * 2 ^ 256)), by decide +kernel⟩

theorem witness_CopiesAndEngineCommandsEnter_3 : ∃ (b : Fin 6) (q : Fin 64) (slot : Fin 5) (p : Nat) (s : State),
    s.AtHead b q 3 p
    ∧ ((s.chip.slotDie b slot < 26 ∧ (s.chip.reach b (bits p 64 48) 64 true).isSome = true ∧ (s.chip.reach b (bits p 128 48) 16 true).isSome = true ∧ (s.chip.tu (s.chip.slotDie b slot)).q.length < 32)) :=
  ⟨0, 0, 0, 3 + 0x200000 * 2 ^ 64 + 0x300000 * 2 ^ 128, mk (ring die0 (3 + 0x200000 * 2 ^ 64 + 0x300000 * 2 ^ 128)), by decide +kernel⟩

theorem witness_CopiesAndEngineCommandsEnter_3_full : ∃ (b : Fin 6) (q : Fin 64) (slot : Fin 5) (p : Nat) (s : State),
    s.AtHead b q 3 p
    ∧ ((26 ≤ s.chip.slotDie b slot ∧ s.chip.get (BSN_Q_STS.STATE b q) ≠ 5)) :=
  ⟨0, 0, 4, 3 + 0x200000 * 2 ^ 64 + 0x300000 * 2 ^ 128, mk (ring (die0.setTu 0 { q := List.replicate 32 cmd0 }) (3 + 0x200000 * 2 ^ 64 + 0x300000 * 2 ^ 128)), by decide +kernel⟩

theorem witness_CopiesAndEngineCommandsEnter_4_gather : ∃ (b : Fin 6) (q : Fin 64) (slot : Fin 5) (p : Nat) (pl : Place) (s : State),
    s.AtHead b q 4 p
    ∧ s.chip.slotDie b slot < 26
    ∧ s.chip.reach b (bits p 64 48) 64 true = some pl
    ∧ ((bits (s.chip.rdn pl 64) 0 2 ≠ 2 ∧ (s.chip.lu (s.chip.slotDie b slot)).g.length < 32)) :=
  ⟨0, 0, 0, 4 + 0x200000 * 2 ^ 64, .hbm 0x200000, mk (ring die0 (4 + 0x200000 * 2 ^ 64)), by decide +kernel⟩

theorem witness_CopiesAndEngineCommandsEnter_4_update : ∃ (b : Fin 6) (q : Fin 64) (slot : Fin 5) (p : Nat) (pl : Place) (s : State),
    s.AtHead b q 4 p
    ∧ s.chip.slotDie b slot < 26
    ∧ s.chip.reach b (bits p 64 48) 64 true = some pl
    ∧ ((bits (s.chip.rdn pl 64) 0 2 = 2 ∧ qClassSide s.chip b q = false ∧ (s.chip.lu (s.chip.slotDie b slot)).u.length < 32)) :=
  ⟨0, 0, 0, 4 + 0x200000 * 2 ^ 64, .hbm 0x200000, mk (withBytes (ring die0 (4 + 0x200000 * 2 ^ 64)) 0x200000 [2]), by decide +kernel⟩

theorem witness_CopiesAndEngineCommandsEnter_4_side : ∃ (b : Fin 6) (q : Fin 64) (slot : Fin 5) (p : Nat) (pl : Place) (s : State),
    s.AtHead b q 4 p
    ∧ s.chip.slotDie b slot < 26
    ∧ s.chip.reach b (bits p 64 48) 64 true = some pl
    ∧ ((bits (s.chip.rdn pl 64) 0 2 = 2 ∧ qClassSide s.chip b q = true)) :=
  ⟨0, 0, 0, 4 + 0x200000 * 2 ^ 64, .hbm 0x200000, mk (withBytes ((ring die0 (4 + 0x200000 * 2 ^ 64)).put (BSN_Q_CFG.CLASS 0 0) 1) 0x200000 [2]), by decide +kernel⟩

theorem witness_CopiesAndEngineCommandsEnter_4_full : ∃ (b : Fin 6) (q : Fin 64) (slot : Fin 5) (p : Nat) (pl : Place) (s : State),
    s.AtHead b q 4 p
    ∧ s.chip.slotDie b slot < 26
    ∧ s.chip.reach b (bits p 64 48) 64 true = some pl
    ∧ ((bits (s.chip.rdn pl 64) 0 2 ≠ 2 ∧ 32 ≤ (s.chip.lu (s.chip.slotDie b slot)).g.length ∧ s.chip.get (BSN_Q_STS.STATE b q) ≠ 5)) :=
  ⟨0, 0, 0, 4 + 0x200000 * 2 ^ 64, .hbm 0x200000, mk (ring (die0.setLu 0 { g := List.replicate 32 cmd0 }) (4 + 0x200000 * 2 ^ 64)), by decide +kernel⟩

theorem witness_BatchesFormAndRelease_0 : ∃ (b : Fin 6) (q : Fin 64) (p : Nat) (s : State),
    s.AtHead b q 5 p
    ∧ bit p 10 = false :=
  ⟨0, 0, 5 + 7 * 2 ^ 64, mk (ring on0 (5 + 7 * 2 ^ 64)), by decide +kernel⟩

theorem witness_BatchesFormAndRelease_1 : ∃ (b : Fin 6) (q : Fin 64) (p : Nat) (ps : List (Nat × Nat)) (r : Place) (s : State),
    s.AtHead b q 6 p
    ∧ bit p 10 = false
    ∧ 1 ≤ bits p 67 9
    ∧ bits p 67 9 ≤ 256
    ∧ s.chip.get (BSN_BATCH_STS.PENDING b (bits p 64 3)) + bits p 67 9 ≤ 1024
    ∧ s.chip.on (BSN_BATCH_CFG.ENABLE b (bits p 64 3)) = true
    ∧ bits p 76 13 < 5120
    ∧ s.chip.batchPlaces b (bits p 64 3) (s.chip.bq b (bits p 64 3)).head (bits p 67 9) (bits p 128 48) = some ps
    ∧ s.chip.reach b (bits p 192 48) 8 true = some r
    ∧ inLatches r 8 = false
    ∧ s.chip.poison = []
    ∧ ((∀ c off, r = .cis c off → (s.chip.cl c).tags = [])) :=
  ⟨0, 0, 6 + 1 * 2 ^ 67 + 0x200000 * 2 ^ 128 + 0x300000 * 2 ^ 192, [(0x200000, 0)], .hbm 0x300000, mk (ring (on0.put (BSN_BATCH_CFG.ENABLE 0 0) 1) (6 + 1 * 2 ^ 67 + 0x200000 * 2 ^ 128 + 0x300000 * 2 ^ 192)), by
    repeat' apply And.intro
    all_goals first | decide +kernel | rfl | (intro k h; cases h <;> decide +kernel) | (intro k c h; cases h <;> decide +kernel) | (left; rfl) | (left; decide +kernel) | (right; decide +kernel) | (right; left; decide +kernel) | (right; right; decide +kernel)⟩

theorem witness_BatchesFormAndRelease_2 : ∃ (b : Fin 6) (q : Fin 64) (p : Nat) (s : State),
    s.AtHead b q 6 p
    ∧ bit p 10 = false
    ∧ ((bits p 67 9 = 0 ∨ 256 < bits p 67 9 ∨ 1024 < s.chip.get (BSN_BATCH_STS.PENDING b (bits p 64 3)) + bits p 67 9
    ∨ s.chip.on (BSN_BATCH_CFG.ENABLE b (bits p 64 3)) = false)) :=
  ⟨0, 0, 6 + 7 * 2 ^ 64, mk (ring on0 (6 + 7 * 2 ^ 64)), by decide +kernel⟩

theorem witness_BatchesFormAndRelease_3 : ∃ (b : Fin 6) (q : Fin 64) (p : Nat) (s : State),
    s.AtHead b q 7 p
    ∧ bit p 10 = false :=
  ⟨0, 0, 7, mk (ring on0 7), by decide +kernel⟩

theorem witness_BatchesFormAndRelease_4 : ∃ (ag : Agent) (b : Fin 6) (x : Fin 8) (s : State),
    s.chip.hears ag 0x20000 = true
    ∧ s.chip.mayBsn ag b = true :=
  ⟨.pf, 5, 7, mk (on0.setBq 5 7 { batches := [{ num := 0, slot := 0, reqs := [(1, 0)], closed := none }] }), by decide +kernel⟩

theorem witness_BatchesFormAndRelease_5 : ∃ (ag : Agent) (b : Fin 6) (x : Fin 8) (s : State),
    s.chip.hears ag 0x20000 = true
    ∧ s.chip.mayBsn ag b = true :=
  ⟨.pf, 5, 7, mk ((on0.put (BSN_BATCH_CFG.ENABLE 5 7) 1).setBq 5 7 { batches := [{ num := 0, slot := 0, reqs := [(1, 0)], closed := none }] }), by decide +kernel⟩

theorem witness_BatchesFormAndRelease_6 : ∃ (b : Fin 6) (x : Fin 8) (s : State),
    s.chip.pwr.on = true
    ∧ (s.chip.get (BSN_BATCH_CFG.MODE b x) = 1) :=
  ⟨5, 7, mk ((on0.put (BSN_BATCH_CFG.MODE 5 7) 1).setBq 5 7 { batches := [{ num := 0, slot := 0, reqs := [(1, 0)], closed := none }] }), by decide +kernel⟩

theorem witness_BatchesFormAndRelease_6_size : ∃ (b : Fin 6) (x : Fin 8) (s : State),
    s.chip.pwr.on = true
    ∧ (s.chip.get (BSN_BATCH_CFG.MODE b x) ≠ 1) :=
  ⟨5, 7, mk (on0.put (BSN_BATCH_CFG.MODE 5 7) 0), by decide +kernel⟩

theorem witness_BatchesFormAndRelease_7 : ∃ (b : Fin 6) (x : Fin 8) (tp : Nat) (n : Nat) (y : Batch) (s : State),
    s.chip.pwr.on = true
    ∧ (s.chip.bq b x).tmpl = some tp
    ∧ y.closed = some n
    ∧ n < 3
    ∧ (s.chip.bq b x).batches.find? (fun z => !z.inFlight) = some y
    ∧ s.chip.get (BSN_BATCH_STS.INFL b x) ≤ s.chip.get (BSN_BATCH_CFG.INFLIGHT b x)
    ∧ (s.chip.bs b).quenched = false
    ∧ y.rows ≤ s.chip.get (BSN_BATCH_STS.PENDING b x) :=
  ⟨5, 7, 1, 2, { num := 0, slot := 0, reqs := [(1, 0)], closed := some 2 }, mk ((on0.put (BSN_BATCH_STS.PENDING 5 7) 1).setBq 5 7 { tmpl := some 1, batches := [{ num := 0, slot := 0, reqs := [(1, 0)], closed := some 2 }] }), by decide +kernel⟩

theorem witness_BatchesFormAndRelease_8 : ∃ (b : Fin 6) (x : Fin 8) (y : Batch) (s : State),
    (s.chip.bq b x).batches.find? (fun z => !z.inFlight) = some y
    ∧ (y.closed = none ∨ s.chip.get (BSN_BATCH_CFG.INFLIGHT b x) < s.chip.get (BSN_BATCH_STS.INFL b x)) :=
  ⟨5, 7, { num := 0, slot := 0, reqs := [(1, 0)], closed := none }, mk (on0.setBq 5 7 { tmpl := some 1, batches := [{ num := 0, slot := 0, reqs := [(1, 0)], closed := none }] }), by decide +kernel⟩

theorem witness_StepsSealAndAgree_0 : ∃ (b : Fin 6) (q : Fin 64) (p : Nat) (s : State),
    s.AtHead b q 8 p
    ∧ bit p 10 = false
    ∧ bits p 64 32 = s.chip.step b % 2 ^ 32
    ∧ s.chip.get (BSN_AGREE_STS.STATE b) = 0 :=
  ⟨0, 0, 8, mk (ring on0 8), by decide +kernel⟩

theorem witness_StepsSealAndAgree_1_waits : ∃ (b : Fin 6) (q : Fin 64) (p : Nat) (s : State),
    s.AtHead b q 8 p
    ∧ ((bits p 64 32 = s.chip.step b % 2 ^ 32 ∧ s.chip.get (BSN_AGREE_STS.STATE b) ≠ 0 ∧ s.chip.get (BSN_Q_STS.STATE b q) ≠ 5)) :=
  ⟨0, 0, 8, mk (ring (on0.put (BSN_AGREE_STS.STATE 0) 1) 8), by decide +kernel⟩

theorem witness_StepsSealAndAgree_1_wrong : ∃ (b : Fin 6) (q : Fin 64) (p : Nat) (s : State),
    s.AtHead b q 8 p
    ∧ (bits p 64 32 ≠ s.chip.step b % 2 ^ 32) :=
  ⟨0, 0, 8 + 2 ^ 64, mk (ring on0 (8 + 2 ^ 64)), by decide +kernel⟩

theorem witness_StepsSealAndAgree_2 : ∃ (b : Fin 6) (q : Fin 64) (p : Nat) (n : Nat) (r : Nat) (l : Nat) (s : State),
    s.AtHead b q 9 p
    ∧ s.chip.get (BSN_AGREE_STS.STATE b) = 1
    ∧ bits p 64 32 = (s.chip.step b - 1) % 2 ^ 32
    ∧ (3 ≤ s.chip.step b → s.chip.engineBusy b (s.chip.step b - 3) = false)
    ∧ s.chip.group b 0 = some (n, r, l)
    ∧ 2 ≤ n
    ∧ s.chip.get (BSN_BAR_STS.ROUND b 0) = 0
    ∧ 0 ∉ (s.chip.barCtx b 0).got :=
  ⟨0, 0, 9, 2, 0, 0x400000, mk (withBytes (((ring on0 9).put (BSN_AGREE_STS.STATE 0) 1).setWord (BSN_STEP 0) 1 |>.put (BSN_BAR_CTX.GROUP 0 0) 0x500000) 0x500000 (leBytes 16 (2 + 0x400000 * 2 ^ 64))), by decide +kernel⟩

theorem witness_StepsSealAndAgree_3 : ∃ (b : Fin 6) (q : Fin 64) (p : Nat) (r : Nat) (l : Nat) (s : State),
    s.AtHead b q 9 p
    ∧ s.chip.get (BSN_AGREE_STS.STATE b) = 1
    ∧ bits p 64 32 = (s.chip.step b - 1) % 2 ^ 32
    ∧ (3 ≤ s.chip.step b → s.chip.engineBusy b (s.chip.step b - 3) = false)
    ∧ s.chip.group b 0 = some (1, r, l)
    ∧ (s.chip.qu b q).haltPkt = none :=
  ⟨0, 0, 9, 0, 0x400000, mk (withBytes (((ring on0 9).put (BSN_AGREE_STS.STATE 0) 1).setWord (BSN_STEP 0) 1 |>.put (BSN_BAR_CTX.GROUP 0 0) 0x500000) 0x500000 (leBytes 16 (1 + 0x400000 * 2 ^ 64))), by decide +kernel⟩

theorem witness_StepsSealAndAgree_4 : ∃ (ag : Agent) (b : Fin 6) (n : BitVec 32) (s : State),
    s.chip.hears ag 0x20000 = true
    ∧ s.chip.mayQuench ag b = true
    ∧ s.chip.get (BSN_AGREE_STS.STATE b) = 2
    ∧ n.toNat = (s.chip.step b - 1) % 2 ^ 32
    ∧ (s.chip.barCtx b 0).waiter = none :=
  ⟨.pf, 5, 0, mk ((on0.put (BSN_AGREE_STS.STATE 5) 2).setWord (BSN_STEP 5) 1), by decide +kernel⟩

theorem witness_StepsSealAndAgree_5 : ∃ (ag : Agent) (b : Fin 6) (n : BitVec 32) (s : State),
    s.chip.hears ag 0x20000 = true
    ∧ s.chip.mayQuench ag b = true
    ∧ s.chip.get (BSN_AGREE_STS.STATE b) ≠ 0
    ∧ n.toNat = (s.chip.step b - 1) % 2 ^ 32
    ∧ (s.chip.barCtx b 0).waiter = none :=
  ⟨.pf, 5, 0, mk ((on0.put (BSN_AGREE_STS.STATE 5) 1).setWord (BSN_STEP 5) 1), by decide +kernel⟩

theorem witness_StepsSealAndAgree_6 : ∃ (ag : Agent) (b : Fin 6) (n : BitVec 32) (i : Instr) (s : State),
    (i = .agreeCtlRelease ag b n ∨ i = .agreeCtlAbandon ag b n)
    ∧ s.chip.hears ag 0x20000 = true
    ∧ s.chip.mayQuench ag b = true
    ∧ ((s.chip.get (BSN_AGREE_STS.STATE b) = 0 ∨ n.toNat ≠ (s.chip.step b - 1) % 2 ^ 32)) :=
  ⟨.pf, 5, 4, .agreeCtlAbandon .pf 5 4, mk ((on0.put (BSN_AGREE_STS.STATE 5) 1).setWord (BSN_STEP 5) 1), by decide +kernel⟩

theorem witness_StepsSealAndAgree_6_done : ∃ (ag : Agent) (b : Fin 6) (n : BitVec 32) (i : Instr) (s : State),
    (i = .agreeCtlRelease ag b n ∨ i = .agreeCtlAbandon ag b n)
    ∧ s.chip.hears ag 0x20000 = true
    ∧ s.chip.mayQuench ag b = true
    ∧ ((s.chip.get (BSN_AGREE_STS.STATE b) = 0 ∨ n.toNat ≠ (s.chip.step b - 1) % 2 ^ 32)) :=
  ⟨.pf, 5, 0, .agreeCtlRelease .pf 5 0, mk ((on0.put (BSN_AGREE_STS.LAST_RESULT 5) 1).setWord (BSN_STEP 5) 1), by decide +kernel⟩

theorem witness_StepsSealAndAgree_7 : ∃ (ag : Agent) (b : Fin 6) (s : State),
    s.chip.hears ag 0x20000 = true
    ∧ s.chip.mayQuench ag b = true :=
  ⟨.pf, 5, mk on0, by decide +kernel⟩

theorem witness_StepsSealAndAgree_8 : ∃ (b : Fin 6) (s : State),
    s.chip.pwr.on = true
    ∧ s.chip.get (BSN_AGREE_CTL.TIMEOUT b) ≠ 0
    ∧ s.chip.get (BSN_AGREE_STS.STATE b) ≠ 0 :=
  ⟨5, mk ((on0.put (BSN_AGREE_STS.STATE 5) 1).put (BSN_AGREE_CTL.TIMEOUT 5) 9), by decide +kernel⟩

theorem witness_BarriersArriveAndEnd_0 : ∃ (b : Fin 6) (q : Fin 64) (p : Nat) (r : Nat) (l : Nat) (s : State),
    s.AtHead b q 10 p
    ∧ bit p 10 = false
    ∧ bits p 64 4 ≠ 0
    ∧ s.chip.group b (bits p 64 4) = some (1, r, l)
    ∧ s.chip.get (BSN_BAR_STS.STATE b (bits p 64 4)) = 0
    ∧ (s.chip.qu b q).haltPkt = none :=
  ⟨0, 0, 10 + 15 * 2 ^ 64, 0, 0x400000, mk (withBytes ((ring on0 (10 + 15 * 2 ^ 64)).put (BSN_BAR_CTX.GROUP 0 15) 0x500000) 0x500000 (leBytes 16 (1 + 0x400000 * 2 ^ 64))), by decide +kernel⟩

theorem witness_BarriersArriveAndEnd_1 : ∃ (b : Fin 6) (q : Fin 64) (p : Nat) (n : Nat) (r : Nat) (l : Nat) (s : State),
    s.AtHead b q 10 p
    ∧ bits p 64 4 ≠ 0
    ∧ s.chip.group b (bits p 64 4) = some (n, r, l)
    ∧ 2 ≤ n
    ∧ s.chip.get (BSN_BAR_STS.STATE b (bits p 64 4)) = 0
    ∧ s.chip.get (BSN_BAR_STS.ROUND b (bits p 64 4)) = 0
    ∧ 0 ∉ (s.chip.barCtx b (bits p 64 4)).got :=
  ⟨0, 0, 10 + 15 * 2 ^ 64, 2, 1, 0x400000, mk (withBytes ((ring on0 (10 + 15 * 2 ^ 64)).put (BSN_BAR_CTX.GROUP 0 15) 0x500000) 0x500000 (leBytes 16 (2 + 2 ^ 18 + 0x400000 * 2 ^ 64))), by decide +kernel⟩

theorem witness_BarriersArriveAndEnd_2 : ∃ (b : Fin 6) (q : Fin 64) (p : Nat) (s : State),
    s.AtHead b q 10 p
    ∧ (bits p 64 4 = 0 ∨ s.chip.group b (bits p 64 4) = none) :=
  ⟨0, 0, 10, mk (ring on0 10), by decide +kernel⟩

theorem witness_BarriersArriveAndEnd_3_now : ∃ (w : BitVec 256) (via : Option (Fin 8)) (s : State),
    s.Comes w.toNat 8 [] (via.map Fin.val)
    ∧ bits (decHdr w.toNat).addr 44 4 = 0
    ∧ s.chip.turnAway (decHdr w.toNat).dbasin (decHdr w.toNat) (via.map Fin.val) = none
    ∧ ((bits (decHdr w.toNat).addr 0 32 = s.chip.barGen (decHdr w.toNat).dbasin (bits (decHdr w.toNat).addr 32 4) ∧ (s.chip.barCtx (decHdr w.toNat).dbasin (bits (decHdr w.toNat).addr 32 4)).arrived = false)) :=
  ⟨word (hdrTo 8 (3 * 2 ^ 32) 0), some 5, mk (flow0 on0), by decide +kernel⟩

theorem witness_BarriersArriveAndEnd_3_early : ∃ (w : BitVec 256) (via : Option (Fin 8)) (s : State),
    s.Comes w.toNat 8 [] (via.map Fin.val)
    ∧ bits (decHdr w.toNat).addr 44 4 = 0
    ∧ s.chip.turnAway (decHdr w.toNat).dbasin (decHdr w.toNat) (via.map Fin.val) = none
    ∧ (bits (decHdr w.toNat).addr 0 32 = (s.chip.barGen (decHdr w.toNat).dbasin (bits (decHdr w.toNat).addr 32 4) + 1) % 2 ^ 32) :=
  ⟨word (hdrTo 8 (3 * 2 ^ 32 + 1) 0), some 5, mk (flow0 on0), by decide +kernel⟩

theorem witness_BarriersArriveAndEnd_3_ends : ∃ (w : BitVec 256) (via : Option (Fin 8)) (s : State),
    s.Comes w.toNat 8 [] (via.map Fin.val)
    ∧ bits (decHdr w.toNat).addr 44 4 = 0
    ∧ s.chip.turnAway (decHdr w.toNat).dbasin (decHdr w.toNat) (via.map Fin.val) = none
    ∧ ((bits (decHdr w.toNat).addr 0 32 = s.chip.barGen (decHdr w.toNat).dbasin (bits (decHdr w.toNat).addr 32 4) ∧ bits (decHdr w.toNat).addr 32 4 ≠ 0 ∧ bits (decHdr w.toNat).addr 36 5 = 0 ∧ s.chip.group (decHdr w.toNat).dbasin (bits (decHdr w.toNat).addr 32 4) = some (2, 0, 0x400000) ∧ (s.chip.barCtx (decHdr w.toNat).dbasin (bits (decHdr w.toNat).addr 32 4)).arrived = true ∧ s.chip.get (BSN_BAR_STS.ROUND (decHdr w.toNat).dbasin (bits (decHdr w.toNat).addr 32 4)) = 0)) :=
  ⟨word (hdrTo 8 (3 * 2 ^ 32) 0), some 5, mk (withBytes ((((flow0 on0).put (BSN_BAR_CTX.GROUP 0 3) 0x500000).put (BSN_BAR_STS.STATE 0 3) 1).setBar 0 3 { arrived := true }) 0x500000 (leBytes 16 (2 + 0x400000 * 2 ^ 64))), by decide +kernel⟩

theorem witness_BarriersArriveAndEnd_4 : ∃ (b : Fin 6) (x : Fin 16) (s : State),
    s.chip.pwr.on = true
    ∧ x ≠ 0
    ∧ s.chip.get (BSN_BAR_CTX.TIMEOUT b x) ≠ 0
    ∧ s.chip.get (BSN_BAR_STS.STATE b x) = 1 :=
  ⟨5, 15, mk ((on0.put (BSN_BAR_CTX.TIMEOUT 5 15) 9).put (BSN_BAR_STS.STATE 5 15) 1), by decide +kernel⟩

theorem witness_BarriersArriveAndEnd_5 : ∃ (ag : Agent) (b : Fin 6) (x : Fin 16) (s : State),
    s.chip.hears ag 0x20000 = true
    ∧ s.chip.mayBsn ag b = true
    ∧ ((s.chip.barCtx b x).waiter = none) :=
  ⟨.pf, 5, 15, mk (on0.put (BSN_BAR_STS.STATE 5 15) 1), by decide +kernel⟩

theorem witness_BarriersArriveAndEnd_5_waiter : ∃ (ag : Agent) (b : Fin 6) (x : Fin 16) (s : State),
    s.chip.hears ag 0x20000 = true
    ∧ s.chip.mayBsn ag b = true
    ∧ ((s.chip.barCtx b x).waiter = some (63, 7)) :=
  ⟨.pf, 5, 15, mk ((on0.put (BSN_BAR_STS.STATE 5 15) 1).setBar 5 15 { arrived := true, waiter := some (63, 7) }), by decide +kernel⟩

theorem witness_PourPointsAndMonitors_0_waits : ∃ (b : Fin 6) (q : Fin 64) (p : Nat) (s : State),
    s.AtHead b q 11 p
    ∧ ((s.chip.pourSet b = [(q : Nat)] ∧ s.chip.get (BSN_Q_STS.STATE b q) ≠ 5)) :=
  ⟨0, 0, 11 + 4 * 2 ^ 64, mk ((ring on0 (11 + 4 * 2 ^ 64)).put (BSN_POUR_SET.SET 0) 1), by decide +kernel⟩

theorem witness_PourPointsAndMonitors_0_stray : ∃ (b : Fin 6) (q : Fin 64) (p : Nat) (s : State),
    s.AtHead b q 11 p
    ∧ ((q : Nat) ∉ s.chip.pourSet b) :=
  ⟨0, 0, 11 + 4 * 2 ^ 64, mk ((ring on0 (11 + 4 * 2 ^ 64)).put (BSN_POUR_SET.SET 0) 2), by decide +kernel⟩

theorem witness_PourPointsAndMonitors_1 : ∃ (b : Fin 6) (q : Nat) (n : Nat) (rest : List Nat) (s : State),
    s.chip.pwr.on = true
    ∧ s.chip.pourSet b = q :: rest
    ∧ ((∀ r ∈ s.chip.pourSet b, s.chip.pourAt b r = some n))
    ∧ (((∃ k, s.chip.pourSlot b (if s.chip.on (BSN_POUR_STS.VALID b) then 1 - s.chip.get (BSN_POUR_STS.SLOT b) else 0) = some k) ∧ s.chip.poison = [])) :=
  ⟨0, 0, 4, [], mk ((ring on0 (11 + 4 * 2 ^ 64)).put (BSN_POUR_SET.SET 0) 1), by
    exact ⟨by decide +kernel, by decide +kernel, by decide +kernel, ⟨0, by decide +kernel⟩, by decide +kernel⟩⟩

theorem witness_PourPointsAndMonitors_2_nan : ∃ (ag : Agent) (b : Fin 6) (loss : BitVec 32) (s : State),
    s.chip.hears ag 0x20000 = true
    ∧ s.chip.mayBsn ag b = true
    ∧ ((∀ d, ag ≠ .prog d true))
    ∧ (((fp32 loss.toNat).isFin = false ∧ s.chip.word (BSN_LOSS_NF b) < 2 ^ 48 - 1)) :=
  ⟨.pf, 5, 0x7F800000, mk on0, by
    repeat' apply And.intro
    all_goals first | decide +kernel | rfl | (intro k h; cases h <;> decide +kernel) | (intro k c h; cases h <;> decide +kernel) | (left; rfl) | (left; decide +kernel) | (right; decide +kernel) | (right; left; decide +kernel) | (right; right; decide +kernel)⟩

theorem witness_PourPointsAndMonitors_2_first : ∃ (ag : Agent) (b : Fin 6) (loss : BitVec 32) (s : State),
    s.chip.hears ag 0x20000 = true
    ∧ s.chip.mayBsn ag b = true
    ∧ ((∀ d, ag ≠ .prog d true))
    ∧ (((fp32 loss.toNat).isFin = true ∧ (s.chip.bs b).lossRestart = true)) :=
  ⟨.pf, 5, 0x3F800000, mk (on0.setBs 5 { lossRestart := true }), by
    repeat' apply And.intro
    all_goals first | decide +kernel | rfl | (intro k h; cases h <;> decide +kernel) | (intro k c h; cases h <;> decide +kernel) | (left; rfl) | (left; decide +kernel) | (right; decide +kernel) | (right; left; decide +kernel) | (right; right; decide +kernel)⟩

theorem witness_PourPointsAndMonitors_2_spike : ∃ (ag : Agent) (b : Fin 6) (loss : BitVec 32) (s : State),
    s.chip.hears ag 0x20000 = true
    ∧ s.chip.mayBsn ag b = true
    ∧ ((∀ d, ag ≠ .prog d true))
    ∧ (((fp32 loss.toNat).isFin = true ∧ (s.chip.bs b).lossRestart = false ∧ s.chip.get (BSN_LOSS_CTL.WARMUP b) < (s.chip.bs b).lossN + 1 ∧ ((fp32 (s.chip.get (BSN_LOSS_AVG.AVG b))).mul (.fin false (16 + s.chip.get (BSN_LOSS_CTL.RATIO_F b)) (-4))).lt (fp32 loss.toNat) = true)) :=
  ⟨.pf, 5, 0x7F000000, mk (((on0.put (BSN_LOSS_AVG.AVG 5) 0x3F800000).put (BSN_LOSS_CTL.WARMUP 5) 0).setBs 5 { lossRestart := false }), by
    repeat' apply And.intro
    all_goals first | decide +kernel | rfl | (intro k h; cases h <;> decide +kernel) | (intro k c h; cases h <;> decide +kernel) | (left; rfl) | (left; decide +kernel) | (right; decide +kernel) | (right; left; decide +kernel) | (right; right; decide +kernel)⟩

theorem witness_PourPointsAndMonitors_2_average : ∃ (ag : Agent) (b : Fin 6) (loss : BitVec 32) (s : State),
    s.chip.hears ag 0x20000 = true
    ∧ s.chip.mayBsn ag b = true
    ∧ ((∀ d, ag ≠ .prog d true))
    ∧ (((fp32 loss.toNat).isFin = true ∧ (s.chip.bs b).lossRestart = false ∧ (s.chip.bs b).lossN + 1 ≤ s.chip.get (BSN_LOSS_CTL.WARMUP b))) :=
  ⟨.pf, 5, 0x3F900000, mk ((on0.put (BSN_LOSS_AVG.AVG 5) 0x3F800000).setBs 5 { lossRestart := false }), by
    repeat' apply And.intro
    all_goals first | decide +kernel | rfl | (intro k h; cases h <;> decide +kernel) | (intro k c h; cases h <;> decide +kernel) | (left; rfl) | (left; decide +kernel) | (right; decide +kernel) | (right; left; decide +kernel) | (right; right; decide +kernel)⟩

theorem witness_PourPointsAndMonitors_3 : ∃ (ag : Agent) (b : Fin 6) (s : State),
    s.chip.hears ag 0x20000 = true
    ∧ s.chip.mayBsn ag b = true :=
  ⟨.pf, 5, mk on0, by decide +kernel⟩

theorem witness_PourPointsAndMonitors_4 : ∃ (ag : Agent) (b : Fin 6) (s : State),
    s.chip.hears ag 0x20000 = true
    ∧ s.chip.mayBsn ag b = true :=
  ⟨.pf, 5, mk on0, by decide +kernel⟩

theorem witness_BundlesIssue_0 : ∃ (kc : Fin 104) (sq : Fin 2) (k : Kern) (i : Bundle) (d : Chip) (s : State),
    s.chip.pwr.on = true
    ∧ s.chip.dbgHalt.contains (2 * kc + sq) = false
    ∧ s.chip.mayIssue kc sq = some k
    ∧ s.chip.get (seqPc kc sq) % 32 = 0
    ∧ s.chip.get (seqPc kc sq) + 32 ≤ latchOfs
    ∧ decodeBundle (s.chip.fetch kc sq (s.chip.get (seqPc kc sq))).1 = some i
    ∧ (s.chip.fetch kc sq (s.chip.get (seqPc kc sq))).2.runBundle kc sq k (s.chip.get (seqPc kc sq)) i = .done d none :=
  ⟨0, 1, kern0, { s := .empty, v := .empty, m := .empty, x := .empty }, (((run0.put (seqState 0 1) 1).setSeqr 0 1 { buf := [(0, 0)] }).put (seqPc 0 1) 32), mk ((run0.put (seqState 0 1) 1).setSeqr 0 1 { buf := [(0, 0)] }), by decide +kernel⟩

theorem witness_BundlesIssue_1 : ∃ (kc : Fin 104) (sq : Fin 2) (k : Kern) (i : Bundle) (s : State),
    s.chip.pwr.on = true
    ∧ s.chip.dbgHalt.contains (2 * kc + sq) = false
    ∧ s.chip.mayIssue kc sq = some k
    ∧ s.chip.get (seqPc kc sq) % 32 = 0
    ∧ s.chip.get (seqPc kc sq) + 32 ≤ latchOfs
    ∧ decodeBundle (s.chip.fetch kc sq (s.chip.get (seqPc kc sq))).1 = some i
    ∧ (s.chip.fetch kc sq (s.chip.get (seqPc kc sq))).2.runBundle kc sq k (s.chip.get (seqPc kc sq)) i = .wait :=
  ⟨0, 1, kern0, { s := .alu .add 31 1 2, v := .empty, m := .empty, x := .empty }, mk ((withBytes (run0.put (seqState 0 1) 1) (cisKey 0 0) (leBytes 8 (1 + 31 * 2 ^ 8 + 1 * 2 ^ 13 + 2 * 2 ^ 18))).setSeqr 0 1 { loads := [⟨9, 1, 0x300000, 4, true, 0⟩] }), by decide +kernel⟩

theorem witness_BundlesIssue_2 : ∃ (kc : Fin 104) (sq : Fin 2) (k : Kern) (i : Bundle) (cause : Nat) (code : Nat) (s : State),
    s.chip.pwr.on = true
    ∧ s.chip.dbgHalt.contains (2 * kc + sq) = false
    ∧ s.chip.mayIssue kc sq = some k
    ∧ s.chip.get (seqPc kc sq) % 32 = 0
    ∧ s.chip.get (seqPc kc sq) + 32 ≤ latchOfs
    ∧ decodeBundle (s.chip.fetch kc sq (s.chip.get (seqPc kc sq))).1 = some i
    ∧ (s.chip.fetch kc sq (s.chip.get (seqPc kc sq))).2.runBundle kc sq k (s.chip.get (seqPc kc sq)) i = .fault cause code :=
  ⟨0, 1, kern0, { s := .empty, v := .empty, m := .agb 0 0, x := .empty }, 2, 0, mk (withBytes (run0.put (seqState 0 1) 1) (cisKey 0 0) (leBytes 32 (2 ^ 128))), by decide +kernel⟩

theorem witness_BundlesIssue_3 : ∃ (kc : Fin 104) (sq : Fin 2) (k : Kern) (s : State),
    s.chip.pwr.on = true
    ∧ s.chip.dbgHalt.contains (2 * kc + sq) = false
    ∧ s.chip.mayIssue kc sq = some k
    ∧ s.chip.get (seqPc kc sq) % 32 = 0
    ∧ s.chip.get (seqPc kc sq) + 32 ≤ latchOfs
    ∧ decodeBundle (s.chip.fetch kc sq (s.chip.get (seqPc kc sq))).1 = none :=
  ⟨0, 1, kern0, mk (withBytes (run0.put (seqState 0 1) 1) (cisKey 0 0) [0xFF]), by decide +kernel⟩

theorem witness_BundlesIssue_4 : ∃ (kc : Fin 104) (sq : Fin 2) (k : Kern) (s : State),
    s.chip.pwr.on = true
    ∧ s.chip.dbgHalt.contains (2 * kc + sq) = false
    ∧ s.chip.mayIssue kc sq = some k
    ∧ ((s.chip.get (seqPc kc sq) % 32 ≠ 0 ∨ latchOfs < s.chip.get (seqPc kc sq) + 32)) :=
  ⟨0, 1, kern0, mk ((run0.put (seqState 0 1) 1).put (seqPc 0 1) 0x17FF800), by decide +kernel⟩

theorem witness_BundlesIssue_5 : ∃ (kc : Fin 104) (sq : Fin 2) (k : Kern) (op : AluOp) (rd : Nat) (ra : Nat) (rb : Nat) (s : State),
    s.chip.pwr.on = true
    ∧ s.chip.dbgHalt.contains (2 * kc + sq) = false
    ∧ s.chip.mayIssue kc sq = some k
    ∧ s.chip.get (seqPc kc sq) % 32 = 0
    ∧ s.chip.get (seqPc kc sq) + 32 ≤ latchOfs
    ∧ (s.chip.seqr kc sq).loads = []
    ∧ (s.chip.seqr kc sq).loops = []
    ∧ decodeBundle (s.chip.fetch kc sq (s.chip.get (seqPc kc sq))).1 = some { s := .alu op rd ra rb, v := .empty, m := .empty, x := .empty } :=
  ⟨0, 1, kern0, .add, 31, 1, 2, mk (withBytes (run0.put (seqState 0 1) 1) (cisKey 0 0) (leBytes 8 (1 + 31 * 2 ^ 8 + 1 * 2 ^ 13 + 2 * 2 ^ 18))), by decide +kernel⟩

theorem witness_BundlesIssue_6 : ∃ (kc : Fin 104) (sq : Fin 2) (n : Nat) (l : PendLoad) (k : Kern) (p : Place) (s : State),
    s.chip.pwr.on = true
    ∧ (s.chip.seqr kc sq).loads[n]? = some l
    ∧ s.chip.kernOf kc = some k
    ∧ inRegs l.addr = false
    ∧ s.chip.reach k.basin l.addr l.size false = some p
    ∧ s.chip.poisonAt p l.size = false :=
  ⟨0, 1, 0, ⟨9, 5, 0x300000, 4, true, 64⟩, kern0, .hbm 0x300000, mk (run0.setSeqr 0 1 { loads := [⟨9, 5, 0x300000, 4, true, 64⟩] }), by decide +kernel⟩

theorem witness_BundlesIssue_7 : ∃ (kc : Fin 104) (sq : Fin 2) (n : Nat) (v : Nat) (l : PendLoad) (k : Kern) (d : Chip) (s : State),
    s.chip.pwr.on = true
    ∧ (s.chip.seqr kc sq).loads[n]? = some l
    ∧ s.chip.kernOf kc = some k
    ∧ inRegs l.addr = true
    ∧ (s.chip.setSeqr kc sq { s.chip.seqr kc sq with loads := (s.chip.seqr kc sq).loads.eraseIdx n }).regRead (l.addr - regWindow) = (v, d) :=
  ⟨0, 1, 0, ((run0.setSeqr 0 1 {}).regRead (BSN_STEP 0).key).1, ⟨9, 5, regWindow + (BSN_STEP 0).key, 8, false, 64⟩, kern0, ((run0.setSeqr 0 1 {}).regRead (BSN_STEP 0).key).2, mk (run0.setSeqr 0 1 { loads := [⟨9, 5, regWindow + (BSN_STEP 0).key, 8, false, 64⟩] }), by decide +kernel⟩

theorem witness_BundlesIssue_8 : ∃ (kc : Fin 104) (sq : Fin 2) (n : Nat) (l : PendLoad) (k : Kern) (p : Place) (s : State),
    s.chip.pwr.on = true
    ∧ (s.chip.seqr kc sq).loads[n]? = some l
    ∧ s.chip.kernOf kc = some k
    ∧ inRegs l.addr = false
    ∧ s.chip.reach k.basin l.addr l.size false = some p
    ∧ s.chip.poisonAt p l.size = true :=
  ⟨0, 1, 0, ⟨9, 5, 0x300000, 4, true, 64⟩, kern0, .hbm 0x300000, mk { run0.setSeqr 0 1 { loads := [⟨9, 5, 0x300000, 4, true, 64⟩] } with poison := [0xC000] }, by decide +kernel⟩

theorem witness_BundlesIssue_9 : ∃ (kc : Fin 104) (sq : Fin 2) (l : Nat) (thr : Nat) (k : Kern) (s : State),
    s.chip.pwr.on = true
    ∧ (s.chip.seqr kc sq).hold = .lwait l thr
    ∧ s.chip.kernOf kc = some k
    ∧ thr ≤ s.chip.latch k.basin l :=
  ⟨0, 1, 3, 0, kern0, mk (run0.setSeqr 0 1 { hold := .lwait 3 0 }), by decide +kernel⟩

theorem witness_BundlesIssue_10 : ∃ (kc : Fin 104) (sq : Fin 2) (cs : Bool) (m : Marks) (s : State),
    s.chip.pwr.on = true
    ∧ (s.chip.seqr kc sq).hold = .fence cs m
    ∧ s.chip.met kc m = true :=
  ⟨0, 1, true, {}, mk (run0.setSeqr 0 1 { hold := .fence true {} }), by decide +kernel⟩

theorem witness_BundlesIssue_11 : ∃ (kc : Fin 104) (sq : Fin 2) (mask : Nat) (m : Marks) (s : State),
    s.chip.pwr.on = true
    ∧ (s.chip.seqr kc sq).hold = .msync mask m
    ∧ s.chip.msyncMet kc mask m = true :=
  ⟨0, 1, 31, {}, mk (run0.setSeqr 0 1 { hold := .msync 31 {} }), by decide +kernel⟩

theorem witness_LatchOperationsAndCopiesComplete_0 : ∃ (b : Fin 6) (id : Nat) (o : LatchOp) (kc : Nat) (j : Nat) (pl : Place) (s : State),
    s.chip.pwr.on = true
    ∧ (s.chip.bs b).lops.find? (fun x => x.id == id) = some o
    ∧ o.src = .seq kc j
    ∧ (s.chip.bs b).frozen = false
    ∧ s.chip.met kc o.marks = true
    ∧ o.supp = false
    ∧ s.chip.latchPlace b o.latch = some pl :=
  ⟨0, 4, ⟨4, 0, false, 3, .seq 0 0, {}, false⟩, 0, 0, .cis 0 0x17FF800, mk (run0.setBs 0 { lops := [⟨4, 0, false, 3, .seq 0 0, {}, false⟩] }), by decide +kernel⟩

theorem witness_LatchOperationsAndCopiesComplete_1 : ∃ (b : Fin 6) (id : Nat) (o : LatchOp) (kc : Nat) (j : Nat) (s : State),
    s.chip.pwr.on = true
    ∧ (s.chip.bs b).lops.find? (fun x => x.id == id) = some o
    ∧ o.src = .seq kc j
    ∧ (s.chip.bs b).frozen = false
    ∧ s.chip.met kc o.marks = true
    ∧ o.supp = true :=
  ⟨0, 4, ⟨4, 0, false, 3, .seq 0 0, {}, true⟩, 0, 0, mk (run0.setBs 0 { lops := [⟨4, 0, false, 3, .seq 0 0, {}, true⟩] }), by decide +kernel⟩

theorem witness_LatchOperationsAndCopiesComplete_2 : ∃ (id : Nat) (o : Op) (kc : Nat) (j : Nat) (p : Place) (q : Place) (s : State),
    s.chip.pwr.on = true
    ∧ s.chip.ops.find? (fun x => x.id = id && x.kind = .spout && x.seqs.isEmpty) = some o
    ∧ o.src = .seq kc j
    ∧ o.sig = none
    ∧ o.agSrc = none
    ∧ s.chip.reach o.flow.basin o.loc o.len true = some p
    ∧ s.chip.poisonAt p o.len = false
    ∧ o.agDst = none
    ∧ s.chip.reach o.flow.basin o.dst o.len false = some q
    ∧ s.chip.partPoisonAt q o.len = false
    ∧ ((∀ c off, q = .cis c off → (s.chip.cl c).tags = [])) :=
  ⟨3, { op0 with loc := 0x200000, dst := 0x300000, len := 8 }, 0, 0, .hbm 0x200000, .hbm 0x300000, mk { run0 with ops := [{ op0 with loc := 0x200000, dst := 0x300000, len := 8 }] }, by
    repeat' apply And.intro
    all_goals first | decide +kernel | rfl | (intro k h; cases h <;> decide +kernel) | (intro k c h; cases h <;> decide +kernel) | (left; rfl) | (left; decide +kernel) | (right; decide +kernel) | (right; left; decide +kernel) | (right; right; decide +kernel)⟩

theorem witness_LatchOperationsAndCopiesComplete_3 : ∃ (id : Nat) (o : Op) (p : Place) (q : Place) (s : State),
    s.chip.pwr.on = true
    ∧ s.chip.ops.find? (fun x => x.id = id && x.kind = .spout && x.seqs.isEmpty) = some o
    ∧ o.agSrc = none
    ∧ s.chip.reach o.flow.basin o.loc o.len true = some p
    ∧ s.chip.poisonAt p o.len = false
    ∧ o.agDst = none
    ∧ s.chip.reach o.flow.basin o.dst o.len false = some q
    ∧ s.chip.partPoisonAt q o.len = false :=
  ⟨3, { op0 with loc := 0x200000, dst := 0x300000, len := 8 }, .hbm 0x200000, .hbm 0x300000, mk { run0 with ops := [{ op0 with loc := 0x200000, dst := 0x300000, len := 8 }] }, by decide +kernel⟩

theorem witness_LatchOperationsAndCopiesComplete_4 : ∃ (id : Nat) (o : Op) (kc : Nat) (g : Ag) (q : Place) (s : State),
    s.chip.pwr.on = true
    ∧ s.chip.ops.find? (fun x => x.id = id && x.kind = .spout && x.seqs.isEmpty) = some o
    ∧ o.agSrc = some (kc, g)
    ∧ o.agDst = none
    ∧ s.chip.reach o.flow.basin o.dst o.len false = some q
    ∧ s.chip.partPoisonAt q o.len = false :=
  ⟨3, { op0 with agSrc := some (0, { desc := 0x4000 }), dst := 0x300000, len := 64 }, 0, { desc := 0x4000 }, .hbm 0x300000, mk { run0 with ops := [{ op0 with agSrc := some (0, { desc := 0x4000 }), dst := 0x300000, len := 64 }] }, by decide +kernel⟩

theorem witness_LatchOperationsAndCopiesComplete_5 : ∃ (id : Nat) (o : Op) (kc : Nat) (g : Ag) (p : Place) (s : State),
    s.chip.pwr.on = true
    ∧ s.chip.ops.find? (fun x => x.id = id && x.kind = .spout && x.seqs.isEmpty) = some o
    ∧ o.agSrc = none
    ∧ s.chip.reach o.flow.basin o.loc o.len true = some p
    ∧ s.chip.poisonAt p o.len = false
    ∧ o.agDst = some (kc, g) :=
  ⟨3, { op0 with loc := 0x200000, agDst := some (0, { desc := 0x4000 }), len := 64 }, 0, { desc := 0x4000 }, .hbm 0x200000, mk { run0 with ops := [{ op0 with loc := 0x200000, agDst := some (0, { desc := 0x4000 }), len := 64 }] }, by decide +kernel⟩

theorem witness_LatchOperationsAndCopiesComplete_6 : ∃ (id : Nat) (o : Op) (k1 : Nat) (k2 : Nat) (g : Ag) (h : Ag) (s : State),
    s.chip.pwr.on = true
    ∧ s.chip.ops.find? (fun x => x.id = id && x.kind = .spout && x.seqs.isEmpty) = some o
    ∧ o.agSrc = some (k1, g)
    ∧ o.agDst = some (k2, h) :=
  ⟨3, { op0 with agSrc := some (0, { desc := 0x8000 }), agDst := some (0, { desc := 0x4000 }), len := 64 }, 0, 0, { desc := 0x8000 }, { desc := 0x4000 }, mk { run0 with ops := [{ op0 with agSrc := some (0, { desc := 0x8000 }), agDst := some (0, { desc := 0x4000 }), len := 64 }] }, by decide +kernel⟩

theorem witness_LatchOperationsAndCopiesComplete_7 : ∃ (id : Nat) (o : Op) (p : Place) (q : Place) (s : State),
    s.chip.pwr.on = true
    ∧ s.chip.ops.find? (fun x => x.id = id && x.kind = .spout && x.seqs.isEmpty) = some o
    ∧ o.agSrc = none
    ∧ s.chip.reach o.flow.basin o.loc o.len true = some p
    ∧ o.agDst = none
    ∧ s.chip.reach o.flow.basin o.dst o.len false = some q
    ∧ ((s.chip.poisonAt p o.len = true ∨ s.chip.partPoisonAt q o.len = true)) :=
  ⟨3, { op0 with loc := 0x200000, dst := 0x300000, len := 8 }, .hbm 0x200000, .hbm 0x300000, mk { run0 with ops := [{ op0 with loc := 0x200000, dst := 0x300000, len := 8 }], poison := [0xC000] }, by decide +kernel⟩

theorem witness_ArraysLoadPassAndDrain_0 : ∃ (kc : Fin 104) (staged : Bool) (u : Bool) (confl : Nat) (k : Kern) (crows : Nat) (ncol : Nat) (d : Nat) (r : Nat) (bn : Nat) (f : OpFmt) (rest : List ACmd) (s : State),
    s.chip.pwr.on = true
    ∧ s.chip.arrLive kc = some k
    ∧ (s.chip.cl kc).arr.q = .load crows ncol f d r u bn :: rest
    ∧ (s.chip.cl kc).arr.shadow = none
    ∧ (s.chip.cl kc).arr.loading = none
    ∧ dRowsOk d r crows false = true :=
  ⟨0, true, false, 5, kern0, 1, 1, 0, 0, 64, fmt0, [], mk (arr0 { q := [.load 1 1 fmt0 0 0 false 64] }), by decide +kernel⟩

theorem witness_ArraysLoadPassAndDrain_0_conflict : ∃ (kc : Fin 104) (staged : Bool) (u : Bool) (confl : Nat) (k : Kern) (crows : Nat) (ncol : Nat) (d : Nat) (r : Nat) (bn : Nat) (f : OpFmt) (rest : List ACmd) (s : State),
    s.chip.pwr.on = true
    ∧ s.chip.arrLive kc = some k
    ∧ (s.chip.cl kc).arr.q = .load crows ncol f d r u bn :: rest
    ∧ (s.chip.cl kc).arr.shadow = none
    ∧ (s.chip.cl kc).arr.loading = none
    ∧ dRowsOk d r crows false = true :=
  ⟨0, false, true, 5, kern0, 1, 1, 0, 0, 64, fmt0, [], mk (arr0 { q := [.load 1 1 fmt0 0 0 true 64], drains := [⟨drain0, [], [], []⟩] }), by decide +kernel⟩

theorem witness_ArraysLoadPassAndDrain_1 : ∃ (kc : Fin 104) (staged : Bool) (u : Bool) (confl : Nat) (k : Kern) (crows : Nat) (ncol : Nat) (d : Nat) (r : Nat) (bn : Nat) (f : OpFmt) (rest : List ACmd) (s : State),
    s.chip.pwr.on = true
    ∧ s.chip.arrLive kc = some k
    ∧ (s.chip.cl kc).arr.q = .load crows ncol f d r u bn :: rest
    ∧ (s.chip.cl kc).arr.shadow = none
    ∧ (s.chip.cl kc).arr.loading = none
    ∧ dRowsOk d r crows false = false :=
  ⟨0, true, false, 5, kern0, 1, 1, 0x1800000, 0, 64, fmt0, [], mk (arr0 { q := [.load 1 1 fmt0 0x1800000 0 false 64] }), by decide +kernel⟩

theorem witness_ArraysLoadPassAndDrain_2 : ∃ (kc : Fin 104) (x : Tile) (d : Nat) (r : Nat) (s : State),
    s.chip.pwr.on = true
    ∧ (s.chip.cl kc).arr.loading = some (x, d, r) :=
  ⟨0, tile0, 0, 0, mk (arr0 { loading := some (tile0, 0, 0) }), by decide +kernel⟩

theorem witness_ArraysLoadPassAndDrain_3 : ∃ (kc : Fin 104) (s : State),
    s.chip.pwr.on = true :=
  ⟨103, mk (on0.put (CLS_ARRAY_STS.STAGING 25 3) 1), by decide +kernel⟩

theorem witness_ArraysLoadPassAndDrain_4 : ∃ (kc : Fin 104) (waited : Nat) (confl : Nat) (k : Kern) (n : Nat) (w : Nat) (f : OpFmt) (d : Nat) (r : Nat) (swap : Bool) (cls : Nat) (bn : Nat) (rest : List ACmd) (x : Tile) (sc : List (List Nat)) (dat : List (List Nat)) (osc : List (List Nat)) (s : State),
    s.chip.pwr.on = true
    ∧ s.chip.arrLive kc = some k
    ∧ w < 2
    ∧ (s.chip.cl kc).arr.q = .pass n w f d r swap cls bn :: rest
    ∧ (if swap then (s.chip.cl kc).arr.shadow else (s.chip.cl kc).arr.active) = some x
    ∧ ((s.chip.cl kc).arr.set w).st ≠ .draining
    ∧ s.chip.on (CLS_ARRAY_STS.STAGING (kc / 4) (kc % 4)) = false
    ∧ dRowsOk d r n false = true
    ∧ s.chip.tileScales k.basin x.fmt cls x.row0 x.crows x.ncol = some sc
    ∧ s.chip.passData k.basin kc f d r n = some (dat, osc) :=
  ⟨0, 3, 0, kern0, 1, 0, fmt0, 0, 0, true, 8, 64, [], tile0, [], [List.replicate 64 0], [[]], mk (arr0 { q := [.pass 1 0 fmt0 0 0 true 8 64], shadow := some tile0 }), by decide +kernel⟩

theorem witness_ArraysLoadPassAndDrain_5 : ∃ (kc : Fin 104) (waited : Nat) (confl : Nat) (k : Kern) (n : Nat) (w : Nat) (f : OpFmt) (d : Nat) (r : Nat) (swap : Bool) (cls : Nat) (bn : Nat) (rest : List ACmd) (x : Tile) (s : State),
    s.chip.pwr.on = true
    ∧ s.chip.arrLive kc = some k
    ∧ (s.chip.cl kc).arr.q = .pass n w f d r swap cls bn :: rest
    ∧ (if swap then (s.chip.cl kc).arr.shadow else (s.chip.cl kc).arr.active) = some x
    ∧ ((s.chip.cl kc).arr.set w).st ≠ .draining
    ∧ s.chip.on (CLS_ARRAY_STS.STAGING (kc / 4) (kc % 4)) = false
    ∧ ((dRowsOk d r n false = false ∨ s.chip.tileScales k.basin x.fmt cls x.row0 x.crows x.ncol = none ∨ s.chip.passData k.basin kc f d r n = none)) :=
  ⟨0, 3, 0, kern0, 1, 0, fmt0, 0x1800000, 0, false, 8, 64, [], tile0, mk (arr0 { q := [.pass 1 0 fmt0 0x1800000 0 false 8 64], active := some tile0 }), by decide +kernel⟩

theorem witness_ArraysLoadPassAndDrain_6 : ∃ (kc : Fin 104) (f : Flight) (rest : List Flight) (s : State),
    s.chip.pwr.on = true
    ∧ (s.chip.cl kc).arr.flights = f :: rest
    ∧ f.set < 2 :=
  ⟨0, { set := 1, desc := 0, tile := tile0, fmt := fmt0, cls := 8, kvalid := 1, data := [[3]], scale := [[]] }, [], mk (arr0 { flights := [{ set := 1, desc := 0, tile := tile0, fmt := fmt0, cls := 8, kvalid := 1, data := [[3]], scale := [[]] }] }), by decide +kernel⟩

theorem witness_ArraysLoadPassAndDrain_7 : ∃ (kc : Fin 104) (col : Nat) (f : Flight) (rest : List Flight) (s : State),
    s.chip.pwr.on = true
    ∧ (s.chip.cl kc).arr.flights = f :: rest
    ∧ f.set < 2
    ∧ col < 512 :=
  ⟨0, 511, { set := 1, desc := 0, tile := tile0, fmt := fmt0, cls := 8, kvalid := 1, data := [[3]], scale := [[]] }, [], mk (arr0 { flights := [{ set := 1, desc := 0, tile := tile0, fmt := fmt0, cls := 8, kvalid := 1, data := [[3]], scale := [[]] }] }), by decide +kernel⟩

theorem witness_ArraysLoadPassAndDrain_8 : ∃ (kc : Fin 104) (confl : Nat) (k : Kern) (d : DrainCmd) (cs : List Nat) (bs : List Nat) (rs : List Nat) (rest : List ACmd) (s : State),
    s.chip.pwr.on = true
    ∧ s.chip.arrLive kc = some k
    ∧ d.set < 2
    ∧ (s.chip.cl kc).arr.q = .drain d :: rest
    ∧ (((d.vec = none ∧ cs = [] ∧ bs = [] ∧ rs = [])
    ∨ (∃ d3 r3 r4 r5, d.vec = some (d3, r3) ∧ dRowsOk d3 r3 (vecRows (dRowBytes d3) d.rows d.ncol d.rsc d.csc d.bias) false = true
      ∧ (if d.csc ≠ 0 then s.chip.vec kc d3 r3 d.ncol (if d.csc = 1 then 1 else 4) else ([], r3)) = (cs, r4)
      ∧ (if d.bias then s.chip.vec kc d3 r4 d.ncol 4 else ([], r4)) = (bs, r5)
      ∧ (if d.rsc ≠ 0 then (s.chip.vec kc d3 r5 d.rows (if d.rsc = 1 then 1 else 4)).1 else []) = rs))) :=
  ⟨0, 0, kern0, drain0, [], [], [], [], mk (arr0 { q := [.drain drain0] }), by
    repeat' apply And.intro
    all_goals first | decide +kernel | rfl | (intro k h; cases h <;> decide +kernel) | (intro k c h; cases h <;> decide +kernel) | (left; rfl) | (left; decide +kernel) | (right; decide +kernel) | (right; left; decide +kernel) | (right; right; decide +kernel) | exact Or.inr ⟨_, by decide +kernel⟩ | exact ⟨_, by decide +kernel⟩⟩

theorem witness_ArraysLoadPassAndDrain_8_bias : ∃ (kc : Fin 104) (confl : Nat) (k : Kern) (d : DrainCmd) (cs : List Nat) (bs : List Nat) (rs : List Nat) (rest : List ACmd) (s : State),
    s.chip.pwr.on = true
    ∧ s.chip.arrLive kc = some k
    ∧ d.set < 2
    ∧ (s.chip.cl kc).arr.q = .drain d :: rest
    ∧ (((d.vec = none ∧ cs = [] ∧ bs = [] ∧ rs = [])
    ∨ (∃ d3 r3 r4 r5, d.vec = some (d3, r3) ∧ dRowsOk d3 r3 (vecRows (dRowBytes d3) d.rows d.ncol d.rsc d.csc d.bias) false = true
      ∧ (if d.csc ≠ 0 then s.chip.vec kc d3 r3 d.ncol (if d.csc = 1 then 1 else 4) else ([], r3)) = (cs, r4)
      ∧ (if d.bias then s.chip.vec kc d3 r4 d.ncol 4 else ([], r4)) = (bs, r5)
      ∧ (if d.rsc ≠ 0 then (s.chip.vec kc d3 r5 d.rows (if d.rsc = 1 then 1 else 4)).1 else []) = rs))) :=
  ⟨0, 4, kern0, { drain0 with bias := true, vec := some (0, 0) }, [], [0], [], [], mk (arr0 { q := [.drain { drain0 with bias := true, vec := some (0, 0) }] }), by
    exact ⟨by decide +kernel, by decide +kernel, by decide +kernel, by decide +kernel, Or.inr ⟨0, 0, 0, 1, by decide +kernel⟩⟩⟩

theorem witness_ArraysLoadPassAndDrain_9 : ∃ (kc : Fin 104) (confl : Nat) (k : Kern) (d : DrainCmd) (d3 : Nat) (r3 : Nat) (rest : List ACmd) (s : State),
    s.chip.pwr.on = true
    ∧ s.chip.arrLive kc = some k
    ∧ (s.chip.cl kc).arr.q = .drain d :: rest
    ∧ d.vec = some (d3, r3)
    ∧ dRowsOk d3 r3 (vecRows (dRowBytes d3) d.rows d.ncol d.rsc d.csc d.bias) false = false :=
  ⟨0, 0, kern0, { drain0 with bias := true, vec := some (0x1800000, 0) }, 0x1800000, 0, [], mk (arr0 { q := [.drain { drain0 with bias := true, vec := some (0x1800000, 0) }] }), by decide +kernel⟩

theorem witness_ArraysLoadPassAndDrain_10 : ∃ (kc : Fin 104) (k : Kern) (d : Drain) (rest : List Drain) (x : Tag) (c1 : Chip) (c2 : Chip) (a1 : Arr) (tl : Tally) (nans : Nat) (s : State),
    s.chip.pwr.on = true
    ∧ s.chip.arrLive kc = some k
    ∧ d.cmd.set < 2
    ∧ (s.chip.cl kc).arr.drains = d :: rest
    ∧ (s.chip.cl kc).arr.flights.all (fun f => f.set != d.cmd.set) = true
    ∧ ((s.chip.cl kc).arr.set d.cmd.set).stop = false
    ∧ s.chip.tagAt kc k.basin (tagOff k d.cmd.tag) d.cmd.tag = some x
    ∧ s.chip.drainOk kc k.basin x d.cmd = true
    ∧ ((s.chip.on (BSN_NAN_TRAP_CTL.ENABLE k.basin) = false ∨ s.chip.on (BSN_NAN_TRAP_CTL.ACTION k.basin) = true))
    ∧ a1 = ({ (s.chip.cl kc).arr with
      drains := rest, done := if d.cmd.set = 0 then { (s.chip.cl kc).arr.done with drains0 := (s.chip.cl kc).arr.done.drains0 + 1 }
        else { (s.chip.cl kc).arr.done with drains1 := (s.chip.cl kc).arr.done.drains1 + 1 } } : Arr).setSet d.cmd.set {}
    ∧ c1 = s.chip.setCl kc { s.chip.cl kc with arr := a1 }
    ∧ c1.burnAll kc k.basin k.side x (c1.tagScale k x) d ((s.chip.cl kc).arr.set d.cmd.set) = (c2, tl, nans) :=
  ⟨0, kern0, ⟨drain0, [], [], []⟩, [], { off := 0, idx := 0, fmt := .fp64, signed := false, stoch := false, ovf := .saturate, mx := false, slot := 0, base := 0, scales := 0 }, arr0 { done := { drains0 := 1 } }, arr0 { done := { drains0 := 1 } }, { done := { drains0 := 1 } }, {}, 0, mk (arr0 { drains := [⟨drain0, [], [], []⟩], set0 := { st := .draining } }), by decide +kernel⟩

theorem witness_ArraysLoadPassAndDrain_11 : ∃ (kc : Fin 104) (k : Kern) (d : Drain) (rest : List Drain) (x : Tag) (a : Int) (row : List Acc) (s : State),
    s.chip.pwr.on = true
    ∧ s.chip.arrLive kc = some k
    ∧ d.cmd.set < 2
    ∧ (s.chip.cl kc).arr.drains = d :: rest
    ∧ (s.chip.cl kc).arr.flights.all (fun f => f.set != d.cmd.set) = true
    ∧ ((s.chip.cl kc).arr.set d.cmd.set).stop = false
    ∧ s.chip.tagAt kc k.basin (tagOff k d.cmd.tag) d.cmd.tag = some x
    ∧ s.chip.drainOk kc k.basin x d.cmd = true
    ∧ d.cmd.raw = true
    ∧ ((s.chip.cl kc).arr.set d.cmd.set).isInt = true
    ∧ ((s.chip.cl kc).arr.set d.cmd.set).rows = [row]
    ∧ row.all (fun e => !e.held) = true
    ∧ dRow d.cmd.desc d.cmd.row = (a, false)
    ∧ (s.chip.cl kc).tags = [] :=
  ⟨0, kern0, ⟨drain0, [], [], []⟩, [], { off := 0, idx := 0, fmt := .fp64, signed := false, stoch := false, ovf := .saturate, mx := false, slot := 0, base := 0, scales := 0 }, 0, [{ v := 5 }], mk (arr0 { drains := [⟨drain0, [], [], []⟩], set0 := { st := .draining, isInt := true, rows := [[{ v := 5 }]] } }), by decide +kernel⟩

theorem witness_ArraysLoadPassAndDrain_12_tag : ∃ (kc : Fin 104) (k : Kern) (d : Drain) (rest : List Drain) (s : State),
    s.chip.pwr.on = true
    ∧ s.chip.arrLive kc = some k
    ∧ (s.chip.cl kc).arr.drains = d :: rest
    ∧ (s.chip.cl kc).arr.flights.all (fun f => f.set != d.cmd.set) = true
    ∧ ((s.chip.cl kc).arr.set d.cmd.set).stop = false
    ∧ (s.chip.tagAt kc k.basin (tagOff k d.cmd.tag) d.cmd.tag = none) :=
  ⟨0, kern0, ⟨drain0, [], [], []⟩, [], mk (withBytes (arr0 { drains := [⟨drain0, [], [], []⟩] }) (cisKey 0 0) [0x0F]), by decide +kernel⟩

theorem witness_ArraysLoadPassAndDrain_12_address : ∃ (kc : Fin 104) (k : Kern) (d : Drain) (rest : List Drain) (s : State),
    s.chip.pwr.on = true
    ∧ s.chip.arrLive kc = some k
    ∧ (s.chip.cl kc).arr.drains = d :: rest
    ∧ (s.chip.cl kc).arr.flights.all (fun f => f.set != d.cmd.set) = true
    ∧ ((s.chip.cl kc).arr.set d.cmd.set).stop = false
    ∧ ((s.chip.tagAt kc k.basin (tagOff k d.cmd.tag) d.cmd.tag = some { off := 0, idx := 0, fmt := .fp64, signed := false, stoch := false, ovf := .saturate, mx := false, slot := 0, base := 0, scales := 0 } ∧ s.chip.drainOk kc k.basin { off := 0, idx := 0, fmt := .fp64, signed := false, stoch := false, ovf := .saturate, mx := false, slot := 0, base := 0, scales := 0 } d.cmd = false)) :=
  ⟨0, kern0, ⟨{ drain0 with rows := 1, desc := 0x17FF800, bundle := 64 }, [], [], []⟩, [], mk (arr0 { drains := [⟨{ drain0 with rows := 1, desc := 0x17FF800, bundle := 64 }, [], [], []⟩] }), by decide +kernel⟩

theorem witness_ArrayLinesAreSpared_0 : ∃ (kc : Fin 104) (col : Bool) (line : Nat) (j : Nat) (i : Instr) (s : State),
    s.chip.pwr.on = true
    ∧ line < 256
    ∧ j < 4
    ∧ (((i = .plannedLineMapping kc col line ∧ s.chip.kernOf kc = none ∧ s.chip.get (CLS_ARRAY_STS.STATE (kc / 4) (kc % 4)) = 0)
    ∨ (i = .arrayLineTestDone kc (some (col, line)) ∧ 2 ≤ s.chip.get (CLS_ARRAY_STS.STATE (kc / 4) (kc % 4)) ∧ 6 ≤ s.chip.clBasin kc)))
    ∧ (List.range 4).find? (fun n => !bit (s.chip.word (spareReg col (kc / 4) (kc % 4))) (32 + n) &&
    !bit (s.chip.word (spareReg col (kc / 4) (kc % 4))) (36 + n)) = some j :=
  ⟨103, true, 255, 0, .plannedLineMapping 103 true 255, mk on0, by decide +kernel⟩

theorem witness_ArrayLinesAreSpared_0_test : ∃ (kc : Fin 104) (col : Bool) (line : Nat) (j : Nat) (i : Instr) (s : State),
    s.chip.pwr.on = true
    ∧ line < 256
    ∧ j < 4
    ∧ (((i = .plannedLineMapping kc col line ∧ s.chip.kernOf kc = none ∧ s.chip.get (CLS_ARRAY_STS.STATE (kc / 4) (kc % 4)) = 0)
    ∨ (i = .arrayLineTestDone kc (some (col, line)) ∧ 2 ≤ s.chip.get (CLS_ARRAY_STS.STATE (kc / 4) (kc % 4)) ∧ 6 ≤ s.chip.clBasin kc)))
    ∧ (List.range 4).find? (fun n => !bit (s.chip.word (spareReg col (kc / 4) (kc % 4))) (32 + n) &&
    !bit (s.chip.word (spareReg col (kc / 4) (kc % 4))) (36 + n)) = some j :=
  ⟨103, false, 255, 0, .arrayLineTestDone 103 (some (false, 255)), mk ((on0.unplace 25).put (CLS_ARRAY_STS.STATE 25 3) 2), by decide +kernel⟩

theorem witness_ArrayLinesAreSpared_1 : ∃ (kc : Fin 104) (col : Bool) (n : Nat) (j : Nat) (i : Instr) (s : State),
    s.chip.pwr.on = true
    ∧ n < 4
    ∧ j < 4
    ∧ (((i = .plannedLineMapping kc col (256 + n) ∧ s.chip.kernOf kc = none ∧ s.chip.get (CLS_ARRAY_STS.STATE (kc / 4) (kc % 4)) = 0)
    ∨ (i = .arrayLineTestDone kc (some (col, 256 + n)) ∧ 2 ≤ s.chip.get (CLS_ARRAY_STS.STATE (kc / 4) (kc % 4)) ∧ 6 ≤ s.chip.clBasin kc)))
    ∧ bit (s.chip.word (spareReg col (kc / 4) (kc % 4))) (32 + n) = true
    ∧ (List.range 4).find? (fun m => m != n && !bit (s.chip.word (spareReg col (kc / 4) (kc % 4))) (32 + m) &&
    !bit (s.chip.word (spareReg col (kc / 4) (kc % 4))) (36 + m)) = some j :=
  ⟨103, false, 3, 0, .plannedLineMapping 103 false 259, mk (on0.setWord (spareReg false 25 3) (2 ^ 35 + 7 * 2 ^ 24)), by decide +kernel⟩

theorem witness_ArrayLinesAreSpared_2 : ∃ (kc : Fin 104) (col : Bool) (n : Nat) (i : Instr) (s : State),
    s.chip.pwr.on = true
    ∧ n < 4
    ∧ (((i = .plannedLineMapping kc col (256 + n) ∧ s.chip.kernOf kc = none ∧ s.chip.get (CLS_ARRAY_STS.STATE (kc / 4) (kc % 4)) = 0)
    ∨ (i = .arrayLineTestDone kc (some (col, 256 + n)) ∧ 2 ≤ s.chip.get (CLS_ARRAY_STS.STATE (kc / 4) (kc % 4)) ∧ 6 ≤ s.chip.clBasin kc)))
    ∧ bit (s.chip.word (spareReg col (kc / 4) (kc % 4))) (32 + n) = false :=
  ⟨103, true, 3, .plannedLineMapping 103 true 259, mk on0, by decide +kernel⟩

theorem witness_ArrayLinesAreSpared_3 : ∃ (kc : Fin 104) (col : Bool) (line : Nat) (c : Chip) (s : State),
    s.chip.pwr.on = true
    ∧ 2 ≤ s.chip.get (CLS_ARRAY_STS.STATE (kc / 4) (kc % 4))
    ∧ (s.chip.put (CLS_ARRAY_STS.STATE (kc / 4) (kc % 4)) 0).mapLine kc col line = (c, true)
    ∧ s.chip.clBasin kc < 6 :=
  ⟨0, true, 255, ((((die0.put (CLS_ARRAY_STS.STATE 0 0) 2).put (CLS_ARRAY_STS.STATE 0 0) 0).mapLine 0 true 255)).1, mk (die0.put (CLS_ARRAY_STS.STATE 0 0) 2), by decide +kernel⟩

theorem witness_ArrayLinesAreSpared_4 : ∃ (kc : Fin 104) (found : Option (Bool × Nat)) (c : Chip) (s : State),
    s.chip.pwr.on = true
    ∧ 2 ≤ s.chip.get (CLS_ARRAY_STS.STATE (kc / 4) (kc % 4))
    ∧ (((found = none ∧ c = s.chip.put (CLS_ARRAY_STS.STATE (kc / 4) (kc % 4)) 0)
    ∨ (∃ col line, found = some (col, line) ∧ (s.chip.put (CLS_ARRAY_STS.STATE (kc / 4) (kc % 4)) 0).mapLine kc col line = (c, false)))) :=
  ⟨0, none, (die0.put (CLS_ARRAY_STS.STATE 0 0) 2).put (CLS_ARRAY_STS.STATE 0 0) 0, mk (die0.put (CLS_ARRAY_STS.STATE 0 0) 2), by
    repeat' apply And.intro
    all_goals first | decide +kernel | rfl | (intro k h; cases h <;> decide +kernel) | (intro k c h; cases h <;> decide +kernel) | (left; rfl) | (left; decide +kernel) | (right; decide +kernel) | (right; left; decide +kernel) | (right; right; decide +kernel) | exact Or.inr ⟨_, by decide +kernel⟩ | exact ⟨_, by decide +kernel⟩⟩

theorem witness_ArrayLinesAreSpared_5 : ∃ (kc : Fin 104) (col : Bool) (line : Nat) (s : State),
    s.chip.pwr.on = true
    ∧ line < 256
    ∧ s.chip.kernOf kc = none
    ∧ ((∀ n < 4, bit (s.chip.word (spareReg col (kc / 4) (kc % 4))) (32 + n) = true ∨ bit (s.chip.word (spareReg col (kc / 4) (kc % 4))) (36 + n) = true)) :=
  ⟨103, true, 255, mk (on0.setWord (spareReg true 25 3) (15 * 2 ^ 32)), by
    repeat' apply And.intro
    all_goals first | decide +kernel | rfl | (intro k h; cases h <;> decide +kernel) | (intro k c h; cases h <;> decide +kernel) | (left; rfl) | (left; decide +kernel) | (right; decide +kernel) | (right; left; decide +kernel) | (right; right; decide +kernel)⟩

theorem witness_TemperCommandsRun_0 : ∃ (n : Fin 26) (r : TRun) (rest : List TRun) (s : State),
    s.chip.pwr.on = true
    ∧ s.chip.get (FGE_TEMPER_STS.STATE n) ≠ 2
    ∧ (s.chip.tu n).run = none
    ∧ s.chip.dieBasin n < 6
    ∧ (s.chip.bs (s.chip.dieBasin n)).quenched = false
    ∧ (s.chip.tu n).resume = r :: rest :=
  ⟨0, trun0 0, [], mk (die0.setTu 0 { resume := [trun0 0] }), by decide +kernel⟩

theorem witness_TemperCommandsRun_1 : ∃ (n : Fin 26) (o : Nat) (e : ECmd) (rest : List ECmd) (pl : Place) (ws : List (Tag × Tally)) (t0 : Nat) (ex : Int) (idx : List Nat) (s : State),
    s.chip.pwr.on = true
    ∧ s.chip.get (FGE_TEMPER_STS.STATE n) ≠ 2
    ∧ (s.chip.tu n).run = none
    ∧ (s.chip.tu n).resume = []
    ∧ s.chip.dieBasin n < 6
    ∧ (s.chip.bs (s.chip.dieBasin n)).quenched = false
    ∧ ((s.chip.tu n).order n).find? (fun m => !(s.chip.tu m).q.isEmpty) = some o
    ∧ o < 26
    ∧ (s.chip.tu o).q = e :: rest
    ∧ e.side = false
    ∧ s.chip.reach (s.chip.dieBasin n) e.desc 64 true = some pl
    ∧ s.chip.workTags (s.chip.dieBasin n) e (s.chip.rdn pl 64) = some ws
    ∧ s.chip.temperOk n (s.chip.dieBasin n) (s.chip.rdn pl 64) ws = true
    ∧ s.chip.stepRes (s.chip.dieBasin n) e = .run t0 ex
    ∧ idx = (if tdForm (s.chip.rdn pl 64) then (List.range (tdCount (s.chip.rdn pl 64))).map (fun i =>
    ((s.chip.reach (s.chip.dieBasin n) (bits (s.chip.rdn pl 64) 448 48 + 8 * i) 8 true).map (fun p => s.chip.rdn p 8)).getD 0) else [])
    ∧ idx.Nodup :=
  ⟨0, 0, cmd0, [], .hbm 0x200000, [], 1, 0, [], mk (((withBytes die0 0x200000 (leBytes 64 sgd0)).setTu 0 { q := [cmd0] }).setBs 0 { resolved := [⟨0, true, 1, 0⟩] } |>.setWord (BSN_STEP 0) 1), by decide +kernel⟩

theorem witness_TemperCommandsRun_2 : ∃ (n : Fin 26) (o : Nat) (e : ECmd) (rest : List ECmd) (pl : Place) (ws : List (Tag × Tally)) (s : State),
    s.chip.pwr.on = true
    ∧ s.chip.get (FGE_TEMPER_STS.STATE n) ≠ 2
    ∧ (s.chip.tu n).run = none
    ∧ (s.chip.tu n).resume = []
    ∧ s.chip.dieBasin n < 6
    ∧ (s.chip.bs (s.chip.dieBasin n)).quenched = false
    ∧ ((s.chip.tu n).order n).find? (fun m => !(s.chip.tu m).q.isEmpty) = some o
    ∧ o < 26
    ∧ (s.chip.tu o).q = e :: rest
    ∧ e.side = false
    ∧ s.chip.reach (s.chip.dieBasin n) e.desc 64 true = some pl
    ∧ s.chip.workTags (s.chip.dieBasin n) e (s.chip.rdn pl 64) = some ws
    ∧ s.chip.temperOk n (s.chip.dieBasin n) (s.chip.rdn pl 64) ws = true
    ∧ s.chip.stepRes (s.chip.dieBasin n) e = .wait :=
  ⟨0, 0, cmd0, [], .hbm 0x200000, [], mk ((withBytes die0 0x200000 (leBytes 64 sgd0)).setTu 0 { q := [cmd0] }), by decide +kernel⟩

theorem witness_TemperCommandsRun_3_side : ∃ (n : Fin 26) (o : Nat) (st : Nat) (e : ECmd) (rest : List ECmd) (s : State),
    s.chip.pwr.on = true
    ∧ s.chip.get (FGE_TEMPER_STS.STATE n) ≠ 2
    ∧ (s.chip.tu n).run = none
    ∧ (s.chip.tu n).resume = []
    ∧ s.chip.dieBasin n < 6
    ∧ (s.chip.bs (s.chip.dieBasin n)).quenched = false
    ∧ ((s.chip.tu n).order n).find? (fun m => !(s.chip.tu m).q.isEmpty) = some o
    ∧ o < 26
    ∧ (s.chip.tu o).q = e :: rest
    ∧ (((st = 2 ∧ (e.side = true ∨ s.chip.reach (s.chip.dieBasin n) e.desc 64 true = none))
    ∨ (e.side = false ∧ ∃ pl, s.chip.reach (s.chip.dieBasin n) e.desc 64 true = some pl ∧
      ((st = 2 ∧ s.chip.workTags (s.chip.dieBasin n) e (s.chip.rdn pl 64) = none)
        ∨ ∃ ws, s.chip.workTags (s.chip.dieBasin n) e (s.chip.rdn pl 64) = some ws ∧
          ((st = 2 ∧ s.chip.temperOk n (s.chip.dieBasin n) (s.chip.rdn pl 64) ws = false)
            ∨ (s.chip.temperOk n (s.chip.dieBasin n) (s.chip.rdn pl 64) ws = true ∧
              ((st = 2 ∧ s.chip.stepRes (s.chip.dieBasin n) e = .refused) ∨ (st = 1 ∧ s.chip.stepRes (s.chip.dieBasin n) e = .skipped)
                ∨ (st = 4 ∧ (∃ t0 ex, s.chip.stepRes (s.chip.dieBasin n) e = .run t0 ex) ∧ tdForm (s.chip.rdn pl 64) = true
                  ∧ ¬ ((List.range (tdCount (s.chip.rdn pl 64))).map (fun i => ((s.chip.reach (s.chip.dieBasin n)
                    (bits (s.chip.rdn pl 64) 448 48 + 8 * i) 8 true).map (fun p => s.chip.rdn p 8)).getD 0)).Nodup)))))))) :=
  ⟨0, 0, 2, { cmd0 with side := true }, [], mk (die0.setTu 0 { q := [{ cmd0 with side := true }] }), by
    exact ⟨by decide +kernel, by decide +kernel, by decide +kernel, by decide +kernel, by decide +kernel, by decide +kernel, by decide +kernel, by decide +kernel, by decide +kernel, Or.inl (by decide +kernel)⟩⟩

theorem witness_TemperCommandsRun_3_skipped : ∃ (n : Fin 26) (o : Nat) (st : Nat) (e : ECmd) (rest : List ECmd) (s : State),
    s.chip.pwr.on = true
    ∧ s.chip.get (FGE_TEMPER_STS.STATE n) ≠ 2
    ∧ (s.chip.tu n).run = none
    ∧ (s.chip.tu n).resume = []
    ∧ s.chip.dieBasin n < 6
    ∧ (s.chip.bs (s.chip.dieBasin n)).quenched = false
    ∧ ((s.chip.tu n).order n).find? (fun m => !(s.chip.tu m).q.isEmpty) = some o
    ∧ o < 26
    ∧ (s.chip.tu o).q = e :: rest
    ∧ (((st = 2 ∧ (e.side = true ∨ s.chip.reach (s.chip.dieBasin n) e.desc 64 true = none))
    ∨ (e.side = false ∧ ∃ pl, s.chip.reach (s.chip.dieBasin n) e.desc 64 true = some pl ∧
      ((st = 2 ∧ s.chip.workTags (s.chip.dieBasin n) e (s.chip.rdn pl 64) = none)
        ∨ ∃ ws, s.chip.workTags (s.chip.dieBasin n) e (s.chip.rdn pl 64) = some ws ∧
          ((st = 2 ∧ s.chip.temperOk n (s.chip.dieBasin n) (s.chip.rdn pl 64) ws = false)
            ∨ (s.chip.temperOk n (s.chip.dieBasin n) (s.chip.rdn pl 64) ws = true ∧
              ((st = 2 ∧ s.chip.stepRes (s.chip.dieBasin n) e = .refused) ∨ (st = 1 ∧ s.chip.stepRes (s.chip.dieBasin n) e = .skipped)
                ∨ (st = 4 ∧ (∃ t0 ex, s.chip.stepRes (s.chip.dieBasin n) e = .run t0 ex) ∧ tdForm (s.chip.rdn pl 64) = true
                  ∧ ¬ ((List.range (tdCount (s.chip.rdn pl 64))).map (fun i => ((s.chip.reach (s.chip.dieBasin n)
                    (bits (s.chip.rdn pl 64) 448 48 + 8 * i) 8 true).map (fun p => s.chip.rdn p 8)).getD 0)).Nodup)))))))) :=
  ⟨0, 0, 1, cmd0, [], mk (((withBytes die0 0x200000 (leBytes 64 sgd0)).setTu 0 { q := [cmd0] }).setBs 0 { resolved := [⟨0, false, 1, 0⟩] } |>.setWord (BSN_STEP 0) 1), by
    exact ⟨by decide +kernel, by decide +kernel, by decide +kernel, by decide +kernel, by decide +kernel, by decide +kernel, by decide +kernel, by decide +kernel, by decide +kernel, Or.inr ⟨by decide +kernel, .hbm 0x200000, by decide +kernel, Or.inr ⟨[], by decide +kernel, Or.inr ⟨by decide +kernel, Or.inr (Or.inl (by decide +kernel))⟩⟩⟩⟩⟩

theorem witness_TemperCommandsRun_3_index : ∃ (n : Fin 26) (o : Nat) (st : Nat) (e : ECmd) (rest : List ECmd) (s : State),
    s.chip.pwr.on = true
    ∧ s.chip.get (FGE_TEMPER_STS.STATE n) ≠ 2
    ∧ (s.chip.tu n).run = none
    ∧ (s.chip.tu n).resume = []
    ∧ s.chip.dieBasin n < 6
    ∧ (s.chip.bs (s.chip.dieBasin n)).quenched = false
    ∧ ((s.chip.tu n).order n).find? (fun m => !(s.chip.tu m).q.isEmpty) = some o
    ∧ o < 26
    ∧ (s.chip.tu o).q = e :: rest
    ∧ (((st = 2 ∧ (e.side = true ∨ s.chip.reach (s.chip.dieBasin n) e.desc 64 true = none))
    ∨ (e.side = false ∧ ∃ pl, s.chip.reach (s.chip.dieBasin n) e.desc 64 true = some pl ∧
      ((st = 2 ∧ s.chip.workTags (s.chip.dieBasin n) e (s.chip.rdn pl 64) = none)
        ∨ ∃ ws, s.chip.workTags (s.chip.dieBasin n) e (s.chip.rdn pl 64) = some ws ∧
          ((st = 2 ∧ s.chip.temperOk n (s.chip.dieBasin n) (s.chip.rdn pl 64) ws = false)
            ∨ (s.chip.temperOk n (s.chip.dieBasin n) (s.chip.rdn pl 64) ws = true ∧
              ((st = 2 ∧ s.chip.stepRes (s.chip.dieBasin n) e = .refused) ∨ (st = 1 ∧ s.chip.stepRes (s.chip.dieBasin n) e = .skipped)
                ∨ (st = 4 ∧ (∃ t0 ex, s.chip.stepRes (s.chip.dieBasin n) e = .run t0 ex) ∧ tdForm (s.chip.rdn pl 64) = true
                  ∧ ¬ ((List.range (tdCount (s.chip.rdn pl 64))).map (fun i => ((s.chip.reach (s.chip.dieBasin n)
                    (bits (s.chip.rdn pl 64) 448 48 + 8 * i) 8 true).map (fun p => s.chip.rdn p 8)).getD 0)).Nodup)))))))) :=
  ⟨0, 0, 4, cmd0, [], mk (((withBytes die0 0x200000 (leBytes 64 (2 ^ 9 + 2 * 2 ^ 16 + 0x210000 * 2 ^ 64 + 0x220000 * 2 ^ 128 + 0x230000 * 2 ^ 320 + 2 ^ 416 + 0x250000 * 2 ^ 448))).setTu 0 { q := [cmd0] }).setBs 0 { resolved := [⟨0, true, 1, 0⟩] } |>.setWord (BSN_STEP 0) 1), by
    exact ⟨by decide +kernel, by decide +kernel, by decide +kernel, by decide +kernel, by decide +kernel, by decide +kernel, by decide +kernel, by decide +kernel, by decide +kernel, Or.inr ⟨by decide +kernel, .hbm 0x200000, by decide +kernel, Or.inr ⟨[], by decide +kernel, Or.inr ⟨by decide +kernel, Or.inr (Or.inr ⟨rfl, ⟨1, 0, by decide +kernel⟩, by decide +kernel, by decide +kernel⟩)⟩⟩⟩⟩⟩

theorem witness_TemperCommandsRun_4 : ∃ (n : Fin 26) (r : TRun) (r2 : TRun) (c : Chip) (s : State),
    s.chip.pwr.on = true
    ∧ (s.chip.tu n).run = some r
    ∧ s.chip.get (FGE_TEMPER_STS.STATE n) ≠ 2
    ∧ r.chunk < r.chunks
    ∧ s.chip.dieBasin n < 6
    ∧ (r.pieces r.chunk).foldl (fun (x : Option (Chip × TRun)) p => x.bind (fun y => y.1.temperPiece (s.chip.dieBasin n) y.2 p.1 p.2.1 p.2.2))
    (some (s.chip, r)) = some (c, r2)
    ∧ r2.works.all (fun w => w.2.trap.isNone) = true :=
  ⟨0, trun0 0, ((((trun0 0).pieces 0).foldl (fun (x : Option (Chip × TRun)) p => x.bind (fun y => y.1.temperPiece 0 y.2 p.1 p.2.1 p.2.2)) (some (die0.setTu 0 { run := some (trun0 0) }, trun0 0))).getD (die0, trun0 0)).2, ((((trun0 0).pieces 0).foldl (fun (x : Option (Chip × TRun)) p => x.bind (fun y => y.1.temperPiece 0 y.2 p.1 p.2.1 p.2.2)) (some (die0.setTu 0 { run := some (trun0 0) }, trun0 0))).getD (die0, trun0 0)).1, mk (die0.setTu 0 { run := some (trun0 0) }), by decide +kernel⟩

theorem witness_TemperCommandsRun_5 : ∃ (n : Fin 26) (r : TRun) (s : State),
    s.chip.pwr.on = true
    ∧ (s.chip.tu n).run = some r
    ∧ s.chip.get (FGE_TEMPER_STS.STATE n) ≠ 2
    ∧ r.chunk < r.chunks
    ∧ s.chip.dieBasin n < 6
    ∧ (r.pieces r.chunk).foldl (fun (x : Option (Chip × TRun)) p => x.bind (fun y => y.1.temperPiece (s.chip.dieBasin n) y.2 p.1 p.2.1 p.2.2))
    (some (s.chip, r)) = none :=
  ⟨0, trun0 0, mk ({ die0 with poison := [0x8800] }.setTu 0 { run := some (trun0 0) }), by decide +kernel⟩

theorem witness_TemperCommandsRun_6 : ∃ (n : Fin 26) (r : TRun) (pm : Place) (pg : Place) (s : State),
    s.chip.pwr.on = true
    ∧ (s.chip.tu n).run = some r
    ∧ s.chip.get (FGE_TEMPER_STS.STATE n) ≠ 2
    ∧ r.chunk < r.chunks
    ∧ s.chip.dieBasin n < 6
    ∧ tdForm r.d = false
    ∧ tdProg r.d = 0
    ∧ r.works = []
    ∧ s.chip.arrPlace (s.chip.dieBasin n) (bits r.d 64 48 + 5 * (4096 * r.chunk)) (5 * min 4096 (tdCount r.d - 4096 * r.chunk)) false true = some pm
    ∧ s.chip.arrPlace (s.chip.dieBasin n) (bits r.d 128 48 + (tdGrad r.d).bytes * (4096 * r.chunk))
    ((tdGrad r.d).bytes * min 4096 (tdCount r.d - 4096 * r.chunk)) false false = some pg
    ∧ ((∀ c off, pm = .cis c off → (s.chip.cl c).tags = [])) :=
  ⟨0, trun0 0, .hbm 0x210000, .hbm 0x220000, mk (die0.setTu 0 { run := some (trun0 0) }), by
    repeat' apply And.intro
    all_goals first | decide +kernel | rfl | (intro k h; cases h <;> decide +kernel) | (intro k c h; cases h <;> decide +kernel) | (left; rfl) | (left; decide +kernel) | (right; decide +kernel) | (right; left; decide +kernel) | (right; right; decide +kernel)⟩

theorem witness_TemperCommandsRun_7 : ∃ (n : Fin 26) (r : TRun) (s : State),
    s.chip.pwr.on = true
    ∧ (s.chip.tu n).run = some r
    ∧ s.chip.get (FGE_TEMPER_STS.STATE n) ≠ 2
    ∧ r.chunks ≤ r.chunk :=
  ⟨0, trun0 1, mk (die0.setTu 0 { run := some (trun0 1) }), by decide +kernel⟩

theorem witness_TemperCommandsRun_8 : ∃ (n : Fin 26) (r : TRun) (kc : Nat) (j : Nat) (p : Place) (s : State),
    s.chip.pwr.on = true
    ∧ (s.chip.tu n).run = some r
    ∧ s.chip.get (FGE_TEMPER_STS.STATE n) ≠ 2
    ∧ r.chunks ≤ r.chunk
    ∧ r.works = []
    ∧ r.cmd.src = .seq kc j
    ∧ r.cmd.sig = none
    ∧ s.chip.reach (s.chip.dieBasin n) r.cmd.comp 16 true = some p
    ∧ inLatches p 16 = false
    ∧ s.chip.partPoisonAt p 16 = false
    ∧ ((∀ c off, p = .cis c off → (s.chip.cl c).tags = [])) :=
  ⟨0, trun0 1, 0, 0, .hbm 0x201000, mk (die0.setTu 0 { run := some (trun0 1) }), by
    repeat' apply And.intro
    all_goals first | decide +kernel | rfl | (intro k h; cases h <;> decide +kernel) | (intro k c h; cases h <;> decide +kernel) | (left; rfl) | (left; decide +kernel) | (right; decide +kernel) | (right; left; decide +kernel) | (right; right; decide +kernel)⟩

theorem witness_TemperCommandsRun_9 : ∃ (n : Fin 26) (m : Nat) (s : State),
    s.chip.pwr.on = true
    ∧ s.chip.get (FGE_TEMPER_STS.STATE n) ≠ 2
    ∧ s.chip.dieBasin n < 6
    ∧ s.chip.nextTemper (s.chip.dieBasin n) (s.chip.dieSlot n) = some m
    ∧ m ≠ n :=
  ⟨0, 1, mk (die0.placeDie 0 1 1 1), by decide +kernel⟩

theorem witness_TemperCommandsRun_10 : ∃ (n : Fin 26) (s : State),
    s.chip.pwr.on = true
    ∧ s.chip.get (FGE_TEMPER_STS.STATE n) ≠ 2
    ∧ s.chip.dieBasin n < 6
    ∧ s.chip.nextTemper (s.chip.dieBasin n) (s.chip.dieSlot n) = none :=
  ⟨0, mk (die0.put (BSN_DIE_MAP.SLOTS 0) 1), by decide +kernel⟩

theorem witness_LadleCommandsRun_0 : ∃ (n : Fin 26) (upd : Bool) (e : ECmd) (rest : List ECmd) (pl : Place) (pt : Place) (ex : Int) (s : State),
    s.chip.pwr.on = true
    ∧ (s.chip.lu n).run upd = none
    ∧ (if upd then (s.chip.lu n).u else (s.chip.lu n).g) = e :: rest
    ∧ s.chip.dieBasin n < 6
    ∧ (s.chip.bs (s.chip.dieBasin n)).quenched = false
    ∧ s.chip.reach (s.chip.dieBasin n) e.desc 64 true = some pl
    ∧ s.chip.reach (s.chip.dieBasin n) (bits (s.chip.rdn pl 64) 64 48) 64 true = some pt
    ∧ ladleOk (s.chip.rdn pl 64) (s.chip.rdn pt 64) e.side = true
    ∧ (((ldOp (s.chip.rdn pl 64) ≠ 2 ∧ ex = 0) ∨ (ldOp (s.chip.rdn pl 64) = 2 ∧ ∃ t0, s.chip.stepRes (s.chip.dieBasin n) e = .run t0 ex))) :=
  ⟨0, false, cmd0, [], .hbm 0x200000, .hbm 0x240000, 0, mk ((withBytes die0 0x200000 (leBytes 64 (2 ^ 16 + 2 ^ 33 + 0x240000 * 2 ^ 64 + 0x250000 * 2 ^ 128))).setLu 0 { g := [cmd0] }), by
    repeat' apply And.intro
    all_goals first | decide +kernel | rfl | (intro k h; cases h <;> decide +kernel) | (intro k c h; cases h <;> decide +kernel) | (left; rfl) | (left; decide +kernel) | (right; decide +kernel) | (right; left; decide +kernel) | (right; right; decide +kernel) | exact Or.inr ⟨_, by decide +kernel⟩ | exact ⟨_, by decide +kernel⟩⟩

theorem witness_LadleCommandsRun_1 : ∃ (n : Fin 26) (upd : Bool) (e : ECmd) (rest : List ECmd) (pl : Place) (pt : Place) (s : State),
    s.chip.pwr.on = true
    ∧ (s.chip.lu n).run upd = none
    ∧ (if upd then (s.chip.lu n).u else (s.chip.lu n).g) = e :: rest
    ∧ s.chip.dieBasin n < 6
    ∧ (s.chip.bs (s.chip.dieBasin n)).quenched = false
    ∧ s.chip.reach (s.chip.dieBasin n) e.desc 64 true = some pl
    ∧ s.chip.reach (s.chip.dieBasin n) (bits (s.chip.rdn pl 64) 64 48) 64 true = some pt
    ∧ ladleOk (s.chip.rdn pl 64) (s.chip.rdn pt 64) e.side = true
    ∧ ldOp (s.chip.rdn pl 64) = 2
    ∧ s.chip.stepRes (s.chip.dieBasin n) e = .wait :=
  ⟨0, true, cmd0, [], .hbm 0x200000, .hbm 0x240000, mk ((withBytes die0 0x200000 (leBytes 64 (2 + 2 ^ 16 + 2 ^ 33 + 0x240000 * 2 ^ 64 + 0x250000 * 2 ^ 128))).setLu 0 { u := [cmd0] }), by decide +kernel⟩

theorem witness_LadleCommandsRun_2_address : ∃ (n : Fin 26) (upd : Bool) (st : Nat) (e : ECmd) (rest : List ECmd) (s : State),
    s.chip.pwr.on = true
    ∧ (s.chip.lu n).run upd = none
    ∧ (if upd then (s.chip.lu n).u else (s.chip.lu n).g) = e :: rest
    ∧ s.chip.dieBasin n < 6
    ∧ (s.chip.bs (s.chip.dieBasin n)).quenched = false
    ∧ (((st = 2 ∧ s.chip.reach (s.chip.dieBasin n) e.desc 64 true = none)
    ∨ ∃ pl, s.chip.reach (s.chip.dieBasin n) e.desc 64 true = some pl ∧
      ((st = 2 ∧ s.chip.reach (s.chip.dieBasin n) (bits (s.chip.rdn pl 64) 64 48) 64 true = none)
        ∨ ∃ pt, s.chip.reach (s.chip.dieBasin n) (bits (s.chip.rdn pl 64) 64 48) 64 true = some pt ∧
          ((st = 2 ∧ ladleOk (s.chip.rdn pl 64) (s.chip.rdn pt 64) e.side = false)
            ∨ (ladleOk (s.chip.rdn pl 64) (s.chip.rdn pt 64) e.side = true ∧ ldOp (s.chip.rdn pl 64) = 2 ∧
              ((st = 2 ∧ s.chip.stepRes (s.chip.dieBasin n) e = .refused) ∨ (st = 1 ∧ s.chip.stepRes (s.chip.dieBasin n) e = .skipped))))))) :=
  ⟨0, false, 2, { cmd0 with desc := 0xFFFFFFFFFF00 }, [], mk (die0.setLu 0 { g := [{ cmd0 with desc := 0xFFFFFFFFFF00 }] }), by
    exact ⟨by decide +kernel, by decide +kernel, by decide +kernel, by decide +kernel, by decide +kernel, Or.inl (by decide +kernel)⟩⟩

theorem witness_LadleCommandsRun_2_skipped : ∃ (n : Fin 26) (upd : Bool) (st : Nat) (e : ECmd) (rest : List ECmd) (s : State),
    s.chip.pwr.on = true
    ∧ (s.chip.lu n).run upd = none
    ∧ (if upd then (s.chip.lu n).u else (s.chip.lu n).g) = e :: rest
    ∧ s.chip.dieBasin n < 6
    ∧ (s.chip.bs (s.chip.dieBasin n)).quenched = false
    ∧ (((st = 2 ∧ s.chip.reach (s.chip.dieBasin n) e.desc 64 true = none)
    ∨ ∃ pl, s.chip.reach (s.chip.dieBasin n) e.desc 64 true = some pl ∧
      ((st = 2 ∧ s.chip.reach (s.chip.dieBasin n) (bits (s.chip.rdn pl 64) 64 48) 64 true = none)
        ∨ ∃ pt, s.chip.reach (s.chip.dieBasin n) (bits (s.chip.rdn pl 64) 64 48) 64 true = some pt ∧
          ((st = 2 ∧ ladleOk (s.chip.rdn pl 64) (s.chip.rdn pt 64) e.side = false)
            ∨ (ladleOk (s.chip.rdn pl 64) (s.chip.rdn pt 64) e.side = true ∧ ldOp (s.chip.rdn pl 64) = 2 ∧
              ((st = 2 ∧ s.chip.stepRes (s.chip.dieBasin n) e = .refused) ∨ (st = 1 ∧ s.chip.stepRes (s.chip.dieBasin n) e = .skipped))))))) :=
  ⟨0, true, 1, cmd0, [], mk (((withBytes die0 0x200000 (leBytes 64 (2 + 2 ^ 16 + 2 ^ 33 + 0x240000 * 2 ^ 64 + 0x250000 * 2 ^ 128))).setLu 0 { u := [cmd0] }).setBs 0 { resolved := [⟨0, false, 1, 0⟩] } |>.setWord (BSN_STEP 0) 1), by
    exact ⟨by decide +kernel, by decide +kernel, by decide +kernel, by decide +kernel, by decide +kernel, Or.inr ⟨.hbm 0x200000, by decide +kernel, Or.inr ⟨.hbm 0x240000, by decide +kernel, Or.inr ⟨by decide +kernel, by decide +kernel, Or.inr (by decide +kernel)⟩⟩⟩⟩⟩

theorem witness_LadleCommandsRun_3 : ∃ (op : Nat) (o : Op) (n : Nat) (id : Nat) (x : Nat) (upd : Bool) (r : LRun) (s : State),
    s.chip.pwr.on = true
    ∧ s.chip.ops.find? (fun y => y.id = op) = some o
    ∧ o.kind = .get
    ∧ o.src = .ladle n id x
    ∧ n < 26
    ∧ s.chip.ladleOf n id = some (upd, r) :=
  ⟨3, { op0 with kind := .get, src := .ladle 0 7 0 }, 0, 7, 0, false, lrun0 0 [(0, .wait 3)], mk ({ die0 with ops := [{ op0 with kind := .get, src := .ladle 0 7 0 }] }.setLu 0 { runG := some (lrun0 0 [(0, .wait 3)]) }), by decide +kernel⟩

theorem witness_LadleCommandsRun_4 : ∃ (n : Fin 26) (upd : Bool) (r : LRun) (idx : List Nat) (wts : List Nat) (c : Chip) (empty : Nat) (clamp : Nat) (s : State),
    s.chip.pwr.on = true
    ∧ (s.chip.lu n).run upd = some r
    ∧ r.fault = false
    ∧ idx = (s.chip.ldIdx (s.chip.dieBasin n) r.d).getD []
    ∧ wts = (s.chip.ldWts (s.chip.dieBasin n) r.d).getD []
    ∧ (bit r.d 6 = true → idx.all (fun x => Map.find r.rows x != some .bad && Map.find r.rows x != some .failed) = true)
    ∧ idx.all (fun x => match Map.find r.rows x with
    | none => false
    | some (.wait _) => false
    | _ => true) = true
    ∧ s.chip.ops.all (fun o => match o.src with
    | .ladle m id _ => !(m == (n : Nat) && id == r.cmd.id)
    | _ => true) = true
    ∧ (if ldOp r.d = 0 then s.chip.gatherOut (s.chip.dieBasin n) r idx wts else some (s.chip, 0, 0)) = some (c, empty, clamp) :=
  ⟨0, false, lrun0 1 [(0, .got [])], [0], [0x3F800000], die0.setLu 0 { runG := some (lrun0 1 [(0, .got [])]) }, 0, 0, mk (die0.setLu 0 { runG := some (lrun0 1 [(0, .got [])]) }), by decide +kernel⟩

theorem witness_LadleCommandsRun_5 : ∃ (n : Fin 26) (upd : Bool) (r : LRun) (s : State),
    s.chip.pwr.on = true
    ∧ (s.chip.lu n).run upd = some r
    ∧ ((r.fault = true ∨ (bit r.d 6 = true ∧ ((s.chip.ldIdx (s.chip.dieBasin n) r.d).getD []).any (fun x =>
    Map.find r.rows x == some .bad || Map.find r.rows x == some .failed) = true))) :=
  ⟨0, false, { lrun0 0 [] with fault := true }, mk (die0.setLu 0 { runG := some { lrun0 0 [] with fault := true } }), by decide +kernel⟩

theorem witness_HubsHandOver_0_busy : ∃ (rep : Bool) (s : State),
    s.chip.pwr.on = true
    ∧ s.chip.on HUB_ROLE.STANDBY_OK = true
    ∧ s.chip.get HUB_ROLE.PRIMARY ∉ s.chip.hubDead
    ∧ ((s.sec.pf.run.isSome = true ∧ s.sec.sb.run.isSome = true)) :=
  ⟨false, mk (on0.put HUB_ROLE.STANDBY_OK 1) { nor := {}, pf := { run := some { op := 1, tag := 0, result := 0 } }, sb := { run := some { op := 2, tag := 5, result := 0 } } }, by decide +kernel⟩

theorem witness_HubsHandOver_1_busy : ∃ (ag : Agent) (s : State),
    ag.pfSide = true
    ∧ s.chip.hears ag 0 = true
    ∧ s.chip.on HUB_ROLE.STANDBY_OK = true
    ∧ ((s.sec.pf.run.isSome = true ∧ s.sec.sb.run.isSome = true)) :=
  ⟨.pf, mk (on0.put HUB_ROLE.STANDBY_OK 1) { nor := {}, pf := { run := some { op := 1, tag := 0, result := 0 } }, sb := { run := some { op := 2, tag := 5, result := 0 } } }, by decide +kernel⟩

theorem witness_PowerAndTemperatureComplete_7_again : ∃ (n : Fin 44) (v : Nat) (sl : Int) (s : State),
    s.chip.pwr.on = true
    ∧ (n : Nat) < 32
    ∧ 960 ≤ v
    ∧ 0 ∈ (s.chip.dieP n).hot
    ∧ ((s.chip.lastTrip = some 0 ∧ s.chip.ticks < 0 + 20000000)) :=
  ⟨25, 960, 0, mk { on0 with dies := Map.put {} [] 25 { hot := [0] }, lastTrip := some 0 }, by decide +kernel⟩

theorem witness_LinksComeAndGo_2_same : ∃ (p : Fin 8) (rtt : Nat) (bers : List (Nat × Nat)) (losses : List Nat) (map : List Nat) (parkedOk : List Nat) (peerOk : Bool) (s : State),
    s.chip.pwr.on = true
    ∧ s.chip.portState p = 2
    ∧ s.chip.modes.native = true
    ∧ (s.chip.port p).startup = false
    ∧ (s.chip.port p).peerStart = false
    ∧ (s.chip.port p).peerFec = (s.chip.pst p FNT_PORT_CTL.FEC == 1)
    ∧ ((∀ e ∈ bers, berBelow (s.chip.pst p FNT_PORT_CTL.FEC) e.2 = true))
    ∧ (s.chip.port p).due = []
    ∧ ((s.chip.port p).half = false ∨ (parkedOk = [] ∧ ((List.range 18).filter (fun w => s.chip.lit p w)).length < 16))
    ∧ (((∀ l < 16, s.chip.waveOf false p l = map.getD l 31) ∧ parkedOk = [])) :=
  ⟨7, 100, [(0, 0)], [], List.range 16, [], false, mk (((List.range 16).foldl (fun c l => c.put (mapField false 7 l) l) (on0.pput 7 FNT_PORT_STS.STATE 2)).setPort 7 { peerFec := on0.pst 7 FNT_PORT_CTL.FEC == 1 }), by
    exact ⟨by decide +kernel, by decide +kernel, by decide +kernel, by decide +kernel, by decide +kernel, by decide +kernel, by decide +kernel, by decide +kernel, Or.inl (by decide +kernel), by decide +kernel, rfl⟩⟩

theorem witness_ArraysLoadPassAndDrain_4_filling : ∃ (kc : Fin 104) (waited : Nat) (confl : Nat) (k : Kern) (n : Nat) (w : Nat) (f : OpFmt) (d : Nat) (r : Nat) (swap : Bool) (cls : Nat) (bn : Nat) (rest : List ACmd) (x : Tile) (sc : List (List Nat)) (dat : List (List Nat)) (osc : List (List Nat)) (s : State),
    s.chip.pwr.on = true
    ∧ s.chip.arrLive kc = some k
    ∧ w < 2
    ∧ (s.chip.cl kc).arr.q = .pass n w f d r swap cls bn :: rest
    ∧ (if swap then (s.chip.cl kc).arr.shadow else (s.chip.cl kc).arr.active) = some x
    ∧ ((s.chip.cl kc).arr.set w).st ≠ .draining
    ∧ s.chip.on (CLS_ARRAY_STS.STAGING (kc / 4) (kc % 4)) = false
    ∧ dRowsOk d r n false = true
    ∧ s.chip.tileScales k.basin x.fmt cls x.row0 x.crows x.ncol = some sc
    ∧ s.chip.passData k.basin kc f d r n = some (dat, osc)
    ∧ (((s.chip.cl kc).arr.set w).st ≠ .empty) :=
  ⟨0, 0, 0, kern0, 1, 0, fmt0, 0, 0, false, 8, 64, [], tile0, [], [List.replicate 64 0], [[]], mk (arr0 { q := [.pass 1 0 fmt0 0 0 false 8 64], active := some tile0, set0 := { st := .filling, rows := [[{ v := 1 }]] } }), by decide +kernel⟩

theorem witness_KernelsLaunchAndEnd_2_whole : ∃ (b : Fin 6) (q : Fin 64) (p : Nat) (s : State),
    s.AtHead b q 1 p
    ∧ ((s.chip.launchRes b q (decLaunch p) = .hold true ∧ s.chip.get (BSN_Q_STS.STATE b q) ≠ 5)) :=
  ⟨0, 0, 1 + 2 ^ 128 + 2 ^ 148, mk (ring { die0 with dies := Map.put {} [] 0 { pterm := 10 } } (1 + 2 ^ 128 + 2 ^ 148)), by decide +kernel⟩

theorem witness_LadleCommandsRun_4_record : ∃ (n : Fin 26) (upd : Bool) (r : LRun) (idx : List Nat) (wts : List Nat) (c : Chip) (empty : Nat) (clamp : Nat) (s : State),
    s.chip.pwr.on = true
    ∧ (s.chip.lu n).run upd = some r
    ∧ r.fault = false
    ∧ idx = (s.chip.ldIdx (s.chip.dieBasin n) r.d).getD []
    ∧ wts = (s.chip.ldWts (s.chip.dieBasin n) r.d).getD []
    ∧ (bit r.d 6 = true → idx.all (fun x => Map.find r.rows x != some .bad && Map.find r.rows x != some .failed) = true)
    ∧ idx.all (fun x => match Map.find r.rows x with
    | none => false
    | some (.wait _) => false
    | _ => true) = true
    ∧ s.chip.ops.all (fun o => match o.src with
    | .ladle m id _ => !(m == (n : Nat) && id == r.cmd.id)
    | _ => true) = true
    ∧ (if ldOp r.d = 0 then s.chip.gatherOut (s.chip.dieBasin n) r idx wts else some (s.chip, 0, 0)) = some (c, empty, clamp)
    ∧ ((r.cmd.sig = none ∧ r.cmd.src = .seq 0 0 ∧ s.chip.reach (s.chip.dieBasin n) r.cmd.comp 16 true = none)) :=
  ⟨0, false, { lrun0 1 [(0, .got [])] with cmd := { cmd0 with comp := 0xFFFFFFFFFF00 } }, [0], [0x3F800000], die0.setLu 0 { runG := some { lrun0 1 [(0, .got [])] with cmd := { cmd0 with comp := 0xFFFFFFFFFF00 } } }, 0, 0, mk (die0.setLu 0 { runG := some { lrun0 1 [(0, .got [])] with cmd := { cmd0 with comp := 0xFFFFFFFFFF00 } } }), by decide +kernel⟩

end Sys2Proof.Tests
end

section
/-! Family 01, package and basins: the die map's slots and the cisterns by role (R29, R35, R36). -/
namespace Sys2Proof.Machine

/-! ### The die map's slots (R29) -/

/-- The die of a slot of the map is what the slot's field reads. -/
theorem Chip.slotDie_eq_get (c : Chip) (b : Nat) {sl : Nat} (hsl : sl < 5) : c.slotDie b sl = c.get (slotField b sl) :=
  if_pos hsl

/-- The status registers of the dies lie outside every basin's block. -/
theorem dieMap_key_ne_forgeStatus (b : Nat) {n : Nat} (hn : n < 26) : (BSN_DIE_MAP b).key ≠ (HUB_FORGE_STATUS n).key := by
  simp only [BSN_DIE_MAP, bsnBase, HUB_FORGE_STATUS]
  omega

/-- A die that takes a slot is what the map then lists there. -/
theorem Chip.slotDie_seatDie_same (c : Chip) (b st : Nat) {sl n : Nat} (hsl : sl < 5) (hn : n < 26) :
    (c.seatDie b sl n st).slotDie b sl = n := by
  have hstatus (d : Chip) (lo len v : Nat) :
      (d.put ⟨HUB_FORGE_STATUS n, lo, len⟩ v).get (slotField b sl) = d.get (slotField b sl) :=
    Chip.get_put_ne d _ _ v (dieMap_key_ne_forgeStatus b hn)
  have hfield : (slotField b sl).lo + (slotField b sl).len ≤ 64 := by
    simp only [slotField]
    omega
  calc (c.seatDie b sl n st).slotDie b sl
      = (c.seatDie b sl n st).get (slotField b sl) := Chip.slotDie_eq_get _ b hsl
    _ = (c.put (slotField b sl) n).get (slotField b sl) := by
        simp only [Chip.seatDie, HUB_FORGE_STATUS.BASIN, HUB_FORGE_STATUS.SLOT, HUB_FORGE_STATUS.HOPS,
          HUB_FORGE_STATUS.STATE, hstatus]
    _ = n % 2 ^ 5 := Chip.get_put_same c (slotField b sl) n hfield
    _ = n := Nat.mod_eq_of_lt (by omega)

/-- The map's generation number changes no slot. -/
theorem Chip.slotDie_roleGen (c : Chip) (b old : Nat) {sl : Nat} (hsl : sl < 5) :
    (c.roleGen b old).slotDie b sl = c.slotDie b sl := by
  have hbelow : (slotField b sl).lo + (slotField b sl).len ≤ (BSN_DIE_MAP.GEN b).lo := by
    simp only [slotField, BSN_DIE_MAP.GEN]
    omega
  rw [Chip.slotDie_eq_get _ b hsl, Chip.slotDie_eq_get c b hsl]
  unfold Chip.roleGen
  split
  · rfl
  · exact Chip.get_put_disj c (BSN_DIE_MAP.GEN b) (slotField b sl) _ rfl (show 32 + 16 ≤ 64 by decide) (.inl hbelow)

/-- A slot that passes to a die is held by that die. -/
theorem Chip.slotDie_placeDie_same (c : Chip) (b st : Nat) {sl n : Nat} (hsl : sl < 5) (hn : n < 26) :
    (c.placeDie b sl n st).slotDie b sl = n :=
  (Chip.slotDie_roleGen _ b _ hsl).trans (c.slotDie_seatDie_same b st hsl hn)

/-! ### Cisterns by role (R36) -/

/-- The place of an address of the role window, `o` bytes from its base: the cistern of the role that `o` names (R36). -/
theorem Chip.place_roleWindow (c : Chip) {o : Nat} (ho : o < 0x180000000) :
    c.place (0x20000000000 + o) =
      (c.roleCl (o / 0x40000000) (o / 0x8000000 % 8) (o / 0x2000000 % 4)).bind
        (fun kc => if o % 0x2000000 < cisSize then some (.cis kc (o % 0x2000000)) else none) := by
  have hhbm : ¬ 0x20000000000 + o < 0x18000000000 := by omega
  have hwin : 0x20000000000 ≤ 0x20000000000 + o ∧ 0x20000000000 + o < 0x20180000000 := by omega
  simp only [Chip.place, if_neg hhbm, if_pos hwin, Nat.add_sub_cancel_left]
  cases c.roleCl (o / 0x40000000) (o / 0x8000000 % 8) (o / 0x2000000 % 4) <;> rfl

/-- R36's address names the cistern of its role, where the slot holds a die and the offset lies within the 24 MiB. -/
theorem Chip.place_role (c : Chip) {b sl k off : Nat} (hb : b < 6) (hsl : sl < 5) (hk : k < 4) (hoff : off < 0x2000000) :
    c.place (0x20000000000 + b * 0x40000000 + sl * 0x8000000 + k * 0x2000000 + off) =
      if c.slotDie b sl < 26 ∧ off < 0x1800000 then some (.cis (4 * c.slotDie b sl + k) off) else none := by
  obtain ⟨o, ho⟩ : ∃ o, o = b * 0x40000000 + sl * 0x8000000 + k * 0x2000000 + off := ⟨_, rfl⟩
  have hbasin : o / 0x40000000 = b := by omega
  have hslot : o / 0x8000000 % 8 = sl := by omega
  have hcluster : o / 0x2000000 % 4 = k := by omega
  have hoffset : o % 0x2000000 = off := by omega
  have haddr : 0x20000000000 + b * 0x40000000 + sl * 0x8000000 + k * 0x2000000 + off = 0x20000000000 + o := by omega
  rw [haddr, c.place_roleWindow (by omega), hbasin, hslot, hcluster, hoffset]
  by_cases hdie : c.slotDie b sl < 26
  · by_cases hfit : off < 0x1800000 <;> simp [Chip.roleCl, cisSize, hdie, hk, hfit]
  · simp [Chip.roleCl, hdie]

end Sys2Proof.Machine

open Sys2Proof Sys2Proof.Machine

/-- Settles O1: R36's address is taken apart into its role, and the slot of a die map reads the die last placed there. -/
theorem cisternsAreReachedByRole : Obligations.CisternsAreReachedByRole := by
  refine ⟨fun c b sl k off hb hsl hk hoff => c.place_role hb hsl hk hoff, ?_⟩
  intro c b sl n st k off hb hsl hk hoff hn
  have hdie : (c.placeDie b sl n st).slotDie b sl = n := c.slotDie_placeDie_same b st hsl hn
  rw [Chip.place_role _ hb hsl hk (by omega), hdie, if_pos ⟨hn, hoff⟩]

end

section
/-! Family 03, number formats: scale codes and the explicit conversion from FP32 to E8M0 (R66, R70). -/
namespace Sys2Proof.Machine

/-! ### The most significant bit -/

theorem bitLen_le_of_lt {m k : Nat} (h : m < 2 ^ k) : bitLen m ≤ k := by
  unfold bitLen
  split
  next => exact Nat.zero_le k
  next hm => exact (Nat.log2_lt hm).2 h

theorem bitLen_eq_succ_of_bounds {m k : Nat} (hlo : 2 ^ k ≤ m) (hhi : m < 2 ^ (k + 1)) : bitLen m = k + 1 := by
  have hm : m ≠ 0 := (Nat.lt_of_lt_of_le (Nat.two_pow_pos k) hlo).ne'
  rw [bitLen, if_neg hm, (Nat.log2_eq_iff hm).2 ⟨hlo, hhi⟩]

/-! ### What an FP32 code denotes, by its exponent field (R66, R67) -/

/-- The three classes of FP32 codes: an infinity or a NaN, a zero or a subnormal, a normal value. -/
theorem fp32_eq (x : Nat) : fp32 x =
    if bits x 23 8 = 255 then (if bits x 0 23 = 0 then .inf (bit x 31) else .nan)
    else if bits x 23 8 = 0 then .fin (bit x 31) (bits x 0 23) (-149)
    else .fin (bit x 31) (2 ^ 23 + bits x 0 23) ((bits x 23 8 : Int) - 150) := by
  have hexp : -149 + (bits x 23 8 : Int) - 1 = (bits x 23 8 : Int) - 150 := by omega
  by_cases hones : bits x 23 8 = 255
  · by_cases hfrac : bits x 0 23 = 0 <;>
      simp [fp32, decodeVal, Fmt.isInt, Fmt.shape, Fmt.width, Fmt.hasInf, hones, hfrac]
  · simp [fp32, decodeVal, Fmt.isInt, Fmt.shape, Fmt.width, Fmt.hasInf, Fmt.qmin, Fmt.bias, Fmt.fbits, hones, hexp]

theorem fp32_of_normal {x : Nat} (h0 : bits x 23 8 ≠ 0) (h1 : bits x 23 8 ≠ 255) :
    fp32 x = .fin (bit x 31) (2 ^ 23 + bits x 0 23) ((bits x 23 8 : Int) - 150) := by
  rw [fp32_eq, if_neg h1, if_neg h0]

/-! ### E8M0 scale codes (R70) -/

theorem decodeVal_e8m0 {e : Nat} (he : e ≤ 0xFE) : decodeVal .e8m0 false e = .fin false 1 ((e : Int) - 127) := by
  have hmod : e % 256 = e := Nat.mod_eq_of_lt (by omega)
  have hnum : e ≠ 255 := by omega
  simp [decodeVal, Fmt.isInt, hmod, hnum]

theorem decodeVal_e8m0_ff : decodeVal .e8m0 false 0xFF = .nan := rfl

@[simp] theorem Val.nan_mul (v : Val) : Val.nan.mul v = .nan := rfl

@[simp] theorem Val.mul_nan (v : Val) : v.mul .nan = .nan := by cases v <;> rfl

/-- Signedness, overflow mode and rounding have no part in a conversion to E8M0. -/
theorem convert_e8m0_code (signed : Bool) (o : Ovf) (r : Rnd) (v : Val) : (convert .e8m0 signed o r v).code = toE8M0 v := by
  cases v <;> rfl

/-- A magnitude below 2^-126 gives the least code. -/
theorem toE8M0_of_small (neg : Bool) {m : Nat} {e : Int} (h : e + bitLen m ≤ -126) : toE8M0 (.fin neg m e) = 0 := by
  have hexp : ¬ e + (bitLen m : Int) - 1 + 127 > 254 := by omega
  have hnonpos : (e + (bitLen m : Int) - 1 + 127).toNat = 0 := by omega
  simp [toE8M0, hexp, hnonpos]

/-- Within the range of the codes the conversion gives floor(log2 |x|) + 127, unclamped. -/
theorem toE8M0_of_log2 (neg : Bool) {m k c : Nat} {e : Int} (hlo : 2 ^ k ≤ m) (hhi : m < 2 ^ (k + 1))
    (hc : e + k + 127 = c) (hc254 : c ≤ 254) : toE8M0 (.fin neg m e) = c := by
  have hm : m ≠ 0 := (Nat.lt_of_lt_of_le (Nat.two_pow_pos k) hlo).ne'
  have hexp : e + (bitLen m : Int) - 1 + 127 = c := by
    rw [bitLen_eq_succ_of_bounds hlo hhi]
    omega
  have hnonneg : ¬ (c : Int) < 0 := by omega
  have hle : ¬ (c : Int) > 254 := by omega
  simp only [toE8M0, if_neg hm, hexp, if_neg hnonneg, if_neg hle, Int.toNat_natCast]

/-! ### FP32 codes converted to E8M0 (R70) -/

theorem toE8M0_fp32_of_exp_zero {x : Nat} (h : bits x 23 8 = 0) : toE8M0 (fp32 x) = 0x00 := by
  have hlen : bitLen (bits x 0 23) ≤ 23 := bitLen_le_of_lt (bits_lt x 0 23)
  rw [fp32_eq, if_neg (by omega), if_pos h, toE8M0_of_small _ (by omega)]

theorem toE8M0_fp32_of_exp_ones {x : Nat} (h : bits x 23 8 = 255) : toE8M0 (fp32 x) = 0xFF := by
  rw [fp32_eq, if_pos h]
  split <;> rfl

theorem fp32_significand_bounds (x : Nat) : 2 ^ 23 ≤ 2 ^ 23 + bits x 0 23 ∧ 2 ^ 23 + bits x 0 23 < 2 ^ 24 := by
  have hfrac : bits x 0 23 < 2 ^ 23 := bits_lt x 0 23
  omega

theorem fp32_exp_le_of_ne_ones {x : Nat} (h : bits x 23 8 ≠ 255) : bits x 23 8 ≤ 254 := by
  have hlt : bits x 23 8 < 2 ^ 8 := bits_lt x 23 8
  omega

/-- A normal FP32 code converts to its own exponent field. -/
theorem toE8M0_fp32_of_normal {x : Nat} (h0 : bits x 23 8 ≠ 0) (h1 : bits x 23 8 ≠ 255) :
    toE8M0 (fp32 x) = bits x 23 8 := by
  obtain ⟨hlo, hhi⟩ := fp32_significand_bounds x
  rw [fp32_of_normal h0 h1]
  exact toE8M0_of_log2 _ hlo hhi (by omega) (fp32_exp_le_of_ne_ones h1)

end Sys2Proof.Machine

open Sys2Proof Sys2Proof.Machine

/-- Settles O2: an FP32 code converts by its exponent field, a normal code to that field itself, the floor of its
logarithm plus the bias. -/
theorem scaleCodesAndConversion : Obligations.ScaleCodesAndConversion := by
  refine ⟨fun e he => decodeVal_e8m0 he, decodeVal_e8m0_ff, ?_, ?_⟩
  · intro x signed o r _
    rw [convert_e8m0_code]
    refine ⟨toE8M0_fp32_of_exp_zero, toE8M0_fp32_of_exp_ones, fun h0 h1 => ?_⟩
    obtain ⟨hlo, hhi⟩ := fp32_significand_bounds x
    rw [toE8M0_fp32_of_normal h0 h1]
    exact ⟨_, _, _, fp32_of_normal h0 h1, hlo, hhi, by omega, fp32_exp_le_of_ne_ones h1⟩
  · intro v
    rw [decodeVal_e8m0_ff]
    exact ⟨Val.nan_mul v, Val.mul_nan v⟩

end

section
/-! Family 15, health counters and the register index: the source of event 12 that ASY_CTR_EV records (R458-R460). -/
namespace Sys2Proof.Machine

/-! ### Event 12 and its record (R460) -/

/-- Firing event 12 leaves the record of its source: a route is another register. -/
theorem Chip.word_fire_ctrEv (c : Chip) : (c.fire 12).word ASY_CTR_EV = c.word ASY_CTR_EV :=
  c.fire_word 12 (by decide)

/-- The fields of the record read alike where its word does. -/
theorem Chip.get_of_word_ctrEv {c d : Chip} {f : RF} (h : d.word ASY_CTR_EV = c.word ASY_CTR_EV)
    (hf : f.reg = ASY_CTR_EV) : d.get f = c.get f := by
  simp only [Chip.get, hf, h]

/-- A source recorded earlier stays. -/
theorem Chip.word_ctrEv_of_valid (c : Chip) (off kind : Nat) (h : c.get ASY_CTR_EV.VALID = 1) :
    (c.ctrEv off kind).word ASY_CTR_EV = c.word ASY_CTR_EV := by
  have hon : c.on ASY_CTR_EV.VALID = true := by simp [Chip.on, h]
  simp only [Chip.ctrEv, hon, if_true, Chip.word_fire_ctrEv]

/-- Before event 12 fires, an armed record takes the source. -/
theorem Chip.ctrEv_of_armed (c : Chip) (off kind : Nat) (h : c.get ASY_CTR_EV.VALID = 0) :
    c.ctrEv off kind =
      (((c.put ASY_CTR_EV.OFFSET off).put ASY_CTR_EV.KIND kind).put ASY_CTR_EV.VALID 1).fire 12 := by
  have hoff : c.on ASY_CTR_EV.VALID = false := by simp [Chip.on, h]
  simp [Chip.ctrEv, hoff]

/-- The record holds the source at offset `off` and of kind `kind`, and is valid. -/
def Chip.SourceIs (c : Chip) (off kind : Nat) : Prop :=
  c.get ASY_CTR_EV.OFFSET = off ∧ c.get ASY_CTR_EV.KIND = kind ∧ c.get ASY_CTR_EV.VALID = 1

/-- An armed record takes a source whose offset and kind fit their fields. -/
theorem Chip.sourceIs_ctrEv (c : Chip) {off kind : Nat} (h : c.get ASY_CTR_EV.VALID = 0) (hoff : off < 2 ^ 26)
    (hkind : kind < 2) : (c.ctrEv off kind).SourceIs off kind := by
  have fits : ∀ f ∈ [ASY_CTR_EV.OFFSET, ASY_CTR_EV.KIND, ASY_CTR_EV.VALID], f.lo + f.len ≤ 64 := by decide
  rw [Chip.ctrEv_of_armed c off kind h]
  refine ⟨?_, ?_, ?_⟩ <;> rw [Chip.get_of_word_ctrEv (Chip.word_fire_ctrEv _) rfl]
  · rw [Chip.get_put_disj _ ASY_CTR_EV.VALID ASY_CTR_EV.OFFSET _ rfl (fits _ (by decide)) (by decide),
      Chip.get_put_disj _ ASY_CTR_EV.KIND ASY_CTR_EV.OFFSET _ rfl (fits _ (by decide)) (by decide),
      Chip.get_put_same _ _ _ (fits _ (by decide))]
    exact Nat.mod_eq_of_lt hoff
  · rw [Chip.get_put_disj _ ASY_CTR_EV.VALID ASY_CTR_EV.KIND _ rfl (fits _ (by decide)) (by decide),
      Chip.get_put_same _ _ _ (fits _ (by decide))]
    exact Nat.mod_eq_of_lt hkind
  · exact Chip.get_put_same _ _ _ (fits _ (by decide))

/-! ### The counters that raise it (R458, R459) -/

/-- An event counter that passes its maximum stops there, sets SAT and raises event 12. -/
theorem Chip.count_past_max (c : Chip) (r : Reg) (n : Nat) (hsat : bit (c.word r) 63 = false)
    (hn : 2 ^ 48 ≤ bits (c.word r) 0 48 + n) :
    c.count r n = (c.setWord r (setBits (setBits (c.word r) 0 48 (2 ^ 48 - 1)) 63 1 1)).ctrEv r.key 0 := by
  have hcount : bits (c.word r) 0 48 < 2 ^ 48 := bits_lt _ _ _
  have hn0 : n ≠ 0 := by omega
  have hruns : ¬ (bit (c.word r) 63 = true ∨ n = 0) := by simp [hsat, hn0]
  have hover : ¬ bits (c.word r) 0 48 + n ≤ 2 ^ 48 - 1 := by omega
  simp only [Chip.count, if_neg hruns, if_neg hover]

/-- A volume counter that wraps advances its EPOCH and raises event 12. -/
theorem Chip.volume_wrapped (c : Chip) (r : Reg) (ep : RF) (n : Nat) (hn : 2 ^ 64 ≤ c.word r + ceilDiv n 64) :
    c.volume r ep n = ((c.setWord r ((c.word r + ceilDiv n 64) % 2 ^ 64)).inc ep).ctrEv r.key 1 := by
  simp only [Chip.volume, if_neg (Nat.not_lt.2 hn)]

/-- An event counter elsewhere that passes its maximum is recorded, where no source is. -/
theorem Chip.sourceIs_count (c : Chip) {r : Reg} {n : Nat} (hkey : r.key < 2 ^ 26) (hne : r.key ≠ ASY_CTR_EV.key)
    (hsat : bit (c.word r) 63 = false) (hn : 2 ^ 48 ≤ bits (c.word r) 0 48 + n) (hv : c.get ASY_CTR_EV.VALID = 0) :
    (c.count r n).SourceIs r.key 0 := by
  rw [c.count_past_max r n hsat hn]
  have hkept := Chip.word_setWord_ne c (setBits (setBits (c.word r) 0 48 (2 ^ 48 - 1)) 63 1 1) hne.symm
  exact Chip.sourceIs_ctrEv _ ((Chip.get_of_word_ctrEv hkept rfl).trans hv) hkey (by decide)

/-- A volume counter elsewhere whose EPOCH advances is recorded, where no source is. -/
theorem Chip.sourceIs_volume (c : Chip) {r : Reg} {ep : RF} {n : Nat} (hkey : r.key < 2 ^ 26)
    (hne : r.key ≠ ASY_CTR_EV.key) (hep : ep.reg.key ≠ ASY_CTR_EV.key) (hn : 2 ^ 64 ≤ c.word r + ceilDiv n 64)
    (hv : c.get ASY_CTR_EV.VALID = 0) : (c.volume r ep n).SourceIs r.key 1 := by
  rw [c.volume_wrapped r ep n hn]
  have hkept := (Chip.word_inc_ne _ ep hep.symm).trans
    (Chip.word_setWord_ne c ((c.word r + ceilDiv n 64) % 2 ^ 64) hne.symm)
  exact Chip.sourceIs_ctrEv _ ((Chip.get_of_word_ctrEv hkept rfl).trans hv) hkey (by decide)

/-! ### The write that re-arms it (R11, R460) -/

/-- The word that a write of `v` leaves in ASY_CTR_EV: only VALID is written, and a one clears it. -/
def ctrEvAfter (old v : Nat) : Nat := if bit v 63 then setBits old 63 1 0 else old

theorem ctrEvAfter_lt {old : Nat} (v : Nat) (h : old < 2 ^ 64) : ctrEvAfter old v < 2 ^ 64 := by
  unfold ctrEvAfter
  split
  · exact setBits_lt h (by decide)
  · exact h

theorem bits_ctrEvAfter_valid (old v : Nat) :
    bits (ctrEvAfter old v) 63 1 = if bit v 63 then 0 else bits old 63 1 := by
  unfold ctrEvAfter
  split
  · exact bits_setBits_same _ _ _ _
  · rfl

/-- The fields below VALID keep their values. -/
theorem bits_ctrEvAfter_below (old v : Nat) {lo len : Nat} (h : lo + len ≤ 63) :
    bits (ctrEvAfter old v) lo len = bits old lo len := by
  unfold ctrEvAfter
  split
  · exact bits_setBits_disj (.inl h)
  · rfl

/-- The row of ASY_CTR_EV in the register index. -/
def ctrEvRow : RegRow :=
  ⟨.asyCtrEv, .asy, 0x10, 0, 1, 0, 1, [⟨0, 26, .ro, false⟩, ⟨26, 1, .ro, false⟩, ⟨63, 1, .w1c, false⟩]⟩

theorem Block.reg_ctrEv : Block.asy.reg 0x10 = some (ctrEvRow, 0, 0) := rfl

theorem ctrEvRow_store (old v : Nat) : ctrEvRow.store old v = ctrEvAfter old v := rfl

/-- The physical function's write of ASY_CTR_EV is found by its offset in block ASY_, where no rule of the register's own
replaces the access codes of its row. -/
theorem Chip.regWrite_pf_ctrEv (c : Chip) (v : Nat) :
    c.regWrite .pf ASY_CTR_EV.key v = c.setWord ASY_CTR_EV (ctrEvAfter (c.word ASY_CTR_EV) v) := by
  have hplace : c.locate ASY_CTR_EV.key = some ⟨.asy, 0x20000, 0x10⟩ := rfl
  have hown (plain : Chip) : c.writeTop .pf ctrEvRow.kind 0 v plain = plain := rfl
  simp only [Chip.regWrite, hplace, Block.reg_ctrEv, hown, ctrEvRow_store]
  rfl

theorem registerWrite_pf_ctrEv {s : State} (v : Word) (h : s.chip.answers ASY_CTR_EV.key = true) :
    registerWrite .pf ASY_CTR_EV.key v.toNat s =
      { s with chip := s.chip.setWord ASY_CTR_EV (ctrEvAfter (s.chip.word ASY_CTR_EV) v.toNat) } := by
  have hserved : ¬ (ASY_CTR_EV.key % 8 ≠ 0 ∨ ASY_CTR_EV.key ≥ 0x4000000
      ∨ (!false) = true ∧ (!s.chip.answers ASY_CTR_EV.key) = true) := by
    rw [h]
    decide
  have hrole : ¬ ASY_CTR_EV.key = HUB_ROLE.key := by decide
  simp only [registerWrite, if_neg hserved, State.regWrite, if_neg hrole, Nat.mod_eq_of_lt v.isLt,
    Chip.regWrite_pf_ctrEv]

/-- What the written register reads, field by field. -/
theorem Chip.get_setWord_ctrEvAfter (c : Chip) (v : Nat) {f : RF} (hf : f.reg = ASY_CTR_EV) :
    (c.setWord ASY_CTR_EV (ctrEvAfter (c.word ASY_CTR_EV) v)).get f =
      bits (ctrEvAfter (c.word ASY_CTR_EV) v) f.lo f.len := by
  rw [Chip.get, hf, Chip.word_setWord_same, Nat.mod_eq_of_lt (ctrEvAfter_lt v (c.word_lt _))]

end Sys2Proof.Machine

open Sys2Proof Sys2Proof.Machine

/-- Settles O3: an armed record takes the counter that raises event 12, a valid one keeps what it holds, and of a write only
bit 63 reaches the register. -/
theorem counterEventSourceIsRecorded : Obligations.CounterEventSourceIsRecorded := by
  refine ⟨rfl, ?_, ?_, ?_, ?_⟩
  · intro c r n hkey hne _ hsat hn hv
    exact c.sourceIs_count hkey hne hsat hn hv
  · intro c r ep n hkey hne hep hn hv
    exact c.sourceIs_volume hkey hne hep hn hv
  · intro c off kind hv
    exact c.word_ctrEv_of_valid off kind hv
  · intro v s hanswers
    refine ⟨_, congrArg Host.Outcome.next (registerWrite_pf_ctrEv v hanswers), ?_, ?_, ?_, rfl, ?_⟩
    · exact (s.chip.get_setWord_ctrEvAfter _ rfl).trans (bits_ctrEvAfter_valid _ _)
    · exact (s.chip.get_setWord_ctrEvAfter _ rfl).trans (bits_ctrEvAfter_below _ _ (by decide))
    · exact (s.chip.get_setWord_ctrEvAfter _ rfl).trans (bits_ctrEvAfter_below _ _ (by decide))
    · intro r hr
      exact Chip.word_setWord_ne s.chip _ (by simpa using hr)

end
